-- ==== Sys2Proof/Word.lean ====
section
/-! DEFINITION. The word types of the VX418 model and their plainest arithmetic. -/

namespace Sys2Proof

/-- One byte, as the link and the bulk store carry it. -/
abbrev Byte := BitVec 8

/-- A 32-bit number that wraps: a meter ID, a run-clock time, a count of seconds. -/
abbrev Word := BitVec 32

end Sys2Proof
end

