-- ==== Sys2Proof/Syntax.lean ====
section
/-! DEFINITION. The commands of the VX418: one constructor per row of spec/opcode_table.json. -/

namespace Sys2Proof

/-- What a receiver port samples of its RXD line for one item, before polarity invert. A port in NRZ mode
uses `first`, the level at the middle of the bit period (R2). A port in MAN mode uses the levels of the
two halves of the pair; where the port has moved its half-bit alignment, the first half is the level it
holds and only `second` is new (R3). -/
structure Sample where
  first : Bool
  second : Bool
deriving DecidableEq, Repr

/-- What brings a framing error to a channel: an item of its port, or a carrier loss (R18, R24). -/
inductive NoiseCause where
  | item (smp : Sample)
  | carrierLoss
deriving DecidableEq, Repr

/-- The commands, in the table's order. A row that is a command of the trunk link carries the tag of its
command frame and the argument bytes that follow the command code (R176, R188). -/
inductive Instr where
  | powerOnReset
  | lineReset
  | commandReset
  | storeReady
  | storeReadyTimeout
  | configLoadDone
  | journalScanDone
  | routeHeaderReadDone
  | resumeRebuildDone
  | journalReplayDone
  | rxcInactive (p : Fin 8)
  | rxcActive (p : Fin 8)
  | pn9Locked (p : Fin 8) (level : Bool)
  | pn9Lost (p : Fin 8) (level : Bool)
  | syncMatch (c : Fin 8) (smp : Sample)
  | badcodeAbort (c : Fin 8) (smp : Sample)
  | frameBodyComplete (c : Fin 8) (smp : Sample)
  | noisy (c : Fin 8) (cause : NoiseCause)
  | noiseWindowEnd
  | tpiEdge
  | pulseLost
  | frameTake
  | bucketReadDone
  | walkCompleteFound (w : Fin 4)
  | walkCompleteNotFound (w : Fin 4)
  | walkCompleteFailed (w : Fin 4)
  | mergeExpiry (e : Fin 32)
  | flushMergeCommit
  | flushMergeDone
  | appendProgramDone
  | journalSectorOpened
  | reclaimEraseDone
  | markSlotReadDone
  | markProgramDone
  | programTimeout
  | eraseTimeout
  | uploadReadDone
  | uploadTimeout
  | linkTuned (rate : Nat)
  | linkBreak
  | linkFramingError
  | linkFrameReceived (b : Byte)
  | unknownCommand (tag code : Byte) (args : List Byte)
  | longOpReply
  | transmitBegin
  | transmitEnd
  | portSet (tag : Byte) (args : List Byte)
  | mapSet (tag : Byte) (args : List Byte)
  | familySet (tag : Byte) (args : List Byte)
  | channelSet (tag : Byte) (args : List Byte)
  | checkRead (tag : Byte) (args : List Byte)
  | timeSet (tag : Byte) (args : List Byte)
  | timeRead (tag : Byte) (args : List Byte)
  | pulseMode (tag : Byte) (args : List Byte)
  | routeClear (tag : Byte) (args : List Byte)
  | routeClearDone
  | routeLoad (tag : Byte) (args : List Byte)
  | routeLoadStoreOpDone
  | routeFinish (tag : Byte) (args : List Byte)
  | routeFinishReadDone
  | routeHeaderWriteDone
  | routeDigest (tag : Byte) (args : List Byte)
  | routeDigestDone
  | routeOpen (tag : Byte) (args : List Byte)
  | routeOpenReadDone
  | routeClose (tag : Byte) (args : List Byte)
  | routeCloseWalksEnded
  | routeCloseDone
  | routeQuery (tag : Byte) (args : List Byte)
  | routeQueryReadDone
  | segmentRead (tag : Byte) (args : List Byte)
  | unreadList (tag : Byte) (args : List Byte)
  | cacheFlush (tag : Byte) (args : List Byte)
  | cacheProbe (tag : Byte) (args : List Byte)
  | rangeSet (tag : Byte) (args : List Byte)
  | rangeClear (tag : Byte) (args : List Byte)
  | foreignPolicy (tag : Byte) (args : List Byte)
  | utilitySet (tag : Byte) (args : List Byte)
  | mergeSet (tag : Byte) (args : List Byte)
  | flushMerge (tag : Byte) (args : List Byte)
  | ruleSet (tag : Byte) (args : List Byte)
  | ruleRead (tag : Byte) (args : List Byte)
  | configSave (tag : Byte) (args : List Byte)
  | configSaveDone
  | journalStatus (tag : Byte) (args : List Byte)
  | journalErase (tag : Byte) (args : List Byte)
  | journalEraseDone
  | uploadStart (tag : Byte) (args : List Byte)
  | uploadStop (tag : Byte) (args : List Byte)
  | uploadAck (tag : Byte) (args : List Byte)
  | status (tag : Byte) (args : List Byte)
  | countersRead (tag : Byte) (args : List Byte)
  | countersClear (tag : Byte) (args : List Byte)
  | eventsClear (tag : Byte) (args : List Byte)
  | eventMask (tag : Byte) (args : List Byte)
  | reset (tag : Byte) (args : List Byte)
  | itemDelivered (p : Fin 8) (smp : Sample)
  | checkerBit (p : Fin 8) (level : Bool)
  | runClockMillisecond
  | characterAccepted (b : Byte)
  | lossOfPower
deriving DecidableEq, Repr

end Sys2Proof
end

