-- ==== Sys2Proof/Decode.lean ====
section
/-! DEFINITION. The decoder of table words. -/

namespace Sys2Proof

/-- The command a word spells by the table's bits. No row of the opcode table gives bits, so no word spells a
command (log 24). -/
def decodeTableWord (_nbits _w : Nat) : Option Instr := none

end Sys2Proof
end

