-- ==== Sys2Proof/Config.lean ====
section
/-! DEFINITION. The values the manual leaves open, one opaque constant for each kind. -/

namespace Sys2Proof.Config

/-- FREE VALUE (log 8): the byte at a store address that a program or erase had begun on when it was cut
short or timed out. R132 leaves such bytes "in no defined state". The first argument numbers the
occasion, the second is the address. -/
opaque freeByte : Nat → Nat → Byte

end Sys2Proof.Config
end

