-- ==== Sys2Proof/Machine/Bits.lean ====
section
/-! DEFINITION. Byte order, bit counts and checksums. -/

namespace Sys2Proof.Machine

/-- `w` as `n` bytes, most significant first (introduction, Byte order; R188). -/
def beBytes : Nat → Nat → List Byte
  | 0, _ => []
  | n + 1, w => BitVec.ofNat 8 (w / 256 ^ n) :: beBytes n w

/-- The unsigned number that bytes spell, the first being the most significant (R188). -/
def beNat (bs : List Byte) : Nat :=
  bs.foldl (fun acc b => acc * 256 + b.toNat) 0

/-- A yes or no as one byte, 00H or 01H (R188). -/
def boolByte (b : Bool) : Byte := if b then 1#8 else 0#8

/-- The number of ones of a 32-bit word. -/
def popCount (w : Word) : Nat :=
  (List.range 32).foldl (fun acc i => if w.getLsbD i then acc + 1 else acc) 0

/-- One bit-step of an MSB-first CRC register of 16 bits (R19): shift left, and fold the polynomial in
where a one fell out. -/
def crc16Shift (poly r : BitVec 16) : BitVec 16 :=
  if r.msb then (r <<< 1) ^^^ poly else r <<< 1

/-- One byte into a 16-bit CRC, most significant bit first, no reflection (R19). -/
def crc16Byte (poly r : BitVec 16) (b : Byte) : BitVec 16 :=
  let x := r ^^^ (b.zeroExtend 16 <<< 8)
  (List.range 8).foldl (fun acc _ => crc16Shift poly acc) x

/-- CRC-16 of kind K1: polynomial 1021H, initial value FFFFH, no final step (R19). -/
def crcK1 (bs : List Byte) : BitVec 16 :=
  bs.foldl (crc16Byte 0x1021#16) 0xFFFF#16

/-- CRC-16 of kind K2: polynomial 3D65H, initial value 0, complemented at the end (R19). -/
def crcK2 (bs : List Byte) : BitVec 16 :=
  ~~~ (bs.foldl (crc16Byte 0x3D65#16) 0#16)

/-- One bit-step of the 32-bit CRC of R47. -/
def crc32Shift (r : Word) : Word :=
  if r.msb then (r <<< 1) ^^^ 0x04C11DB7#32 else r <<< 1

/-- One byte into the 32-bit CRC of R47, most significant bit first. -/
def crc32Byte (r : Word) (b : Byte) : Word :=
  let x := r ^^^ (b.zeroExtend 32 <<< 24)
  (List.range 8).foldl (fun acc _ => crc32Shift acc) x

/-- The CRC-32 of R47: polynomial 04C11DB7H, initial value FFFFFFFFH, complemented at the end. -/
def crc32 (bs : List Byte) : Word :=
  ~~~ (bs.foldl crc32Byte 0xFFFFFFFF#32)

/-- The two CRC bytes that close a 32-byte record, the more significant first (R19). -/
def crcBytes (c : BitVec 16) : List Byte := beBytes 2 c.toNat

/-- A run-clock instant `t` is reached at `now` when (now − t) mod 2³² is below 2³¹ (R27). -/
def reached (now t : Word) : Bool := (now - t).toNat < 2147483648

/-- `x` clipped to `hi` (the counts that stop at their largest value). -/
def capTo (hi x : Nat) : Nat := min hi x

/-- The numbers 0 to 7: the ports, channels and families in ascending order. -/
def eight : List (Fin 8) := [0, 1, 2, 3, 4, 5, 6, 7]

/-- A table entry by number; `d` where the number names no entry. -/
def tableAt {α : Type} {n : Nat} (v : Vector α n) (i : Nat) (d : α) : α :=
  if h : i < n then v[i] else d

/-- Every entry of a table replaced by its image. -/
def tableMap {α : Type} {n : Nat} (f : α → α) (v : Vector α n) : Vector α n :=
  ⟨⟨v.toList.map f⟩, by simp⟩

/-- The lowest-numbered entry of a table that `p` accepts. -/
def tableFind {α : Type} {n : Nat} (p : α → Bool) (v : Vector α n) : Option (Fin n) :=
  (List.finRange n).find? (fun i => p v[i])

end Sys2Proof.Machine
end

