-- ==== Sys2Proof/Machine/Params.lean ====
section
/-! DEFINITION. The constants the manual fixes for the VX418. -/

namespace Sys2Proof.Machine

/-- Bytes of one sector of the bulk store (section 7.1). -/
def sectorSize : Nat := 65536

/-- Bytes of one slot of the directory, the header sector and the journal (sections 3.1, 3.2, 7.3). -/
def slotSize : Nat := 32

/-- Slots of one sector. -/
def sectorSlots : Nat := 2048

/-- The route header sector (section 7.1). -/
def headerSector : Nat := 1

/-- The first sector of the route directory (section 7.1). -/
def dirSector : Nat := 2

/-- The sectors of the route directory (section 7.1). -/
def dirSectors : Nat := 16

/-- The first journal sector (section 7.1). -/
def journalFirst : Nat := 18

/-- The last journal sector (section 7.1). -/
def journalLast : Nat := 511

/-- The sectors of the journal ring (R138). -/
def journalSectors : Nat := 494

/-- The most records a route holds (section 3.2). -/
def maxMeters : Nat := 16384

/-- Open day, prior day and route index that stand for none (R188). -/
def none16 : Nat := 65535

/-- The largest value of a counter (introduction, Counters). -/
def counterMax : Nat := 4294967295

/-- The largest error or bit count of a PN9 checker (R7). -/
def checkerMax : Nat := 16777215

/-- The part code of image and STATUS (R134, R185). -/
def partCode : Nat := 418

/-- The revision this manual describes (R185). -/
def revision : Nat := 1

/-- The length of the configuration image (R134). -/
def imageLength : Nat := 379

/-- The time a page program may take, in ms (R132). -/
def programLimit : Nat := 10

/-- The erase time a sector erase may take, and the time the ready wait may take, in ms (R132, R133). -/
def eraseLimit : Nat := 3000

/-- The upload timeout in ms (R160, R163). -/
def uploadTimeout : Nat := 4000

/-- The append queue's room (R139). -/
def queueRoom : Nat := 64

/-- The notice queue's room (R180). -/
def noticeRoom : Nat := 16

/-- The live queue's room (R181). -/
def liveRoom : Nat := 64

/-- The inbound buffer's room (R175). -/
def inboundRoom : Nat := 2

/-- The upload window's room in frames, and a frame's room in records (R159, R161). -/
def windowRoom : Nat := 8

/-- The slots of a channel (R23). -/
def slotRoom : Nat := 2

/-- The most body bytes of a link frame (section 9.2). -/
def maxBody : Nat := 1024

end Sys2Proof.Machine
end

