-- ==== Sys2Proof/Machine/State.lean ====
section
/-! DEFINITION. The state of the VX418, as the manual gives it block by block, and its value right after
power-on reset. -/

namespace Sys2Proof.Machine

/-! ### Chapter 1: receiver ports, channels, families -/

/-- Port modes, in the order of the table of section 1.1. -/
inductive PortMode where
  | off | nrz | man | check
deriving DecidableEq, Repr

/-- The four settings of a receiver port (section 1.1). -/
structure PortSettings where
  mode : PortMode
  invert : Bool
  bitRate : Nat
  carrierQualify : Bool
deriving DecidableEq, Repr

/-- The PN9 checker's states, in the order of section 1.1.1. -/
inductive CheckerPhase where
  | search | locked | lost
deriving DecidableEq, Repr

/-- A port's PN9 checker (R6, R7). `register` holds the most recent bits, bit 0 the newest; `filled` is how
many it has received, up to nine; `outcomes` are the kept comparisons, newest first, `true` for a wrong
one. -/
structure Checker where
  phase : CheckerPhase
  register : BitVec 9
  filled : Nat
  run : Nat
  errors : Nat
  bits : Nat
  outcomes : List Bool
deriving DecidableEq, Repr

/-- A receiver port: its settings, the level of its RXC line, the half bit its Manchester clock holds
(R3) and its checker. -/
structure Port where
  settings : PortSettings
  carrier : Bool
  heldHalf : Option Bool
  checker : Checker
deriving DecidableEq, Repr

/-- CRC kinds of a family, in the order of section 1.2.2. -/
inductive CrcKind where
  | none | k1 | k2
deriving DecidableEq, Repr

/-- Encodings of a value field. -/
inductive ValueEncoding where
  | bin | bcd
deriving DecidableEq, Repr

/-- A family table entry (section 1.2.2). -/
structure Family where
  valid : Bool
  syncLen : Nat
  pattern : Word
  tolerance : Nat
  bodyLen : Nat
  idOffset : Nat
  idLen : Nat
  valueOffset : Nat
  valueLen : Nat
  encoding : ValueEncoding
  indOffset : Nat
  indMask : Byte
  crc : CrcKind
deriving DecidableEq, Repr

/-- A channel's framer (section 1.3). HUNT holds the 32-bit window, bit 0 the newest, and the bits received
since it was cleared. BODY holds the matched family, the sync mismatch count, the body bits in the order
received and the violation count. -/
inductive Framer where
  | off
  | hunt (window : Word) (count : Nat)
  | body (family : Fin 8) (mismatches : Nat) (bits : List Bool) (violations : Nat)
deriving DecidableEq, Repr

/-- A frame record (R21). -/
structure FrameRecord where
  channel : Fin 8
  family : Fin 8
  meterId : Word
  value : Nat
  indicators : Byte
  quality : Nat
  seconds : Word
  timeValid : Bool
deriving DecidableEq, Repr

/-- A logical channel: settings, framer, slots (oldest first) and noise monitor (sections 1.2 to 1.5). -/
structure Channel where
  source : Option (Fin 8)
  mask : Byte
  threshold : Nat
  framer : Framer
  slots : List FrameRecord
  noisy : Bool
  windowCount : Nat
deriving DecidableEq, Repr

/-! ### Chapter 2: time base -/

/-- Pulse modes, in the order of section 2.3. -/
inductive PulseMode where
  | off | monitor | once | continuous
deriving DecidableEq, Repr

/-- The time base (chapter 2). `present` is the pulse status, `lossExpiry` is `none` while disarmed. -/
structure TimeBase where
  runClock : Word
  runSeconds : Word
  todSeconds : Word
  todMs : Nat
  timeValid : Bool
  mode : PulseMode
  window : Nat
  present : Bool
  lastEdge : Option Word
  lossExpiry : Option Word
  snapshot : Int
deriving DecidableEq, Repr

/-! ### Chapter 3: route manager -/

/-- Routing classes, numbered as in section 9.8. -/
inductive RoutingClass where
  | live | store | both | drop
deriving DecidableEq, Repr

/-- The attributes a route record gives its meter (section 4.2). -/
structure RouteAttrs where
  family : Nat
  utility : Nat
  segment : Fin 256
  cls : RoutingClass
  rule : Nat
  digits : Nat
  prior : Nat
  priorDay : Nat
deriving DecidableEq, Repr

/-- A route record as read from the directory (section 3.1). -/
structure RouteRecord where
  meterId : Word
  index : Nat
  attrs : RouteAttrs
deriving DecidableEq, Repr

/-- Route states, in the order of section 3.2. -/
inductive RouteState where
  | empty | loading | ready | opened | closed | resuming
deriving DecidableEq, Repr

/-- Status of a route meter, in the order of section 3.4. -/
inductive MeterStatus where
  | unread | read | flagged | unstored | excluded
deriving DecidableEq, Repr

/-- A status table entry (section 3.4). -/
structure StatusEntry where
  meterId : Word
  segment : Fin 256
  status : MeterStatus
  lastValue : Option Nat
  lastCommit : Option Word
deriving DecidableEq, Repr

/-- A segment table entry (section 3.4). -/
structure SegmentEntry where
  meters : Nat
  excluded : Nat
  read : Nat
  flagged : Nat
  done : Bool
deriving DecidableEq, Repr

/-- The route manager (section 3.2). `status` lists the entries 0 to meter count − 1 while the table is
built; `openDay` is 65,535 for none. -/
structure RouteManager where
  state : RouteState
  meterCount : Nat
  digest : Word
  firstSerial : Nat
  openDay : Nat
  built : Bool
  status : List StatusEntry
  segments : Vector SegmentEntry 256
  routeDone : Bool
deriving DecidableEq, Repr

/-! ### Chapter 4: classifier -/

/-- Range modes, numbered as in R76. -/
inductive RangeMode where
  | direct | fallback
deriving DecidableEq, Repr

/-- A range table entry (section 4.5). `family` is `none` for ANY. -/
structure RangeEntry where
  valid : Bool
  base : Word
  k : Nat
  mode : RangeMode
  utility : Nat
  cls : RoutingClass
  rule : Nat
  family : Option Nat
deriving DecidableEq, Repr

/-- The attributes a range gives (section 4.2). -/
structure RangeAttrs where
  family : Option Nat
  utility : Nat
  cls : RoutingClass
  rule : Nat
deriving DecidableEq, Repr

/-- The source a frame leaves the classifier with, and its attributes (section 4.2). -/
inductive Source where
  | route (index : Nat) (attrs : RouteAttrs)
  | range (number : Fin 8) (attrs : RangeAttrs)
  | foreign
deriving DecidableEq, Repr

/-- Kinds of route cache entry (section 4.4). -/
inductive CacheKind where
  | route (index : Nat) (attrs : RouteAttrs)
  | foreign
deriving DecidableEq, Repr

/-- A valid route cache entry (section 4.4). -/
structure CacheEntry where
  kind : CacheKind
  meterId : Word
  age : Nat
deriving DecidableEq, Repr

/-- Outcomes of a walk (section 4.6). -/
inductive WalkOutcome where
  | found (rec : RouteRecord)
  | notFound
  | failed
deriving DecidableEq, Repr

/-- A pending walk (section 4.6): in READING while `outcome` is `none`, in DONE otherwise. `waiting` lists
the hold buffers of its frames in the order they were parked. -/
structure Walk where
  meterId : Word
  home : Nat
  bucketNo : Nat
  outcome : Option WalkOutcome
  waiting : List (Fin 16)
deriving DecidableEq, Repr

/-- Foreign policies, in the order of R68. -/
inductive ForeignPolicy where
  | drop | live | store | both
deriving DecidableEq, Repr

/-- The classifier and route lookup (chapter 4). Bit n of `utilities` is set when code n is in the active
utility set. -/
structure Classifier where
  lastServed : Fin 8
  stalled : Bool
  held : Option FrameRecord
  stopped : Bool
  cache : Vector (Option CacheEntry) 64
  ranges : Vector RangeEntry 8
  walks : Vector (Option Walk) 4
  pool : Vector (Option FrameRecord) 16
  policy : ForeignPolicy
  utilities : BitVec 16
deriving DecidableEq, Repr

/-! ### Chapters 5 and 6: merge and commit, rules -/

/-- A merge entry in use (section 5.1). -/
structure MergeEntry where
  meterId : Word
  source : Source
  noDir : Bool
  firstFamily : Fin 8
  families : Byte
  idClash : Bool
  kept : Nat
  unsteady : Bool
  firstSeconds : Word
  firstValid : Bool
  expiry : Word
  count : Nat
  best : Nat
  channels : Byte
  indicators : Byte
  flush : Bool
deriving DecidableEq, Repr

/-- The merge and commit unit (chapter 5): its table, the hold H and the quiet interval Q. -/
structure MergeUnit where
  table : Vector (Option MergeEntry) 32
  hold : Nat
  quiet : Nat
deriving DecidableEq, Repr

/-- A rule table entry: rate ceiling C, reversal tolerance T, stagnant days S (section 6.1). -/
structure Rule where
  ceiling : Nat
  tolerance : Nat
  stagnant : Nat
deriving DecidableEq, Repr

/-- Kinds of reading, numbered as in the journal record layout of section 9.8. -/
inductive ReadingKind where
  | new | reread | range | foreign
deriving DecidableEq, Repr

/-- A committed reading: the content of a journal record and of a reading frame (R102, R104). -/
structure Reading where
  serial : Nat
  meterId : Word
  routeIndex : Nat
  kind : ReadingKind
  source : Nat
  family : Nat
  value : Nat
  seconds : Word
  rate : Nat
  flags : BitVec 16
  count : Nat
  best : Nat
  channels : Byte
  segment : Nat
  rule : Nat
  utility : Nat
deriving DecidableEq, Repr

/-! ### Chapter 7: bulk store and journal -/

/-- The contents of the bulk store: the bytes that are not FFH, addresses rising (log 1). -/
abbrev Memory := List Host.Cell

/-- Store operations (R129). A program's bytes are those sent to the store, before the AND. -/
inductive StoreOp where
  | read (addr len : Nat)
  | program (addr : Nat) (bytes : List Byte)
  | erase (sector : Nat)
deriving DecidableEq, Repr

/-- Who a store request belongs to; it fixes the class (R130). `uploadGone` is an upload read whose
gathering was given up while the read was in flight, or at a link break while it waited (log 20). -/
inductive Client where
  | walk (w : Fin 4)
  | query
  | append
  | opening
  | mark
  | reclaim
  | upload
  | uploadGone
  | longOp
  | startup
deriving DecidableEq, Repr

/-- A request that waits for the store port. -/
structure StoreReq where
  client : Client
  op : StoreOp
deriving DecidableEq, Repr

/-- The operation that holds the port, or the suspended erase: when it was issued or last resumed, and the
erase time counted before that (R132). -/
structure ActiveOp where
  client : Client
  op : StoreOp
  since : Word
  spent : Nat
deriving DecidableEq, Repr

/-- The store port (R130 to R133). `waiting` is oldest first. `failed` lists the requests answered failed
whose requester has not acted yet (log 19). `finishing` are the operations the store ends by itself after
a reset (R133). -/
structure StorePort where
  waiting : List StoreReq
  active : Option ActiveOp
  suspended : Option ActiveOp
  failed : List Client
  finishing : List StoreOp
deriving DecidableEq, Repr

/-- The start-up path (R149, R43, R57 to R59). `rebuild` counts the directory reads not ended; `replay` holds the
position the replay reads next and the counts of records replayed and passed over. -/
inductive StartPhase where
  | over
  | readyWait
  | configLoad
  | scan
  | headerRead
  | rebuild (left : Nat)
  | resumeClose
  | replay (sector slot replayed skipped : Nat)
deriving DecidableEq, Repr

/-- Journal states, in the order of section 7.3. -/
inductive JournalState where
  | scanning | ready | full | fault
deriving DecidableEq, Repr

/-- A record in the append queue; `flush` when a FLUSH MERGE in progress offered it (R108). -/
structure QueuedRecord where
  reading : Reading
  flush : Bool
deriving DecidableEq, Repr

/-- The journal state of section 7.3. `markBlocked` is set while the mark walk waits for a higher target
(R145); `marking` is the serial of the record whose mark program was requested last, until it ends (R145).
`discarded` counts the records discarded since the last reset, with their lowest and highest serial
(R153). -/
structure Journal where
  state : JournalState
  tail : Nat
  head : Nat
  headNext : Nat
  ahead : Nat
  nextSerial : Nat
  queue : List QueuedRecord
  markTarget : Nat
  markDone : Nat
  cursorSector : Nat
  cursorSlot : Nat
  markBlocked : Bool
  marking : Option Nat
  torn : Nat
  uncertain : Nat
  discarded : Nat
  discardedRange : Option (Nat × Nat)
deriving DecidableEq, Repr

/-! ### Chapter 8: upload engine -/

/-- Upload states, in the order of section 8.1. -/
inductive UploadState where
  | idle | streaming | stalled
deriving DecidableEq, Repr

/-- A record taken into an upload frame: its serial, its journal position and its 32 bytes as read. -/
structure UploadRecord where
  serial : Nat
  sector : Nat
  slot : Nat
  bytes : List Byte
deriving DecidableEq, Repr

/-- The upload engine (section 8.1). `gathered` are the records taken so far, `waiting` says that the
gathering waits at the head (R159). -/
structure UploadEngine where
  state : UploadState
  sector : Nat
  slot : Nat
  ready : Option (List UploadRecord)
  window : List (List UploadRecord)
  lastAck : Nat
  ceiling : Nat
  expiry : Option Word
  streak : Nat
  gathered : List UploadRecord
  waiting : Bool
deriving DecidableEq, Repr

/-! ### Chapter 9: trunk link -/

/-- A complete command frame: its tag and its body (R174). -/
structure CmdFrame where
  tag : Byte
  body : List Byte
deriving DecidableEq, Repr

/-- A reply: the tag echoed, the body, and whether it answers an accepted RESET (R186). -/
structure Reply where
  tag : Byte
  body : List Byte
  isReset : Bool
deriving DecidableEq, Repr

/-- Notices (R180). An EVENT notice carries the event number, the detail, the pending flags and the run
clock; a COMPLETION notice its scope, segment number and counts (section 9.8). -/
inductive Notice where
  | event (number : Nat) (detail : Word) (flags : BitVec 16) (runClock : Word)
  | completion (route : Bool) (segment meters second read flagged : Nat)
deriving DecidableEq, Repr

/-- A reading frame of the live queue, with its UNSTORED live-frame flag (R104). -/
structure LiveFrame where
  reading : Reading
  unstored : Bool
deriving DecidableEq, Repr

/-- What the transmitter sends. `owned` is cleared when the engine gives the frame up (R160). -/
inductive TxKind where
  | reply (isReset : Bool)
  | notice
  | reading (meterId : Word)
  | upload (frame : List UploadRecord) (owned : Bool)
deriving DecidableEq, Repr

/-- The frame in transmission: its kind and all its characters from A5H to the last CRC byte. -/
structure Transmission where
  kind : TxKind
  bytes : List Byte
deriving DecidableEq, Repr

/-- Where the work of a long operation stands (R177). Where a case ends with reads or erases still to do,
`left` counts the operations of the work that have not ended. -/
inductive Work where
  | clear (left : Nat)
  | load (rest : List (List Byte)) (written position bucketNo : Nat)
  | finishRead (left : Nat)
  | finishHeader (segments : Nat)
  | digest (left : Nat)
  | openRead (left : Nat)
  | openHeader (serial day : Nat)
  | closeWalks
  | closeHeader
  | closeEnd (stored : Bool)
  | query (meterId : Word) (bucketNo : Nat)
  | flush (committed repeats offered programmed unstored : Nat)
  | save (image : List Byte) (page : Nat)
  | eraseWait
  | eraseSpan (erased : Nat)
  | eraseOpen (erased : Nat)
  | eraseOld (erased old : Nat)
  | ended
deriving DecidableEq, Repr

/-- The long operation that holds the command unit: its command code, its tag, its work, and its reply once
the work has ended (R177). -/
structure LongOp where
  code : Byte
  tag : Byte
  work : Work
  reply : Option (List Byte)
deriving DecidableEq, Repr

/-- The trunk link and command unit (chapter 9). `rate` is `none` in UNTUNED. `rx` is `none` while frame
assembly hunts, else the bytes taken after A5H. `resetArmed` is set by an accepted RESET. -/
structure Trunk where
  rate : Option Nat
  rx : Option (List Byte)
  inbound : List CmdFrame
  reply : Option Reply
  notices : List Notice
  live : List LiveFrame
  overrun : Bool
  flags : BitVec 16
  mask : BitVec 16
  noticeSeq : Byte
  readingSeq : Byte
  uploadSeq : Byte
  tx : Option Transmission
  longOp : Option LongOp
  resetArmed : Bool
deriving DecidableEq, Repr

/-! ### The whole part -/

/-- The state of the VX418, and the queue of commands that wait, first in, first out. `powered` is cleared
by a loss of power (log 9); `freeIndex` numbers the free values of log 8. -/
structure State where
  pending : List Instr
  powered : Bool
  freeIndex : Nat
  ports : Vector Port 8
  channels : Vector Channel 8
  families : Vector Family 8
  tb : TimeBase
  rm : RouteManager
  cl : Classifier
  mc : MergeUnit
  rules : Vector Rule 16
  store : Memory
  port : StorePort
  startup : StartPhase
  storeFailed : Bool
  journal : Journal
  ue : UploadEngine
  tl : Trunk
  counters : Vector Nat 88
deriving DecidableEq, Repr

/-- Reasons to stop with a fault. There is none: the VX418 reports every failure in its state, and no
command reaches an address outside the store (INVENTORY.md, Faults). -/
inductive Fault where
deriving DecidableEq, Repr

/-- Reasons to refuse a command. -/
inductive Refusal where
  /-- Raised by `exec` alone, for a command that has no meaning yet; safe, since nothing is claimed of it. -/
  | notModelled (mnemonic : String)
deriving DecidableEq, Repr

/-! ### Reset values -/

/-- The defaults of a port's settings (section 1.1). -/
def PortSettings.default : PortSettings := ⟨.off, false, 4800, false⟩

/-- A checker that has entered SEARCH with its counts at 0 (R1, R6). -/
def Checker.start : Checker := ⟨.search, 0#9, 0, 0, 0, 0, []⟩

/-- A port after power-on: default settings, clock afresh, RXC inactive (R1, log 10). The checker of a port in CHECK
mode starts in SEARCH with its counts at 0 (R1); of a port in another mode, as after a reset, the manual says nothing,
and the model puts the same (DESIGN CHOICE: log 47). -/
def Port.reset : Port := ⟨.default, false, none, .start⟩

/-- A channel after power-on, taking port `n` (R10, R13, R23, R24). -/
def Channel.reset (n : Fin 8) : Channel := ⟨some n, 0#8, 16, .off, [], false, 0⟩

/-- An invalid family entry, its other fields 0 (R11). -/
def Family.invalid : Family := ⟨false, 0, 0#32, 0, 0, 0, 0, 0, 0, .bin, 0, 0#8, .none⟩

/-- An empty segment table entry. -/
def SegmentEntry.empty : SegmentEntry := ⟨0, 0, 0, 0, false⟩

/-- An invalid range entry, its other fields 0 (R75). -/
def RangeEntry.invalid : RangeEntry := ⟨false, 0#32, 0, .direct, 0, .live, 0, none⟩

/-- The time base after a reset, before the image is handed over (section 2.6); no edge has been accepted since
(`lastEdge`, DESIGN CHOICE: log 10). -/
def TimeBase.reset : TimeBase := ⟨0#32, 0#32, 0#32, 0, false, .off, 20, false, none, none, 0⟩

/-- The route manager after a reset (R43). Until the header is read its meter count, digest, first serial and open day
are those of a route without a header (DESIGN CHOICE: log 10). -/
def RouteManager.reset : RouteManager :=
  ⟨.resuming, 0, 0#32, 0, 65535, false, [], Vector.replicate 256 .empty, false⟩

/-- The classifier after a reset, before the image is handed over (section 4.10). -/
def Classifier.reset : Classifier :=
  ⟨7, false, none, false, Vector.replicate 64 none, Vector.replicate 8 .invalid, Vector.replicate 4 none,
    Vector.replicate 16 none, .drop, 0x000F#16⟩

/-- The merge unit after a reset, before the image is handed over (R110). -/
def MergeUnit.reset : MergeUnit := ⟨Vector.replicate 32 none, 1500, 900⟩

/-- The store port with nothing to do (R149). -/
def StorePort.idle : StorePort := ⟨[], none, none, [], []⟩

/-- The journal after a reset, before the scan (R149, log 10). -/
def Journal.reset : Journal := ⟨.scanning, 0, 0, 0, 0, 1, [], 0, 0, 0, 0, false, none, 0, 0, 0, none⟩

/-- The upload engine after a reset, before the scan (R156). -/
def UploadEngine.reset : UploadEngine := ⟨.idle, 0, 1, none, [], 0, 0, none, 0, [], false⟩

/-- The trunk link after power-on or line reset, before the image is handed over (R187). -/
def Trunk.reset : Trunk :=
  ⟨none, none, [], none, [], [], false, 0#16, 0xFFFF#16, 0#8, 0#8, 0#8, none, none, false⟩

/-- The machine right after power-on reset: every block at its reset value, the start-up path at the store
ready wait (R149, R187), an empty queue, and a store in which nothing has been written (log 1). -/
def State.reset : State where
  pending := []
  powered := true
  freeIndex := 0
  ports := Vector.replicate 8 .reset
  channels := #v[.reset 0, .reset 1, .reset 2, .reset 3, .reset 4, .reset 5, .reset 6, .reset 7]
  families := Vector.replicate 8 .invalid
  tb := .reset
  rm := .reset
  cl := .reset
  mc := .reset
  rules := Vector.replicate 16 ⟨0, 0, 0⟩
  store := []
  port := .idle
  startup := .readyWait
  storeFailed := false
  journal := .reset
  ue := .reset
  tl := .reset
  counters := Vector.replicate 88 0

end Sys2Proof.Machine
end

