-- ==== Sys2Proof/Machine/Ops.lean ====
section
/-! DEFINITION. The operations every block shares: the bulk store's bytes, the counters, events and
notices, and the end of a long operation. -/

namespace Sys2Proof.Machine

/-! ### The bulk store's bytes (section 7.1, R129) -/

/-- The canonical form: addresses strictly rising, and no listed byte FFH. -/
abbrev Memory.wf (m : Memory) : Prop :=
  m.Pairwise (fun a b => a.1 < b.1) ∧ ∀ c ∈ m, c.2 ≠ 0xFF#8

/-- The byte at an address; an unlisted one is erased (log 1). -/
def Memory.read (m : Memory) (a : Nat) : Byte :=
  match m.find? (fun c => c.1 == a) with
  | some c => c.2
  | none => 0xFF#8

/-- `bs` from address `a` on, as cells of the canonical form. -/
def Memory.cells (a : Nat) : List Byte → Memory
  | [] => []
  | b :: bs => if b = 0xFF#8 then Memory.cells (a + 1) bs else (a, b) :: Memory.cells (a + 1) bs

/-- The bytes from `a` on replaced by `bs`. -/
def Memory.put (m : Memory) (a : Nat) (bs : List Byte) : Memory :=
  m.filter (fun c => c.1 < a) ++ Memory.cells a bs ++ m.filter (fun c => a + bs.length ≤ c.1)

/-- The `n` bytes from `a` on erased. -/
def Memory.clear (m : Memory) (a n : Nat) : Memory :=
  m.filter (fun c => c.1 < a) ++ m.filter (fun c => a + n ≤ c.1)

/-- The walk along a canonical memory that folds the `n` bytes from `a` on; `m` lists nothing below `a`. -/
def Memory.foldFrom {α : Type} (f : α → Byte → α) : Memory → Nat → Nat → α → α
  | _, _, 0, acc => acc
  | [], a, n + 1, acc => Memory.foldFrom f [] (a + 1) n (f acc 0xFF#8)
  | c :: m, a, n + 1, acc =>
    if c.1 = a then Memory.foldFrom f m (a + 1) n (f acc c.2)
    else Memory.foldFrom f (c :: m) (a + 1) n (f acc 0xFF#8)

/-- Fold of the `n` bytes from `a` on, in store order. -/
def Memory.foldBytes {α : Type} (f : α → Byte → α) (m : Memory) (a n : Nat) (acc : α) : α :=
  Memory.foldFrom f (m.dropWhile (fun c => c.1 < a)) a n acc

/-- The `n` bytes from `a` on. -/
def Memory.bytes (m : Memory) (a n : Nat) : List Byte :=
  (Memory.foldBytes (fun acc b => b :: acc) m a n []).reverse

/-- Every byte of the region is FFH. -/
def Memory.blank (m : Memory) (a n : Nat) : Bool :=
  m.all (fun c => c.1 < a || a + n ≤ c.1)

/-- A rising list without its repeats. -/
def dedupRising : List Nat → List Nat
  | [] => []
  | [a] => [a]
  | a :: b :: l => if a = b then dedupRising (b :: l) else a :: dedupRising (b :: l)

/-- The slots, of `n` from address `a` on, that hold a byte other than FFH, in ascending order: the slots
that are not erased (R40, R137). -/
def Memory.occupied (m : Memory) (a n : Nat) : List Nat :=
  dedupRising (m.filterMap (fun c =>
    if a ≤ c.1 ∧ c.1 < a + n * slotSize then some ((c.1 - a) / slotSize) else none))

/-- What a completed operation leaves in the store: a program clears bits (the AND of R129), an erase
sets its sector to FFH, a read changes nothing. -/
def StoreOp.apply (op : StoreOp) (m : Memory) : Memory :=
  match op with
  | .read _ _ => m
  | .program a bs => m.put a (List.zipWith (· &&& ·) (m.bytes a bs.length) bs)
  | .erase sec => m.clear (sec * sectorSize) sectorSize

/-- Is the operation an erase? -/
def StoreOp.isErase : StoreOp → Bool
  | .erase _ => true
  | _ => false

/-- Is the operation a program? -/
def StoreOp.isProgram : StoreOp → Bool
  | .program _ _ => true
  | _ => false

/-! ### Counters (R184) -/

/-- The counters of R184's table. -/
inductive Counter where
  | frames (c : Fin 8) | crcErr (c : Fin 8) | badCode (c : Fin 8) | cut (c : Fin 8) | badValue (c : Fin 8)
  | reconf (c : Fin 8) | slotOverflow (c : Fin 8)
  | tpiGlitch | replaySkip
  | cacheHits | cacheInserts | walks | walkFailed | joinDrop | stalls | withheld | foreignDrop | dirCrc
  | receptions | forcedCommits | readings | repeats | unstored
  | journalAppends | appendDiscard | markPrograms | reclaims | eraseSuspends
  | uploadFrames | uploadRecords | uploadRewinds | ackStale
  | linkBreaks | linkFraming | linkDiscard | cmdOverrun | replyLost | noticeDrop | liveDrop
deriving DecidableEq, Repr

/-- A counter's number (R184). -/
def Counter.index : Counter → Fin 88
  | .frames c => ⟨7 * c.val, by omega⟩
  | .crcErr c => ⟨7 * c.val + 1, by omega⟩
  | .badCode c => ⟨7 * c.val + 2, by omega⟩
  | .cut c => ⟨7 * c.val + 3, by omega⟩
  | .badValue c => ⟨7 * c.val + 4, by omega⟩
  | .reconf c => ⟨7 * c.val + 5, by omega⟩
  | .slotOverflow c => ⟨7 * c.val + 6, by omega⟩
  | .tpiGlitch => 56 | .replaySkip => 57
  | .cacheHits => 58 | .cacheInserts => 59 | .walks => 60 | .walkFailed => 61 | .joinDrop => 62
  | .stalls => 63 | .withheld => 64 | .foreignDrop => 65 | .dirCrc => 66
  | .receptions => 67 | .forcedCommits => 68 | .readings => 69 | .repeats => 70 | .unstored => 71
  | .journalAppends => 72 | .appendDiscard => 73 | .markPrograms => 74 | .reclaims => 75
  | .eraseSuspends => 76
  | .uploadFrames => 77 | .uploadRecords => 78 | .uploadRewinds => 79 | .ackStale => 80
  | .linkBreaks => 81 | .linkFraming => 82 | .linkDiscard => 83 | .cmdOverrun => 84 | .replyLost => 85
  | .noticeDrop => 86 | .liveDrop => 87

/-- A counter goes up by `n` and stops at its largest value (introduction, Counters). -/
def State.bump (c : Counter) (s : State) (n : Nat := 1) : State :=
  { s with counters := s.counters.set c.index (capTo counterMax (s.counters[c.index] + n)) }

/-- A counter's value. -/
def State.count (c : Counter) (s : State) : Nat := s.counters[c.index]

/-! ### Events and notices (R180 to R182) -/

/-- The events, in the order of their numbers (section 9.5). -/
inductive Event where
  | pulseLost | timeStep | phaseOut | noisy | slotOverflow | dirCrc | storeFault | journalLow | journalFull
  | appendBacklog | uploadStalled | liveDrop | configDefaulted | routeResumed
deriving DecidableEq, Repr

/-- An event's number: its flag's bit and its bit of the event mask (section 9.5). -/
def Event.number : Event → Nat
  | .pulseLost => 0 | .timeStep => 1 | .phaseOut => 2 | .noisy => 3 | .slotOverflow => 4 | .dirCrc => 5
  | .storeFault => 6 | .journalLow => 7 | .journalFull => 8 | .appendBacklog => 9 | .uploadStalled => 10
  | .liveDrop => 11 | .configDefaulted => 12 | .routeResumed => 13

/-- A notice joins the tail of the notice queue, or is discarded from a full one with overrun pending set
(R180). -/
def State.queueNotice (n : Notice) (s : State) : State :=
  if s.tl.notices.length < noticeRoom then
    { s with tl := { s.tl with notices := s.tl.notices ++ [n] } }
  else
    ({ s with tl := { s.tl with overrun := true } }).bump .noticeDrop

/-- A block raises an event (R182): nothing when its flag is set; otherwise the flag is set, and an EVENT
notice is queued when the event's mask bit is set. -/
def State.raise (e : Event) (detail : Word) (s : State) : State :=
  if s.tl.flags.getLsbD e.number then s
  else
    let flags := s.tl.flags ||| (1#16 <<< e.number)
    let s' := { s with tl := { s.tl with flags := flags } }
    if s.tl.mask.getLsbD e.number then
      s'.queueNotice (.event e.number detail flags s.tb.runClock)
    else s'

/-- A COMPLETION notice is queued only when its bit of the event mask is set: bit 14 for SEGMENT, bit 15
for ROUTE (R53, R54). -/
def State.queueCompletion (route : Bool) (n : Notice) (s : State) : State :=
  if s.tl.mask.getLsbD (if route then 15 else 14) then s.queueNotice n else s

/-! ### Replies (R176, R177) -/

/-- Reply codes (section 9.3). -/
inductive ReplyCode where
  | ok | busy | badArg | badState | unknownCommand | duplicate | dirFull | overlap | notUploaded | storeFault
  | unknown
deriving DecidableEq, Repr

/-- A reply code's value (section 9.3). -/
def ReplyCode.code : ReplyCode → Byte
  | .ok => 0x00#8 | .busy => 0x01#8 | .badArg => 0x02#8 | .badState => 0x03#8 | .unknownCommand => 0x04#8
  | .duplicate => 0x05#8 | .dirFull => 0x06#8 | .overlap => 0x07#8 | .notUploaded => 0x08#8
  | .storeFault => 0x09#8 | .unknown => 0x0A#8

/-- The work of the long operation ends; its reply waits for the reply path (R177). -/
def State.endLong (rc : ReplyCode) (results : List Byte) (s : State) : State :=
  match s.tl.longOp with
  | some l =>
    let done : LongOp := { l with work := .ended, reply := some (l.code :: rc.code :: results) }
    { s with tl := { s.tl with longOp := some done } }
  | none => s

/-! ### Power -/

/-- Every command's answer: its effect while the part is powered, and no change while it is not (log 9). -/
def live (s t : State) : Host.Outcome State Fault Refusal := .next (if s.powered then t else s)

end Sys2Proof.Machine
end

