-- ==== Sys2Proof/Machine/Layout.lean ====
section
/-! DEFINITION. The byte layouts of section 9.8 (R188): codes of named values, records of the store, the
configuration image, and link frames. -/

namespace Sys2Proof.Machine

/-- `n` bytes of a body from byte `i` on. -/
def slice (bs : List Byte) (i n : Nat) : List Byte := (bs.drop i).take n

/-- One byte of a body as a number. -/
def natAt (bs : List Byte) (i : Nat) : Nat := (bs.getD i 0#8).toNat

/-- A number of `n` bytes of a body. -/
def numAt (bs : List Byte) (i n : Nat) : Nat := beNat (slice bs i n)

/-- A number as one byte. -/
def byteOf (n : Nat) : Byte := BitVec.ofNat 8 n

/-- A signed number in `n` bytes, two's complement (R188). -/
def signedBytes (n : Nat) (i : Int) : List Byte := beBytes n (i % ((256 ^ n : Nat) : Int)).toNat

/-! ### Codes of named values, numbered from 0 in the order the owning chapter lists them (R188) -/

def PortMode.code : PortMode → Nat
  | .off => 0 | .nrz => 1 | .man => 2 | .check => 3

def PortMode.ofCode? : Nat → Option PortMode
  | 0 => some .off | 1 => some .nrz | 2 => some .man | 3 => some .check | _ => none

def CheckerPhase.code : CheckerPhase → Nat
  | .search => 0 | .locked => 1 | .lost => 2

def Framer.code : Framer → Nat
  | .off => 0 | .hunt _ _ => 1 | .body _ _ _ _ => 2

def CrcKind.code : CrcKind → Nat
  | .none => 0 | .k1 => 1 | .k2 => 2

def CrcKind.ofCode? : Nat → Option CrcKind
  | 0 => some .none | 1 => some .k1 | 2 => some .k2 | _ => none

def ValueEncoding.code : ValueEncoding → Nat
  | .bin => 0 | .bcd => 1

def ValueEncoding.ofCode? : Nat → Option ValueEncoding
  | 0 => some .bin | 1 => some .bcd | _ => none

def PulseMode.code : PulseMode → Nat
  | .off => 0 | .monitor => 1 | .once => 2 | .continuous => 3

def PulseMode.ofCode? : Nat → Option PulseMode
  | 0 => some .off | 1 => some .monitor | 2 => some .once | 3 => some .continuous | _ => none

/-- The pulse status: PRESENT is 0, LOST is 1 (R32). -/
def pulseStatusCode (present : Bool) : Nat := if present then 0 else 1

def RoutingClass.code : RoutingClass → Nat
  | .live => 0 | .store => 1 | .both => 2 | .drop => 3

def RoutingClass.ofCode? : Nat → Option RoutingClass
  | 0 => some .live | 1 => some .store | 2 => some .both | 3 => some .drop | _ => none

def RouteState.code : RouteState → Nat
  | .empty => 0 | .loading => 1 | .ready => 2 | .opened => 3 | .closed => 4 | .resuming => 5

def MeterStatus.code : MeterStatus → Nat
  | .unread => 0 | .read => 1 | .flagged => 2 | .unstored => 3 | .excluded => 4

def RangeMode.code : RangeMode → Nat
  | .direct => 0 | .fallback => 1

def RangeMode.ofCode? : Nat → Option RangeMode
  | 0 => some .direct | 1 => some .fallback | _ => none

def ForeignPolicy.code : ForeignPolicy → Nat
  | .drop => 0 | .live => 1 | .store => 2 | .both => 3

def ForeignPolicy.ofCode? : Nat → Option ForeignPolicy
  | 0 => some .drop | 1 => some .live | 2 => some .store | 3 => some .both | _ => none

def JournalState.code : JournalState → Nat
  | .scanning => 0 | .ready => 1 | .full => 2 | .fault => 3

def UploadState.code : UploadState → Nat
  | .idle => 0 | .streaming => 1 | .stalled => 2

def ReadingKind.code : ReadingKind → Nat
  | .new => 0 | .reread => 1 | .range => 2 | .foreign => 3

/-- A family expected, FFH for ANY (R76, R188). -/
def familyCode (f : Option Nat) : Nat := f.getD 255

/-! ### Records of the store -/

/-- Zero bytes. -/
def zeros (n : Nat) : List Byte := List.replicate n 0#8

/-- A 32-byte record closed by its CRC-16 of kind K1 over the bytes before it. -/
def sealed (bs : List Byte) : List Byte := bs ++ crcBytes (crcK1 bs)

/-- The attribute bytes 4 to 15 of a route record. -/
def attrBytes (a : RouteAttrs) : List Byte :=
  [byteOf a.family, byteOf a.utility, byteOf a.segment.val, byteOf a.cls.code, byteOf a.rule, byteOf a.digits]
    ++ beBytes 4 a.prior ++ beBytes 2 a.priorDay

/-- A route record, 32 bytes. -/
def routeRecordBytes (r : RouteRecord) : List Byte :=
  sealed (beBytes 4 r.meterId.toNat ++ attrBytes r.attrs ++ beBytes 2 r.index ++ zeros 12)

/-- The fields of a route record; an unknown class reads as DROP (log 17). -/
def routeRecordOf (bs : List Byte) : RouteRecord where
  meterId := BitVec.ofNat 32 (numAt bs 0 4)
  index := numAt bs 16 2
  attrs :=
    { family := natAt bs 4, utility := natAt bs 5, segment := (bs.getD 6 0#8).toFin,
      cls := (RoutingClass.ofCode? (natAt bs 7)).getD .drop, rule := natAt bs 8, digits := natAt bs 9,
      prior := numAt bs 10 4, priorDay := numAt bs 14 2 }

/-- Does the CRC-16 of kind K1 in bytes 30 and 31 agree with the `n` bytes from byte 0? -/
def crcAgrees (bs : List Byte) (n : Nat) : Bool := slice bs 30 2 == crcBytes (crcK1 (bs.take n))

/-- All bytes are FFH. -/
def erasedBytes (bs : List Byte) : Bool := bs.all (· == 0xFF#8)

/-- The judgement of a directory slot (R40). -/
inductive DirSlot where
  | erased
  | valid (r : RouteRecord)
  | damaged
deriving DecidableEq, Repr

/-- R40: all FFH is erased; otherwise the record CRC decides. -/
def judgeDir (bs : List Byte) : DirSlot :=
  if erasedBytes bs then .erased
  else if crcAgrees bs 30 then .valid (routeRecordOf bs)
  else .damaged

/-- A route header record (R42). -/
structure RouteHeader where
  state : RouteState
  meterCount : Nat
  digest : Word
  firstSerial : Nat
  openDay : Nat
deriving DecidableEq, Repr

/-- A route header record, 32 bytes. -/
def headerBytes (h : RouteHeader) : List Byte :=
  sealed (byteOf h.state.code :: beBytes 2 h.meterCount ++ beBytes 4 h.digest.toNat ++ beBytes 4 h.firstSerial
    ++ beBytes 2 h.openDay ++ zeros 17)

/-- The header a slot holds, when its CRC agrees and its state is READY, OPEN or CLOSED (R42). -/
def headerOf? (bs : List Byte) : Option RouteHeader :=
  if crcAgrees bs 30 then
    let mk (st : RouteState) : RouteHeader :=
      ⟨st, numAt bs 1 2, BitVec.ofNat 32 (numAt bs 3 4), numAt bs 7 4, numAt bs 11 2⟩
    match natAt bs 0 with
    | 2 => some (mk .ready)
    | 3 => some (mk .opened)
    | 4 => some (mk .closed)
    | _ => none
  else none

/-- A journal sector header, 32 bytes (section 7.3). -/
def sectorHeaderBytes (sequence firstSerial : Nat) : List Byte :=
  sealed (beBytes 4 sequence ++ beBytes 4 firstSerial ++ zeros 22)

/-- The judgement of a journal sector header: blank, valid with its sequence and first serial, or damaged
(R137). -/
inductive SectorHeader where
  | blank
  | valid (sequence firstSerial : Nat)
  | damaged
deriving DecidableEq, Repr

/-- R137, for a sector header. -/
def judgeHeader (bs : List Byte) : SectorHeader :=
  if erasedBytes bs then .blank
  else if crcAgrees bs 30 then .valid (numAt bs 0 4) (numAt bs 4 4)
  else .damaged

/-- Bytes 0 to 28 of a journal record (section 9.8). -/
def readingBytes (r : Reading) : List Byte :=
  beBytes 4 r.serial ++ beBytes 4 r.meterId.toNat ++ beBytes 2 r.routeIndex
    ++ [byteOf (r.kind.code * 16 + r.source), byteOf r.family]
    ++ beBytes 4 r.value ++ beBytes 4 r.seconds.toNat ++ beBytes 2 r.rate ++ beBytes 2 r.flags.toNat
    ++ [byteOf r.count, byteOf r.best, r.channels, byteOf r.segment, byteOf (r.rule * 16 + r.utility)]

/-- A record in the journal record layout: byte 29 is the upload mark of a journal record, or the live-frame
flags of a reading frame; the CRC covers bytes 0 to 28 (R137, section 9.8). -/
def recordBytes (r : Reading) (byte29 : Byte) : List Byte :=
  readingBytes r ++ [byte29] ++ crcBytes (crcK1 (readingBytes r))

/-- The judgement of a journal slot (R137): a valid record carries its bytes. -/
inductive JournalSlot where
  | erased
  | valid (bs : List Byte)
  | torn
deriving DecidableEq, Repr

/-- R137, for a record slot; the mark is outside the CRC. -/
def judgeJournal (bs : List Byte) : JournalSlot :=
  if erasedBytes bs then .erased
  else if crcAgrees bs 29 then .valid bs
  else .torn

/-- Fields of a journal record's bytes (section 9.8). -/
def recSerial (bs : List Byte) : Nat := numAt bs 0 4
def recMeter (bs : List Byte) : Word := BitVec.ofNat 32 (numAt bs 4 4)
def recIndex (bs : List Byte) : Nat := numAt bs 8 2
def recValue (bs : List Byte) : Nat := numAt bs 12 4
def recFlags (bs : List Byte) : BitVec 16 := BitVec.ofNat 16 (numAt bs 22 2)
def recMark (bs : List Byte) : Byte := bs.getD 29 0#8

/-- R137: the mark means uploaded when it is 00H. -/
def uploaded (bs : List Byte) : Bool := recMark bs == 0#8

/-- R137: a mark that is neither FFH nor 00H is uncertain. -/
def uncertainMark (bs : List Byte) : Bool := recMark bs != 0#8 && recMark bs != 0xFF#8

/-! ### The configuration image (R134) -/

/-- A channel's settings. -/
structure ChannelSettings where
  source : Option (Fin 8)
  mask : Byte
  threshold : Nat
deriving DecidableEq, Repr

/-- The settings the image carries (section 7.2). -/
structure Settings where
  ports : List PortSettings
  channels : List ChannelSettings
  families : List Family
  pulse : PulseMode
  window : Nat
  ranges : List RangeEntry
  rules : List Rule
  policy : ForeignPolicy
  hold : Nat
  quiet : Nat
  utilities : BitVec 16
  mask : BitVec 16
deriving DecidableEq, Repr

/-- A port's settings, coded as the arguments of PORT SET after the port number. -/
def portBytes (p : PortSettings) : List Byte :=
  [byteOf p.mode.code, boolByte p.invert] ++ beBytes 4 p.bitRate ++ [boolByte p.carrierQualify]

/-- A source port, FFH for NONE. -/
def sourceByte (s : Option (Fin 8)) : Byte :=
  match s with
  | some p => byteOf p.val
  | none => 0xFF#8

/-- A channel's settings in the image. -/
def channelBytes (c : ChannelSettings) : List Byte := [sourceByte c.source, c.mask, byteOf c.threshold]

/-- A family entry, coded as the arguments of FAMILY SET after the family number; an invalid one is zeros. -/
def familyBytes (f : Family) : List Byte :=
  if f.valid then
    [1#8, byteOf f.syncLen] ++ beBytes 4 f.pattern.toNat ++
      [byteOf f.tolerance, byteOf f.bodyLen, byteOf f.idOffset, byteOf f.idLen, byteOf f.valueOffset,
        byteOf f.valueLen, byteOf f.encoding.code, byteOf f.indOffset, f.indMask, byteOf f.crc.code]
  else zeros 16

/-- A range entry, its valid mark and then the arguments of RANGE SET after the entry number; an invalid one
is zeros. -/
def rangeBytes (r : RangeEntry) : List Byte :=
  if r.valid then
    1#8 :: beBytes 4 r.base.toNat ++
      [byteOf r.k, byteOf r.mode.code, byteOf r.utility, byteOf r.cls.code, byteOf r.rule,
        byteOf (familyCode r.family)]
  else zeros 11

/-- A rule entry: C, T and S. -/
def ruleBytes (r : Rule) : List Byte := beBytes 2 r.ceiling ++ [byteOf r.tolerance, byteOf r.stagnant]

/-- The image before its CRC, 375 bytes. -/
def imageBody (t : Settings) : List Byte :=
  beBytes 2 partCode ++ beBytes 2 imageLength
    ++ t.ports.flatMap portBytes ++ t.channels.flatMap channelBytes ++ t.families.flatMap familyBytes
    ++ [byteOf t.pulse.code, byteOf t.window]
    ++ t.ranges.flatMap rangeBytes ++ t.rules.flatMap ruleBytes
    ++ [byteOf t.policy.code] ++ beBytes 2 t.hold ++ beBytes 2 t.quiet
    ++ beBytes 2 t.utilities.toNat ++ beBytes 2 t.mask.toNat

/-- The configuration image, 379 bytes (R134). -/
def imageBytes (t : Settings) : List Byte :=
  imageBody t ++ beBytes 4 (crc32 (imageBody t)).toNat

/-- A good image: part code 418, length 379, and a CRC-32 that agrees (R134). -/
def goodImage (bs : List Byte) : Bool :=
  numAt bs 0 2 == partCode && numAt bs 2 2 == imageLength
    && numAt bs 375 4 == (crc32 (bs.take 375)).toNat

/-- The source port a byte names. -/
def sourceOf (b : Byte) : Option (Fin 8) :=
  if h : b.toNat < 8 then some ⟨b.toNat, h⟩ else none

/-- The settings read back from a good image; a code out of its range reads as the first value (log 17). -/
def portOf (bs : List Byte) (i : Nat) : PortSettings :=
  ⟨(PortMode.ofCode? (natAt bs i)).getD .off, natAt bs (i + 1) == 1, numAt bs (i + 2) 4, natAt bs (i + 6) == 1⟩

/-- A channel's settings read back from byte `i` of the image. -/
def channelOf (bs : List Byte) (i : Nat) : ChannelSettings :=
  ⟨sourceOf (bs.getD i 0#8), bs.getD (i + 1) 0#8, natAt bs (i + 2)⟩

/-- A family entry read back from byte `i`. -/
def familyOf (bs : List Byte) (i : Nat) : Family :=
  if natAt bs i == 1 then
    { valid := true, syncLen := natAt bs (i + 1), pattern := BitVec.ofNat 32 (numAt bs (i + 2) 4),
      tolerance := natAt bs (i + 6), bodyLen := natAt bs (i + 7), idOffset := natAt bs (i + 8),
      idLen := natAt bs (i + 9), valueOffset := natAt bs (i + 10), valueLen := natAt bs (i + 11),
      encoding := (ValueEncoding.ofCode? (natAt bs (i + 12))).getD .bin, indOffset := natAt bs (i + 13),
      indMask := bs.getD (i + 14) 0#8, crc := (CrcKind.ofCode? (natAt bs (i + 15))).getD .none }
  else .invalid

/-- A family expected, ANY for FFH. -/
def familyOfCode (n : Nat) : Option Nat := if n = 255 then none else some n

/-- A range entry read back from byte `i`. -/
def rangeOf (bs : List Byte) (i : Nat) : RangeEntry :=
  if natAt bs i == 1 then
    { valid := true, base := BitVec.ofNat 32 (numAt bs (i + 1) 4), k := natAt bs (i + 5),
      mode := (RangeMode.ofCode? (natAt bs (i + 6))).getD .direct, utility := natAt bs (i + 7),
      cls := (RoutingClass.ofCode? (natAt bs (i + 8))).getD .live, rule := natAt bs (i + 9),
      family := familyOfCode (natAt bs (i + 10)) }
  else .invalid

/-- A rule entry read back from byte `i`. -/
def ruleOf (bs : List Byte) (i : Nat) : Rule := ⟨numAt bs i 2, natAt bs (i + 2), natAt bs (i + 3)⟩

/-- The settings of an image. -/
def settingsOf (bs : List Byte) : Settings where
  ports := (List.range 8).map (fun n => portOf bs (4 + 7 * n))
  channels := (List.range 8).map (fun n => channelOf bs (60 + 3 * n))
  families := (List.range 8).map (fun n => familyOf bs (84 + 16 * n))
  pulse := (PulseMode.ofCode? (natAt bs 212)).getD .off
  window := natAt bs 213
  ranges := (List.range 8).map (fun n => rangeOf bs (214 + 11 * n))
  rules := (List.range 16).map (fun n => ruleOf bs (302 + 4 * n))
  policy := (ForeignPolicy.ofCode? (natAt bs 366)).getD .drop
  hold := numAt bs 367 2
  quiet := numAt bs 369 2
  utilities := BitVec.ofNat 16 (numAt bs 371 2)
  mask := BitVec.ofNat 16 (numAt bs 373 2)

/-- The settings as they stand (R136). -/
def State.settings (s : State) : Settings where
  ports := s.ports.toList.map (·.settings)
  channels := s.channels.toList.map (fun c => ⟨c.source, c.mask, c.threshold⟩)
  families := s.families.toList
  pulse := s.tb.mode
  window := s.tb.window
  ranges := s.cl.ranges.toList
  rules := s.rules.toList
  policy := s.cl.policy
  hold := s.mc.hold
  quiet := s.mc.quiet
  utilities := s.cl.utilities
  mask := s.tl.mask

/-! ### Link frames (section 9.2) -/

/-- The CRC of a link frame, over the length, kind, tag and body bytes. -/
def frameCrc (kind tag : Byte) (body : List Byte) : List Byte :=
  crcBytes (crcK1 (beBytes 2 body.length ++ [kind, tag] ++ body))

/-- A whole link frame: A5H, length, kind, tag, body, CRC. -/
def frameBytes (kind tag : Byte) (body : List Byte) : List Byte :=
  0xA5#8 :: beBytes 2 body.length ++ [kind, tag] ++ body ++ frameCrc kind tag body

/-- The body of a notice (section 9.8); `overrun` is its OVERRUN mark. -/
def noticeBody (overrun : Bool) : Notice → List Byte
  | .event n detail flags clock =>
    [0#8, boolByte overrun, byteOf n] ++ beBytes 4 detail.toNat ++ beBytes 2 flags.toNat ++ beBytes 4 clock.toNat
  | .completion route segment meters second read flagged =>
    [1#8, boolByte overrun, boolByte route, byteOf segment] ++ beBytes 2 meters ++ beBytes 2 second
      ++ beBytes 2 read ++ beBytes 2 flagged

/-- The body of a reading frame (R104). -/
def readingBody (f : LiveFrame) : List Byte := recordBytes f.reading (boolByte f.unstored)

/-- The body of an upload frame: the record count and the records as read. -/
def uploadBody (rs : List UploadRecord) : List Byte := byteOf rs.length :: rs.flatMap (·.bytes)

end Sys2Proof.Machine
end

