-- ==== Sys2Proof/Machine/Rewind.lean ====
section
/-! DEFINITION. The stream of the upload engine given up: its gathering, rewinds and stalls (R159, R160, R164, R166,
R168). -/

namespace Sys2Proof.Machine

/-! ### The stream pointer and the gathering (R158, R159) -/

/-- The pointer stands in the head at or beyond its next slot (R158). -/
def State.uploadAtEnd (s : State) : Bool := s.ue.sector == s.journal.head && s.journal.headNext ≤ s.ue.slot

/-- The upload engine replaced. -/
def State.setUpload (u : UploadEngine) (s : State) : State := { s with ue := u }

/-- The pointer moved. -/
def State.movePointer (p : Nat × Nat) (s : State) : State :=
  s.setUpload { s.ue with sector := p.1, slot := p.2 }

/-- After each move of the pointer: the gathering ends with a ready frame at eight records, or at the end of
the head with at least one; at the end of the head the engine waits (R159, log 27). -/
def State.closeGathering (s : State) : State :=
  let g := s.ue.gathered
  if 8 ≤ g.length ∨ (s.uploadAtEnd = true ∧ g ≠ []) then
    s.setUpload { s.ue with ready := some g, gathered := [], waiting := s.uploadAtEnd }
  else s.setUpload { s.ue with waiting := s.uploadAtEnd }

/-- The records gathered so far are put back (R159). -/
def State.putBack (s : State) : State :=
  match s.ue.gathered with
  | r :: _ => s.setUpload { s.ue with gathered := [], sector := r.sector, slot := r.slot }
  | [] => s

/-- An upload read that is no longer wanted is withdrawn while it waits; in flight it ends on the port without
effect (DESIGN CHOICE: log 20). -/
def State.dropUploadRead (s : State) : State :=
  let act := s.port.active.map (fun a => if a.client = .upload then { a with client := .uploadGone } else a)
  { s with port := { s.port with waiting := s.port.waiting.filter (fun r => r.client != .upload), active := act } }

/-- At a link break the arbiter keeps the upload read, waiting or in flight, and its answer is not used (R133; DESIGN
CHOICE: log 20). -/
def State.leaveUploadRead (s : State) : State :=
  let act := s.port.active.map (fun a => if a.client = .upload then { a with client := .uploadGone } else a)
  let wait := s.port.waiting.map (fun r => if r.client = .upload then { r with client := .uploadGone } else r)
  { s with port := { s.port with waiting := wait, active := act } }

/-- The gathering is given up: its records are put back and its read is dropped (R159). -/
def State.stopGathering (s : State) : State := s.putBack.dropUploadRead

/-! ### Giving up and rewinding (R160, R164) -/

/-- The transmission of an upload frame that the engine no longer owns. -/
def Transmission.disown (t : Transmission) : Transmission :=
  match t.kind with
  | .upload f _ => { t with kind := .upload f false }
  | _ => t

/-- The engine gives up its ready frame: one in transmission ends on the wire, any other is not sent (R160). -/
def State.giveUpReady (s : State) : State :=
  { s with ue := { s.ue with ready := none }, tl := { s.tl with tx := s.tl.tx.map Transmission.disown } }

/-- The rewind position (R164): the first record above the last acknowledged serial, through the window from
the oldest frame and then the ready frame. -/
def UploadEngine.rewindPos (u : UploadEngine) : Option (Nat × Nat) :=
  ((u.window.flatten ++ u.ready.getD []).find? (fun r => u.lastAck < r.serial)).map (fun r => (r.sector, r.slot))

/-- The rewind itself (R164): the pointer goes to the rewind position, and window, ready frame and expiry are given
up. -/
def State.rewindPointer (s : State) : State :=
  let t := match s.ue.rewindPos with
    | some p => s.movePointer p
    | none => s
  (t.giveUpReady.setUpload { t.giveUpReady.ue with window := [], expiry := none }).closeGathering

/-- The rewind at a timeout or a failed read (R164, R166). The records gathered so far are put back first, so that
without a rewind position the pointer returns to the first of them (DESIGN CHOICE: log 20). -/
def State.rewindUpload (s : State) : State := s.stopGathering.rewindPointer

/-- The rewind at a link break (R168), which leaves the arbiter as it is (R133). -/
def State.breakUpload (s : State) : State := s.putBack.leaveUploadRead.rewindPointer

/-- The engine enters STALLED with the event (R164, R166). -/
def State.stallUpload (detail : Word) (s : State) : State :=
  (s.setUpload { s.ue with state := .stalled }).raise .uploadStalled detail

/-- A read of the stream is answered as failed: the upload stalls at once (R166). -/
def State.failUploadRead (s : State) : State := s.rewindUpload.stallUpload 1#32

end Sys2Proof.Machine
end

