-- ==== Sys2Proof/Machine/Store.lean ====
section
/-! DEFINITION. The bulk store controller's port: geometry of the journal ring, requests, the arbiter, erase
suspend, store failure, and the operations that end without a row of their own (R129 to R133, R138 to
R148). -/

namespace Sys2Proof.Machine

/-! ### Geometry (section 7.1, R41, R138) -/

/-- The store address of a slot of a sector. -/
def slotAddr (sector slot : Nat) : Nat := sector * sectorSize + slot * slotSize

/-- The 32 bytes of a slot. -/
def Memory.slot (m : Memory) (sector slot : Nat) : List Byte := m.bytes (slotAddr sector slot) slotSize

/-- The store address of directory bucket `b` (R41). -/
def bucketAddr (b : Nat) : Nat := dirSector * sectorSize + 256 * b

/-- The home bucket of a meter ID (R41). -/
def homeBucket (id : Word) : Nat := (id.toNat * 2654435769) % 4294967296 / 1048576

/-- Bucket `n` (1 to 4) of the probe for an ID (R41, R80). -/
def probeBucket (id : Word) (n : Nat) : Nat := (homeBucket id + n - 1) % 4096

/-- The sector after `sec` in the journal ring (R138). -/
def nextSector (sec : Nat) : Nat := if sec = journalLast then journalFirst else sec + 1

/-- How far `sec` lies after the tail in the ring. -/
def ringOffset (tail sec : Nat) : Nat := (sec + journalSectors - tail) % journalSectors

/-- The length of the span from the tail to the head (R138). -/
def Journal.spanLength (j : Journal) : Nat := ringOffset j.tail j.head + 1

/-- Is the sector one of the span (R138)? -/
def Journal.inSpan (j : Journal) (sec : Nat) : Bool :=
  journalFirst ≤ sec && sec ≤ journalLast && ringOffset j.tail sec < j.spanLength

/-- Is the sector a hole: of the span, with a header that is not valid (R138)? -/
def State.isHole (s : State) (sec : Nat) : Bool :=
  s.journal.inSpan sec &&
    match judgeHeader (s.store.slot sec 0) with
    | .valid _ _ => false
    | _ => true

/-- The sectors of the span, tail first. -/
def Journal.span (j : Journal) : List Nat :=
  (List.range j.spanLength).map (fun i => (j.tail - journalFirst + i) % journalSectors + journalFirst)

/-- Is a position outside the journal: outside the span, or at or beyond the head next slot (R143)? -/
def Journal.outside (j : Journal) (sec slot : Nat) : Bool :=
  !j.inSpan sec || (sec == j.head && j.headNext ≤ slot)

/-- The position after a slot: the next slot of its sector, slot 1 of the next sector of the span, or the
position after slot 2,047 of the head (R145, R158). -/
def Journal.after (j : Journal) (sec slot : Nat) : Nat × Nat :=
  if slot < 2047 then (sec, slot + 1)
  else if sec = j.head then (sec, 2048)
  else (nextSector sec, 1)

/-- A position moved past holes, each whole (R138, R145); `n` bounds the sectors passed. -/
def State.skipHoles (s : State) : Nat → Nat × Nat → Nat × Nat
  | 0, p => p
  | n + 1, p =>
    if p.1 ≠ s.journal.head ∧ s.isHole p.1 then s.skipHoles n (nextSector p.1, 1) else p

/-! ### Operations cut short (R132, and the rules that say what a cut leaves) -/

/-- Byte `i` of a list, if it has one, made another byte. -/
def flipAt (i : Nat) (bs : List Byte) : List Byte := bs.set i (bs.getD i 0#8 ^^^ 1#8)

/-- Thirty-two bytes that are no valid record: a CRC over the first `n` that agrees is spoilt. -/
def unsealed (n : Nat) (bs : List Byte) : List Byte := if crcAgrees bs n then flipAt 31 bs else bs

/-- Thirty-two bytes that are damaged or torn: neither erased nor valid. -/
def damagedSlot (n : Nat) (bs : List Byte) : List Byte :=
  if erasedBytes bs || crcAgrees bs n then flipAt 31 bs else bs

/-- The bytes of a slot that its CRC covers, and the CRC. -/
def coveredBytes (n : Nat) (bs : List Byte) : List Byte := bs.take n ++ slice bs 30 2

/-- Thirty-two bytes that are a valid record only where the bytes before were the same record, but for its
mark. -/
def leftValid (n : Nat) (old bs : List Byte) : List Byte :=
  if coveredBytes n bs == coveredBytes n old then bs else unsealed n bs

/-- A mark that is uncertain (R137). -/
def uncertain (bs : List Byte) : List Byte :=
  if bs.getD 0 0#8 == 0#8 || bs.getD 0 0#8 == 0xFF#8 then flipAt 0 bs else bs

/-- A sector's bytes, each slot limited by its number. -/
def limitSlots (f : Nat → List Byte → List Byte) (bs : List Byte) : List Byte :=
  (List.range sectorSlots).flatMap (fun i => f i (slice bs (slotSize * i) slotSize))

/-- What the rules say of the bytes that a cut operation was working on (log 8). -/
inductive CutRule where
  /-- Nothing: R132, R46. -/
  | free
  /-- The slot is damaged or torn, its CRC covering `n` bytes: R40, R42, R137. -/
  | damaged (n : Nat)
  /-- The slot holds no valid record: R42 of a header program that timed out, R141. -/
  | unsealed
  /-- The mark is uncertain: R145. -/
  | mark
  /-- The configuration image is not good: R134, R136. -/
  | image
  /-- No slot of the sector holds a valid header: R44. -/
  | noHeaders
  /-- A slot of the journal sector is valid only where it was valid before: R147. The header of a sector
  ahead is not valid at all: R141. -/
  | sector (ahead : Bool)
deriving DecidableEq, Repr

/-- The address an operation works from. -/
def StoreOp.start : StoreOp → Nat
  | .read a _ => a
  | .program a _ => a
  | .erase sec => sec * sectorSize

/-- Free bytes wherever the operation works (log 8). -/
def StoreOp.freeBytes (idx : Nat) : StoreOp → List Byte
  | .read _ _ => []
  | .program a bs => (List.range bs.length).map (fun i => Config.freeByte idx (a + i))
  | .erase sec => (List.range sectorSize).map (fun i => Config.freeByte idx (sec * sectorSize + i))

/-- Free bytes from address `a` on, within what a rule says of them. -/
def CutRule.limit (r : CutRule) (m : Memory) (a : Nat) (bs : List Byte) : List Byte :=
  match r with
  | .free => bs
  | .damaged n => damagedSlot n bs
  | .unsealed => Machine.unsealed 30 bs
  | .mark => uncertain bs
  | .image =>
    if goodImage ((m.put a bs).bytes 0 imageLength) then flipAt (if a = 0 then 0 else bs.length - 1) bs else bs
  | .noHeaders => limitSlots (fun _ => Machine.unsealed 30) bs
  | .sector ahead =>
    limitSlots (fun i x =>
      if i = 0 then if ahead then Machine.unsealed 30 x else leftValid 30 (m.bytes a slotSize) x
      else leftValid 29 (m.bytes (a + slotSize * i) slotSize) x) bs

/-- What an operation that is cut short leaves: free bytes where it worked, within what the rules say. -/
def StoreOp.damage (idx : Nat) (r : CutRule) (op : StoreOp) (m : Memory) : Memory :=
  match op with
  | .read _ _ => m
  | _ => m.put op.start (r.limit m op.start (op.freeBytes idx))

/-- A ROUTE CLEAR is at its erases (R44). -/
def State.clearing (s : State) : Bool :=
  match s.tl.longOp with
  | some l => match l.work with | .clear _ => true | _ => false
  | none => false

/-- The rule for an operation cut by a loss of power (`lost`), or given up by the controller. Of a journal sector's
erase that the store carries on with after a reset the span is not known until the scan has ended: its header may stay
valid or not, as R147 has it (DESIGN CHOICE: log 8). -/
def State.cutRule (lost : Bool) (op : StoreOp) (s : State) : CutRule :=
  match op with
  | .read _ _ => .free
  | .program a bs =>
    if a < sectorSize then if lost then .image else .free
    else if bs.length = 1 then if lost then .mark else .free
    else if a / sectorSize = headerSector then if lost then .damaged 30 else .unsealed
    else if a / sectorSize < journalFirst then if lost then .damaged 30 else .free
    else if a % sectorSize < slotSize then .unsealed
    else .damaged 29
  | .erase sec =>
    if !lost then .free
    else if sec = 0 then .image
    else if sec = headerSector then if s.clearing then .noHeaders else .free
    else if sec < journalFirst then .free
    else .sector (s.journal.state != .scanning && !s.journal.inSpan sec)

/-- The store after one operation has been cut, with a fresh number. -/
def State.cutOp (lost : Bool) (op : StoreOp) (s : State) : State :=
  { s with store := op.damage s.freeIndex (s.cutRule lost op) s.store, freeIndex := s.freeIndex + 1 }

/-- The store after several operations have been cut. -/
def State.cutOps (lost : Bool) (ops : List StoreOp) (s : State) : State :=
  ops.foldl (fun t op => t.cutOp lost op) s

/-! ### Requests (R130) -/

/-- The arbiter's class of a requester (R130). -/
def Client.cls : Client → Nat
  | .walk _ | .query => 1
  | .append | .opening => 2
  | .mark => 3
  | .reclaim => 4
  | .upload | .uploadGone => 5
  | .longOp | .startup => 6

/-- Has the requester an operation waiting, in flight or suspended? -/
def StorePort.outstanding (p : StorePort) (c : Client) : Bool :=
  p.waiting.any (·.client == c)
    || (match p.active with | some a => a.client == c | none => false)
    || (match p.suspended with | some a => a.client == c | none => false)

/-- A walk's read is answered as failed: the walk ends FAILED (R80, R132). -/
def State.failWalk (w : Fin 4) (s : State) : State :=
  match s.cl.walks[w] with
  | some k =>
    if k.outcome.isNone then
      { s with cl := { s.cl with walks := s.cl.walks.set w (some { k with outcome := some .failed }) } }
    else s
  | none => s

/-- A block makes a request (R130). With the store FAILED it is answered failed at once (R133): a walk ends
FAILED, and a requester that awaits an answer finds it at its next step (log 19). The upload engine asks by
`State.wantUpload`, which takes that answer itself. -/
def State.request (c : Client) (op : StoreOp) (s : State) : State :=
  if s.storeFailed then
    match c with
    | .walk w => s.failWalk w
    | .append | .opening | .mark | .reclaim | .upload | .uploadGone => s
    | _ => { s with port := { s.port with failed := s.port.failed ++ [c] } }
  else
    { s with port := { s.port with waiting := s.port.waiting ++ [⟨c, op⟩] } }

/-- The oldest waiting request of the lowest-numbered class (R130). -/
def bestRequest : List StoreReq → Option StoreReq
  | [] => none
  | r :: rs =>
    match bestRequest rs with
    | some q => if q.client.cls < r.client.cls then some q else some r
    | none => some r

/-- The oldest waiting request of class 1. -/
def lookupRequest (rs : List StoreReq) : Option StoreReq := rs.find? (fun r => r.client.cls == 1)

/-- The port begins a request. -/
def State.beginOp (r : StoreReq) (s : State) : State :=
  { s with port := { s.port with waiting := s.port.waiting.erase r,
                                 active := some ⟨r.client, r.op, s.tb.runClock, 0⟩ } }

/-- The erase time counted so far (R132). -/
def ActiveOp.elapsed (a : ActiveOp) (now : Word) : Nat := a.spent + (now - a.since).toNat

/-- The long operation of this command code is at work, or holds its reply. -/
def State.holdsCode (code : Byte) (s : State) : Bool := s.tl.longOp.any (·.code == code)

/-- The row that ends the work of this erase's requester is the next command of the queue. A read asked for now and
the end of the erase then come together, the read taken first: the store has already finished the erase (R131; DESIGN
CHOICE: log 34). -/
def State.eraseOver (a : ActiveOp) (s : State) : Bool :=
  match a.client, s.pending.head? with
  | .reclaim, some .reclaimEraseDone => true
  | .opening, some .journalSectorOpened => true
  | .longOp, some .configSaveDone => s.holdsCode 0x70#8
  | .longOp, some .journalEraseDone => s.holdsCode 0x72#8
  | _, _ => false

/-- The arbiter (R130, R131). A free port serves a waiting request; with an erase suspended it serves class 1
alone, and resumes the erase when none waits. An erase in flight is suspended for a class 1 request, but for one
that the store has already finished: its end follows, and the read is then the next to be served. -/
def State.grant (s : State) : State :=
  match s.port.active, s.port.suspended with
  | some a, none =>
    if a.op.isErase then
      match lookupRequest s.port.waiting with
      | some r =>
        if s.eraseOver a then s
        else
          (({ s with port := { s.port with active := none,
                                           suspended := some { a with spent := a.elapsed s.tb.runClock } } }).beginOp
              r).bump .eraseSuspends
      | none => s
    else s
  | some _, some _ => s
  | none, some e =>
    match lookupRequest s.port.waiting with
    | some r => s.beginOp r
    | none => { s with port := { s.port with active := some { e with since := s.tb.runClock }, suspended := none } }
  | none, none =>
    match bestRequest s.port.waiting with
    | some r => s.beginOp r
    | none => s

/-- The operation in flight ends: its effect stands in the store and the port is free (R129). -/
def State.endOp (s : State) : State :=
  match s.port.active with
  | some a => { s with store := a.op.apply s.store, port := { s.port with active := none } }
  | none => s

/-- An answer of failure is taken by its requester. -/
def State.takeFailed (c : Client) (s : State) : State :=
  { s with port := { s.port with failed := s.port.failed.erase c } }

/-! ### Reclaim and the low condition (R146, R148) -/

/-- Is a JOURNAL ERASE at work (R154)? Its holds end with its work, while its reply may still wait (DESIGN CHOICE:
log 18). -/
def State.erasing (s : State) : Bool :=
  match s.tl.longOp with
  | some l => l.code == 0x72#8 && l.reply.isNone
  | none => false

/-- The tail is fully marked: the cursor lies after it, or it is a hole (R146). -/
def State.tailMarked (s : State) : Bool :=
  s.journal.cursorSector != s.journal.tail || s.isHole s.journal.tail

/-- The reclaim test (R146): where its conditions hold, a class 4 erase of the tail is requested. -/
def State.testReclaim (s : State) : State :=
  if s.journal.ahead ≤ 2 ∧ s.journal.tail ≠ s.journal.head ∧ s.tailMarked = true
      ∧ s.port.outstanding .reclaim = false ∧ s.erasing = false ∧ s.storeFailed = false then
    s.request .reclaim (.erase s.journal.tail)
  else s

/-- The low test (R148). -/
def State.testLow (s : State) : State :=
  if s.journal.ahead ≤ 2 ∧ s.tailMarked = false then
    s.raise .journalLow (BitVec.ofNat 32 s.journal.ahead)
  else s

/-! ### Discards and store failure (R132, R142) -/

/-- Every record of the append queue is discarded (R132, R142, R153). -/
def State.discardQueue (s : State) : State :=
  match s.journal.queue with
  | [] => s
  | q :: qs =>
    let low := (s.journal.discardedRange.map (·.1)).getD q.reading.serial
    let last := ((q :: qs).getLast (by simp)).reading.serial
    (({ s with journal := { s.journal with
          queue := [], discarded := s.journal.discarded + (qs.length + 1),
          discardedRange := some (low, last) } })).bump .appendDiscard (qs.length + 1)

/-- The requesters that learn of the failure at their next step (log 19). -/
def Client.awaits : Client → Bool
  | .query | .longOp | .startup => true
  | _ => false

/-- The store becomes FAILED while an operation is in flight (R132): STORE_FAULT rises with the detail, the
operation's bytes are in no defined state (log 8), the journal is FAULT, and every waiting request is answered: the
upload stalls (R166), the walks end FAILED, and the append queue is discarded. -/
def State.failStore (detail : Word) (s : State) : State :=
  let ops := (s.port.active.toList ++ s.port.suspended.toList)
  let owed := (ops.map (·.client) ++ s.port.waiting.map (·.client)).filter Client.awaits
  let reading := s.port.outstanding .upload
  let s := s.raise .storeFault detail
  let s := s.cutOps false (ops.map (·.op))
  let s := { s with storeFailed := true, journal := { s.journal with state := .fault },
                    port := { waiting := [], active := none, suspended := none, failed := s.port.failed ++ owed,
                              finishing := [] } }
  let s := ([0, 1, 2, 3] : List (Fin 4)).foldl (fun t w => t.failWalk w) s
  let s := if reading then s.failUploadRead else s
  s.discardQueue

/-! ### Sectors opened, route headers written (R141, R42) -/

/-- The sequence number of the head's header. -/
def State.headSequence (s : State) : Nat :=
  match judgeHeader (s.store.slot s.journal.head 0) with
  | .valid q _ => q
  | _ => 0

/-- The first serial of an opened sector: that of the oldest queued record, or the next serial (R141,
R154). -/
def Journal.openSerial (j : Journal) : Nat :=
  match j.queue with
  | q :: _ => q.reading.serial
  | [] => j.nextSerial

/-- The read that begins an opening of the sector after the head (R141). -/
def State.openRead (s : State) : StoreOp := .read (nextSector s.journal.head * sectorSize) sectorSize

/-- The header program of an opening (R141). -/
def State.openProgram (s : State) : StoreOp :=
  .program (nextSector s.journal.head * sectorSize)
    (sectorHeaderBytes (s.headSequence + 1) s.journal.openSerial)

/-- After the read of an opening: the erase where any byte is not FFH, else the header program (R141). -/
def State.afterOpenRead (s : State) : StoreOp :=
  let sec := nextSector s.journal.head
  if s.store.blank (sec * sectorSize) sectorSize then s.openProgram else .erase sec

/-- The opened sector becomes the head (R141): next slot 1, G down by one, and the cursor and the stream
pointer that stood after slot 2,047 of the old head move to its slot 1 (R145, R158). -/
def State.sectorOpened (s : State) : State :=
  let j := s.journal
  let sec := nextSector j.head
  let cur := if j.cursorSector = j.head ∧ j.cursorSlot = 2048 then (sec, 1) else (j.cursorSector, j.cursorSlot)
  let ptr := if s.ue.sector = j.head ∧ s.ue.slot = 2048 then (sec, 1) else (s.ue.sector, s.ue.slot)
  { s with
    journal := { j with head := sec, headNext := 1, ahead := j.ahead - 1,
                        cursorSector := cur.1, cursorSlot := cur.2 },
    ue := { s.ue with sector := ptr.1, slot := ptr.2, waiting := false } }

/-- The slot a header record goes to: after the highest-numbered non-erased slot of sector 1; `none`, so that the sector
is erased first, when all 2,048 are non-erased (R42), and also when slot 2,047 is not erased and a lower one is (DESIGN
CHOICE: log 42). -/
def Memory.headerSlot (m : Memory) : Option Nat :=
  match (m.occupied (headerSector * sectorSize) sectorSlots).getLast? with
  | none => some 0
  | some n => if n + 1 < sectorSlots then some (n + 1) else none

/-- The latest header (R42): the valid record in the highest-numbered slot that holds one. -/
def Memory.latestHeader (m : Memory) : Option RouteHeader :=
  (m.occupied (headerSector * sectorSize) sectorSlots).reverse.findSome?
    (fun i => headerOf? (m.slot headerSector i))

/-- The first operation of a header write: the program, or the erase of a full sector (R42). -/
def State.headerOp (h : RouteHeader) (s : State) : StoreOp :=
  match s.store.headerSlot with
  | some i => .program (slotAddr headerSector i) (headerBytes h)
  | none => .erase headerSector

/-- The header the route manager would write in a state, from the values it holds (R47, R50, R55). -/
def RouteManager.header (r : RouteManager) (st : RouteState) : RouteHeader :=
  ⟨st, r.meterCount, r.digest, r.firstSerial, r.openDay⟩

/-- The header a work writes (R47, R50, R55). -/
def State.workHeader (w : Work) (s : State) : RouteHeader :=
  match w with
  | .openHeader serial day => ⟨.opened, s.rm.meterCount, s.rm.digest, serial, day⟩
  | .closeHeader => s.rm.header .closed
  | _ => { s.rm.header .ready with firstSerial := 0, openDay := none16 }

/-! ### The directory as a whole (R40, R47, R49) -/

/-- The sectors' number of the `left`-th read or erase from the end of a work over `n` sectors from
`first`. -/
def leftSector (first n left : Nat) : Nat := first + n - left

/-- The read of one directory sector, `left` of the sixteen not ended (log 7). -/
def dirRead (left : Nat) : StoreOp := .read (leftSector dirSector dirSectors left * sectorSize) sectorSize

/-- The erase of ROUTE CLEAR with `left` of its seventeen not ended: sector 1, then 2 to 17 (R44). -/
def clearErase (left : Nat) : StoreOp := .erase (leftSector headerSector 17 left)

/-- The directory slots that are not erased, with their judgement, in store order. -/
def Memory.directory (m : Memory) : List (Nat × DirSlot) :=
  (m.occupied (dirSector * sectorSize) (dirSectors * sectorSlots)).map (fun i =>
    (i, judgeDir (m.bytes (dirSector * sectorSize + i * slotSize) slotSize)))

/-- The valid records of the directory. -/
def Memory.routeRecords (m : Memory) : List RouteRecord :=
  m.directory.filterMap (fun p => match p.2 with | .valid r => some r | _ => none)

/-- The buckets of the damaged slots of the directory, one for each slot. -/
def Memory.damagedBuckets (m : Memory) : List Nat :=
  m.directory.filterMap (fun p => match p.2 with | .damaged => some (p.1 / 8) | _ => none)

/-- The damaged slots that the read of one directory sector met are counted, and raise DIR_CRC with their buckets
(R49, R57). -/
def State.reportDamaged (sec : Nat) (s : State) : State :=
  let bs := s.store.damagedBuckets.filter (fun b => dirSector + b / 256 == sec)
  bs.foldl (fun t b => t.raise .dirCrc (BitVec.ofNat 32 b)) (s.bump .dirCrc bs.length)

/-- The digest of the directory (R47). -/
def Memory.digest (m : Memory) : Word :=
  ~~~ (m.foldBytes crc32Byte (dirSector * sectorSize) (dirSectors * sectorSize) 0xFFFFFFFF#32)

/-- The route indices of the records are exactly 0 to n − 1, each once (R47, R49). -/
def indicesComplete (rs : List RouteRecord) (n : Nat) : Bool :=
  rs.length == n && (List.range n).all (fun i => rs.any (fun r => r.index == i))

/-! ### The replay of a resume (R58) -/

/-- Any of bits 0 to 5: the alarm flags (R114). -/
def alarmBits (flags : BitVec 16) : Bool := (flags &&& 0x003F#16) != 0#16

/-- One slot of the journal as the replay reads it: a valid record at or above the first serial that names a
route index is replayed into its status entry, or passed over and counted by REPLAY_SKIP. The counts are
those of records replayed and of records passed over. -/
def State.replaySlot (sec slot rep skip : Nat) (s : State) : State × Nat × Nat :=
  match judgeJournal (s.store.slot sec slot) with
  | .valid bs =>
    if recSerial bs < s.rm.firstSerial ∨ recIndex bs = none16 then (s, rep, skip)
    else
      match s.rm.status[recIndex bs]? with
      | some e =>
        if recIndex bs < s.rm.meterCount ∧ e.meterId = recMeter bs ∧ e.status ≠ .excluded then
          let st : MeterStatus := if alarmBits (recFlags bs) || e.status == .flagged then .flagged else .read
          let e' := { e with status := st, lastValue := some (recValue bs), lastCommit := none }
          ({ s with rm := { s.rm with status := s.rm.status.set (recIndex bs) e' } }, rep + 1, skip)
        else (s.bump .replaySkip, rep + 1, skip + 1)
      | none => (s.bump .replaySkip, rep + 1, skip + 1)
  | _ => (s, rep, skip)

/-- Where the replay reads next (R58): past holes, and from slot 1 of the tail when its sector has left the
span. -/
def State.replayPos (sec slot : Nat) (s : State) : Nat × Nat :=
  if s.journal.inSpan sec then s.skipHoles journalSectors (sec, slot)
  else s.skipHoles journalSectors (s.journal.tail, 1)

/-- The replay asks for its next slot, or stands at the head next slot with nothing to read (R58, R59). -/
def State.replayNext (sec slot rep skip : Nat) (s : State) : State :=
  let p := s.replayPos sec slot
  let s := { s with startup := .replay p.1 p.2 rep skip }
  if s.journal.outside p.1 p.2 then s
  else s.request .startup (.read (slotAddr p.1 p.2) slotSize)

/-! ### The scan's headers (R150) -/

/-- The journal sectors whose slot 0 is not blank, in ascending order. -/
def Memory.headerSectors (m : Memory) : List Nat :=
  dedupRising (m.filterMap (fun c =>
    let sec := c.1 / sectorSize
    if journalFirst ≤ sec ∧ sec ≤ journalLast ∧ c.1 % sectorSize < slotSize then some sec else none))

/-- The journal sectors with a valid header: sector, sequence, first serial. -/
def Memory.validHeaders (m : Memory) : List (Nat × Nat × Nat) :=
  m.headerSectors.filterMap (fun sec =>
    match judgeHeader (m.slot sec 0) with
    | .valid q f => some (sec, q, f)
    | _ => none)

/-- The first opening, of sector 18, that the scan makes of an empty journal: sequence 1, first serial 1
(R150). -/
def scanProgram : StoreOp := .program (journalFirst * sectorSize) (sectorHeaderBytes 1 1)

/-! ### What the other blocks want of the store (R140, R145, R159) -/

/-- The append queue's next operation (R140, R141). -/
def State.wantAppend (s : State) : State :=
  if s.journal.state = .ready ∧ s.storeFailed = false ∧ s.erasing = false then
    match s.journal.queue with
    | [] => s
    | q :: _ =>
      if s.journal.headNext ≤ 2047 then
        if s.port.outstanding .append then s
        else s.request .append
          (.program (slotAddr s.journal.head s.journal.headNext) (recordBytes q.reading 0xFF#8))
      else if 0 < s.journal.ahead ∧ s.port.outstanding .opening = false then s.request .opening s.openRead
      else s
  else s

/-- The mark walk's next read (R145). -/
def State.wantMark (s : State) : State :=
  if s.storeFailed = false ∧ s.erasing = false ∧ (s.journal.state = .ready ∨ s.journal.state = .full)
      ∧ s.port.outstanding .mark = false ∧ s.journal.markBlocked = false
      ∧ ¬ (s.journal.cursorSector = s.journal.head ∧ s.journal.cursorSlot = s.journal.headNext) then
    s.request .mark (.read (slotAddr s.journal.cursorSector s.journal.cursorSlot) slotSize)
  else s

/-- The upload engine's next read, while the conditions of R159 hold. With the store FAILED it is answered as failed at
once (R133, R166). -/
def State.wantUpload (s : State) : State :=
  if s.ue.state = .streaming ∧ s.tl.rate.isSome = true ∧ s.ue.ready = none ∧ s.ue.window.length < windowRoom
      ∧ s.erasing = false ∧ s.ue.waiting = false ∧ s.port.outstanding .upload = false then
    if s.storeFailed then s.failUploadRead
    else s.request .upload (.read (slotAddr s.ue.sector s.ue.slot) slotSize)
  else s

/-- The kind of the mark walk's operation in flight: a read, or a mark program. -/
def State.markInFlight (program : Bool) (s : State) : Bool :=
  match s.port.active with
  | some a => a.client == .mark && a.op.isProgram == program
  | none => false

/-- Every record of the journal is uploaded: the mark cursor stands at the head next slot, and no mark program is in
flight (R154). -/
def State.allUploaded (s : State) : Bool :=
  s.journal.cursorSector == s.journal.head && s.journal.cursorSlot == s.journal.headNext && !s.markInFlight true

/-- A JOURNAL ERASE that waited for an operation in flight begins its erases (R154). An append program that was in
flight has by then made its record one of the journal (R140), and a record that is not uploaded is never erased (R146):
nothing is erased then, and the answer is NOT_UPLOADED (DESIGN CHOICE: log 18). -/
def State.beginErase (s : State) : State :=
  match s.tl.longOp with
  | some l =>
    if l.work = .eraseWait ∧ s.port.outstanding .append = false ∧ s.port.outstanding .reclaim = false
        ∧ s.port.outstanding .opening = false then
      if s.allUploaded = false then s.endLong .notUploaded []
      else if s.journal.tail = s.journal.head then
        { s with tl := { s.tl with longOp := some { l with work := .eraseOpen 0 } } }.request .longOp s.openRead
      else
        { s with tl := { s.tl with longOp := some { l with work := .eraseSpan 0 } } }.request .longOp
          (.erase s.journal.tail)
    else s
  | none => s

/-- Every block makes the requests it wants. -/
def State.want (s : State) : State := s.beginErase.wantAppend.wantMark.wantUpload

/-- Every block makes the requests it wants, and the arbiter serves the port: the close of every step. -/
def State.pump (s : State) : State := s.want.grant

/-! ### Operations that end without a row of their own (log 2, log 7) -/

/-- The long operation's work goes on. -/
def State.setWork (w : Work) (s : State) : State :=
  match s.tl.longOp with
  | some l => { s with tl := { s.tl with longOp := some { l with work := w } } }
  | none => s

/-- The next step of a long operation's work after the end of an operation in the middle of it; `none` when
that end has a row of its own. -/
def State.afterLongOp (w : Work) (op : StoreOp) (s : State) : Option State :=
  match w, op with
  | .clear left, .erase _ =>
    if 1 < left then some ((s.endOp.setWork (.clear (left - 1))).request .longOp (clearErase (left - 1))) else none
  | .finishRead left, .read _ _ =>
    if 1 < left then some ((s.endOp.setWork (.finishRead (left - 1))).request .longOp (dirRead (left - 1))) else none
  | .digest left, .read _ _ =>
    if 1 < left then some ((s.endOp.setWork (.digest (left - 1))).request .longOp (dirRead (left - 1))) else none
  | .openRead left, .read _ _ =>
    if 1 < left then
      let t := s.endOp.reportDamaged (leftSector dirSector dirSectors left)
      some ((t.setWork (.openRead (left - 1))).request .longOp (dirRead (left - 1)))
    else none
  | .finishHeader _, .erase _ => let t := s.endOp; some (t.request .longOp (t.headerOp (t.workHeader w)))
  | .openHeader _ _, .erase _ => let t := s.endOp; some (t.request .longOp (t.headerOp (t.workHeader w)))
  | .closeHeader, .erase _ => let t := s.endOp; some (t.request .longOp (t.headerOp (t.workHeader w)))
  | .save image _, .erase _ =>
    some ((s.endOp.setWork (.save image 0)).request .longOp (.program 0 (image.take 256)))
  | .save image 0, .program _ _ =>
    some ((s.endOp.setWork (.save image 1)).request .longOp (.program 256 (image.drop 256)))
  | .eraseSpan n, .erase _ =>
    let t := s.endOp
    let t := { t with journal := { t.journal with tail := nextSector t.journal.tail, ahead := t.journal.ahead + 1 } }
    if t.journal.tail = t.journal.head then
      some ((t.setWork (.eraseOpen (n + 1))).request .longOp t.openRead)
    else some ((t.setWork (.eraseSpan (n + 1))).request .longOp (.erase t.journal.tail))
  | .eraseOpen _, .read _ _ => let t := s.endOp; some (t.request .longOp t.afterOpenRead)
  | .eraseOpen _, .erase _ => let t := s.endOp; some (t.request .longOp t.openProgram)
  | .eraseOpen n, .program _ _ =>
    let t := s.endOp
    some ((t.sectorOpened.setWork (.eraseOld n t.journal.head)).request .longOp (.erase t.journal.head))
  | _, _ => none

/-- The same for the start-up path. -/
def State.afterStartup (op : StoreOp) (s : State) : Option State :=
  match s.startup, op with
  | .scan, .read a _ =>
    if a = journalFirst * sectorSize ∧ s.store.validHeaders = [] then
      let t := s.endOp
      some (t.request .startup
        (if t.store.blank (journalFirst * sectorSize) sectorSize then scanProgram else .erase journalFirst))
    else none
  | .scan, .erase _ => some (s.endOp.request .startup scanProgram)
  | .rebuild left, .read _ _ =>
    if 1 < left then
      let t := s.endOp.reportDamaged (leftSector dirSector dirSectors left)
      some ({ t with startup := .rebuild (left - 1) }.request .startup (dirRead (left - 1)))
    else none
  | .resumeClose, .erase _ =>
    let t := s.endOp
    some (t.request .startup (t.headerOp (t.rm.header .closed)))
  | .replay sec slot rep skip, .read _ _ =>
    let (t, rep, skip) := s.endOp.replaySlot sec slot rep skip
    let p := t.journal.after sec slot
    some (t.replayNext p.1 p.2 rep skip)
  | _, _ => none

/-- The end of the operation in flight where it has no row of its own; `none` where it has one, or where
the port is free. -/
def State.advance? (s : State) : Option State :=
  match s.port.active with
  | none => none
  | some a =>
    match a.client, a.op with
    | .opening, .read _ _ =>
      let t := s.endOp
      some (if t.erasing then t else t.request .opening t.afterOpenRead).pump
    | .opening, .erase _ =>
      let t := s.endOp
      some (if t.erasing then t else t.request .opening t.openProgram).pump
    | .longOp, op =>
      match s.tl.longOp with
      | some l => (s.afterLongOp l.work op).map State.pump
      | none => none
    | .startup, op => (s.afterStartup op).map State.pump
    | _, _ => none

/-- The port brought to the end of an operation that has a row of its own: at most `n` operations without
one end on the way. -/
def State.settle : Nat → State → State
  | 0, s => s
  | n + 1, s =>
    match s.advance? with
    | some t => State.settle n t
    | none => s

/-- More operations than any work has that end without a row: a replay reads at most 494 × 2,047 slots. -/
def settleBound : Nat := 1100000

/-- The client of the operation in flight once the port is settled, with the settled state. -/
def State.settled (s : State) : State := s.settle settleBound

/-- The client whose operation is in flight. -/
def State.inFlight (s : State) : Option Client := s.port.active.map (·.client)

/-- The row of a requester's operation is due: its operation is in flight, or was answered failed. -/
def State.answered (c : Client) (s : State) : Bool :=
  s.inFlight == some c || decide (c ∈ s.port.failed)

end Sys2Proof.Machine
end

