-- ==== Sys2Proof/Machine/Operands.lean ====
section
/-! DEFINITION. How the command unit takes a command frame, reads its arguments and answers it (R176 to R178,
R188). -/

namespace Sys2Proof.Machine

/-- The commands' codes (section 9.7). -/
def commandCodes : List Byte :=
  [0x10#8, 0x11#8, 0x12#8, 0x13#8, 0x14#8, 0x20#8, 0x21#8, 0x22#8,
   0x30#8, 0x31#8, 0x32#8, 0x33#8, 0x34#8, 0x35#8, 0x36#8, 0x37#8, 0x38#8,
   0x40#8, 0x41#8, 0x42#8, 0x43#8, 0x44#8, 0x45#8, 0x50#8, 0x51#8, 0x60#8, 0x61#8,
   0x70#8, 0x71#8, 0x72#8, 0x80#8, 0x81#8, 0x82#8, 0x90#8, 0x91#8, 0x92#8, 0x93#8, 0x94#8, 0x95#8]

/-- The command unit can take this frame now: the reply path is empty, no completed long operation waits to
place its reply, no RESET has been accepted, and the frame is the oldest of the inbound buffer (R176, R186,
log 5). -/
def State.canTake (f : CmdFrame) (s : State) : Bool :=
  s.tl.reply.isNone && !s.tl.resetArmed
    && (match s.tl.longOp with | some l => l.reply.isNone | none => true)
    && s.tl.inbound.head? == some f

/-- The frame taken leaves the inbound buffer. -/
def State.takeFrame (s : State) : State := { s with tl := { s.tl with inbound := s.tl.inbound.tail } }

/-- A reply enters the reply path (R176): the command code, the reply code and the results. -/
def State.answer (tag code : Byte) (rc : ReplyCode) (results : List Byte) (s : State) : State :=
  { s with tl := { s.tl with reply := some ⟨tag, code :: rc.code :: results, false⟩ } }

/-- The common course of a command (R176, R177): it is taken when the unit can take it; while a long operation holds the
unit it is answered BUSY unless it is one that is executed then (`heldToo`); a body of the wrong length is answered
BAD_ARG; otherwise its owning rule acts. -/
def runCommand (code : Byte) (heldToo lengthOk : Bool) (tag : Byte) (args : List Byte) (act : State → State)
    (s : State) : State :=
  if s.canTake ⟨tag, code :: args⟩ then
    let t := s.takeFrame
    if t.tl.longOp.isSome && !heldToo then t.answer tag code .busy []
    else if !lengthOk then t.answer tag code .badArg []
    else act t
  else s

/-- A setting command while the journal is SCANNING is refused before any check of its arguments (R135). -/
def State.unlessScanning (tag code : Byte) (act : State → State) (s : State) : State :=
  if s.journal.state = .scanning then s.answer tag code .badState [] else act s

/-- A long operation starts its work and holds the command unit (R177). -/
def State.startLong (tag code : Byte) (w : Work) (s : State) : State :=
  { s with tl := { s.tl with longOp := some ⟨code, tag, w, none⟩ } }

/-- The work of the long operation at work, if any. -/
def State.work (s : State) : Option Work := s.tl.longOp.map (·.work)

/-- A yes or no argument, 00H or 01H (R188). -/
def boolOf? : Nat → Option Bool
  | 0 => some false
  | 1 => some true
  | _ => none

/-- A one-byte argument that names an entry of a table of `n`. -/
def indexOf? (n : Nat) (bs : List Byte) (i : Nat) : Option (Fin n) :=
  if h : natAt bs i < n then some ⟨natAt bs i, h⟩ else none

/-- An optional number, all ones for none (R188). -/
def optBytes (n : Nat) (v : Option Nat) : List Byte :=
  match v with
  | some x => beBytes n x
  | none => List.replicate n 0xFF#8

end Sys2Proof.Machine
end

