-- ==== Sys2Proof/Machine/TimeBase.lean ====
section
/-! DEFINITION. The time base: chapter 2, R27 to R39, and the noise windows that end on its seconds (R24, R25). -/

namespace Sys2Proof.Machine

/-- The day number of a seconds count (R30). -/
def dayNumber (seconds : Word) : Nat := seconds.toNat / 86400

/-- A channel's window ends (R25): it leaves NOISY when its count is below max(1, ⌊N/2⌋), and the count is
zeroed. -/
def Channel.endWindow (c : Channel) : Channel :=
  { c with noisy := c.noisy && !(c.windowCount < max 1 (c.threshold / 2)), windowCount := 0 }

/-- The time of day a millisecond later (R29). -/
def TimeBase.tickDay (t : TimeBase) : TimeBase :=
  if t.todMs < 999 then { t with todMs := t.todMs + 1 }
  else { t with todMs := 0, todSeconds := t.todSeconds + 1 }

/-- Does the run clock reach a whole multiple of 1,000 ms, or wrap, at the end of this millisecond (R24,
R28)? -/
def State.secondDue (s : State) : Bool := (s.tb.runClock + 1).toNat % 1000 == 0

/-- The end of a millisecond (R27, R29): the run clock and the time of day go on by one. Where the run clock
reaches a multiple of 1,000 ms, the run-clock seconds go up by one and every channel's noise window ends
(R28, R25). -/
def State.millisecond (s : State) : State :=
  let s' := { s with tb := { s.tb.tickDay with runClock := s.tb.runClock + 1 } }
  if s.secondDue then
    { s' with tb := { s'.tb with runSeconds := s.tb.runSeconds + 1 }, channels := tableMap Channel.endWindow s.channels }
  else s'

/-- RUN_CLOCK_MILLISECOND (R27). -/
def execRunClockMillisecond (s : State) : Host.Outcome State Fault Refusal := live s s.millisecond

/-- NOISE_WINDOW_END (R25): the millisecond at whose end the run clock reaches a multiple of 1,000 ms (log 4). -/
def execNoiseWindowEnd (s : State) : Host.Outcome State Fault Refusal :=
  live s (if s.secondDue then s.millisecond else s)

/-- The phase error of an edge that finds the milliseconds field at `f` (R35). -/
def phaseError (f : Nat) : Int := if f < 500 then (f : Int) else (f : Int) - 1000

/-- The time of day aligned on an edge with phase error `e` (R36). -/
def State.align (e : Int) (s : State) : State :=
  let s' := { s with tb := { s.tb with
    todMs := 0, todSeconds := if e < 0 then s.tb.todSeconds + 1 else s.tb.todSeconds } }
  if e = 0 then s' else s'.raise .timeStep (BitVec.ofInt 32 e)

/-- What an accepted edge with phase error `e` does by the pulse mode (R37, R38). -/
def State.edgeByMode (e : Int) (s : State) : State :=
  match s.tb.mode with
  | .off => s
  | .monitor => if e.natAbs > s.tb.window then s.raise .phaseOut (BitVec.ofInt 32 e) else s
  | .continuous => if e.natAbs > s.tb.window then s.align e else s
  | .once => let t := s.align e; { t with tb := { t.tb with mode := .monitor } }

/-- An edge is a glitch: the pulse is PRESENT and less than 500 ms have passed since the last accepted edge
(R33). -/
def TimeBase.glitch (t : TimeBase) : Bool :=
  t.present && match t.lastEdge with
    | some l => (t.runClock - l).toNat < 500
    | none => false

/-- A rising edge on TPI (R33, R35). -/
def State.edge (s : State) : State :=
  if s.tb.mode = .off then s
  else if s.tb.glitch then s.bump .tpiGlitch
  else
    let e := phaseError s.tb.todMs
    { s with tb := { s.tb with lastEdge := some s.tb.runClock, lossExpiry := some (s.tb.runClock + 1500),
                               present := true, snapshot := e } }.edgeByMode e

/-- TPI_EDGE (R33). -/
def execTpiEdge (s : State) : Host.Outcome State Fault Refusal := live s s.edge

/-- The loss expiry is reached while the pulse is PRESENT (R34). -/
def State.pulseLossDue (s : State) : Bool :=
  s.tb.present && match s.tb.lossExpiry with
    | some e => reached s.tb.runClock e
    | none => false

/-- PULSE_LOST (R34): the status becomes LOST, the expiry is disarmed and the event rises without detail. -/
def execPulseLost (s : State) : Host.Outcome State Fault Refusal :=
  live s (if s.pulseLossDue then
      ({ s with tb := { s.tb with present := false, lossExpiry := none } }).raise .pulseLost 0#32
    else s)

/-- TIME SET (R31): seconds (4 bytes) and milliseconds (2 bytes). -/
def execTimeSet (tag : Byte) (args : List Byte) (s : State) : Host.Outcome State Fault Refusal :=
  live s <| runCommand 0x20#8 false (args.length == 6) tag args (fun s =>
    let sec := numAt args 0 4
    let ms := numAt args 4 2
    if ms > 999 then s.answer tag 0x20#8 .badArg []
    else
      ({ s with tb := { s.tb with todSeconds := BitVec.ofNat 32 sec, todMs := ms, timeValid := true } }).answer
        tag 0x20#8 .ok (beBytes 4 sec ++ beBytes 2 ms ++ beBytes 4 s.tb.runClock.toNat)) s

/-- TIME READ (R32). -/
def execTimeRead (tag : Byte) (args : List Byte) (s : State) : Host.Outcome State Fault Refusal :=
  live s <| runCommand 0x21#8 true (args.length == 0) tag args (fun s =>
    s.answer tag 0x21#8 .ok
      (beBytes 4 s.tb.runClock.toNat ++ beBytes 4 s.tb.todSeconds.toNat ++ beBytes 2 s.tb.todMs
        ++ [boolByte s.tb.timeValid, byteOf s.tb.mode.code, byteOf s.tb.window,
            byteOf (pulseStatusCode s.tb.present)]
        ++ signedBytes 2 s.tb.snapshot)) s

/-- The pulse state after PULSE MODE gives a mode and a window (R39). -/
def TimeBase.setMode (t : TimeBase) (m : PulseMode) (w : Nat) : TimeBase :=
  if m = .off ∨ t.mode = .off then
    { t with mode := m, window := w, present := false, lastEdge := none, lossExpiry := none }
  else { t with mode := m, window := w }

/-- PULSE MODE (R39): mode and W, one byte each. -/
def execPulseMode (tag : Byte) (args : List Byte) (s : State) : Host.Outcome State Fault Refusal :=
  live s <| runCommand 0x22#8 false (args.length == 2) tag args (State.unlessScanning tag 0x22#8 fun s =>
    match PulseMode.ofCode? (natAt args 0) with
    | none => s.answer tag 0x22#8 .badArg []
    | some m =>
      if natAt args 1 > 250 then s.answer tag 0x22#8 .badArg []
      else
        let tb := s.tb.setMode m (natAt args 1)
        ({ s with tb := tb }).answer tag 0x22#8 .ok
          ([byteOf tb.mode.code, byteOf tb.window, byteOf (pulseStatusCode tb.present)]
            ++ signedBytes 2 tb.snapshot)) s

end Sys2Proof.Machine
end

