-- ==== Sys2Proof/Machine/Framers.lean ====
section
/-! DEFINITION. Receiver ports, PN9 checkers, crossbar, framers, slots and noise monitors: chapter 1, R1 to
R26. -/

namespace Sys2Proof.Machine

/-! ### Channels and framers -/

/-- A channel replaced. -/
def State.setChannel (c : Fin 8) (ch : Channel) (s : State) : State :=
  { s with channels := s.channels.set c ch }

/-- A channel's framer replaced. -/
def State.setFramer (c : Fin 8) (f : Framer) (s : State) : State :=
  s.setChannel c { s.channels[c] with framer := f }

/-- A port replaced. -/
def State.setPort (p : Fin 8) (x : Port) (s : State) : State := { s with ports := s.ports.set p x }

/-- A port mode whose port delivers items to the crossbar (section 1.1). -/
def PortMode.delivers : PortMode → Bool
  | .nrz | .man => true
  | _ => false

/-- The effective families of a channel, in ascending order: enabled in its mask and valid (section 1.3). -/
def State.effective (c : Fin 8) (s : State) : List (Fin 8) :=
  eight.filter (fun f => s.channels[c].mask.getLsbD f.val && s.families[f].valid)

/-- No condition of R14 keeps the framer in OFF: the source port is in NRZ or MAN mode and the channel has an
effective family. -/
def State.framerRuns (c : Fin 8) (s : State) : Bool :=
  (match s.channels[c].source with
    | some p => s.ports[p].settings.mode.delivers
    | none => false) && !(s.effective c).isEmpty

/-- HUNT with the window cleared, or OFF where R14 requires it. -/
def State.freshFramer (c : Fin 8) (s : State) : Framer :=
  if s.framerRuns c then .hunt 0#32 0 else .off

/-- The framer placed afresh. -/
def State.placeFramer (c : Fin 8) (s : State) : State := s.setFramer c (s.freshFramer c)

/-- A framing error reaches the noise monitor (R24): the window count goes up, stopping at 255, and a channel
that is not NOISY becomes NOISY, with the event, when the count reaches N. -/
def State.noiseError (c : Fin 8) (s : State) : State :=
  let ch := s.channels[c]
  let n := capTo 255 (ch.windowCount + 1)
  if !ch.noisy && ch.threshold ≤ n then
    (s.setChannel c { ch with windowCount := n, noisy := true }).raise .noisy (BitVec.ofNat 32 c.val)
  else s.setChannel c { ch with windowCount := n }

/-- A good frame's record meets the channel's slots (R23). -/
def State.putSlot (c : Fin 8) (r : FrameRecord) (s : State) : State :=
  let ch := s.channels[c]
  if ch.slots.length < slotRoom then s.setChannel c { ch with slots := ch.slots ++ [r] }
  else (s.bump (.slotOverflow c)).raise .slotOverflow (BitVec.ofNat 32 c.val)

/-! ### Checking and decoding a body (R19, R20) -/

/-- Body bits as bytes, the first bit of each byte its most significant (R17). -/
def bytesOfBits : List Bool → List Byte
  | a :: b :: c :: d :: e :: f :: g :: h :: rest =>
    byteOf ([a, b, c, d, e, f, g, h].foldl (fun acc x => acc * 2 + x.toNat) 0) :: bytesOfBits rest
  | _ => []

/-- The number of data bytes (section 1.2.2). -/
def Family.dataLen (f : Family) : Nat :=
  match f.crc with
  | .none => f.bodyLen
  | _ => f.bodyLen - 2

/-- Does the body's CRC agree (R19)? -/
def Family.crcOk (f : Family) (body : List Byte) : Bool :=
  match f.crc with
  | .none => true
  | .k1 => numAt body f.dataLen 2 == (crcK1 (body.take f.dataLen)).toNat
  | .k2 => numAt body f.dataLen 2 == (crcK2 (body.take f.dataLen)).toNat

/-- Two decimal digits per byte, the high half first; `none` when a digit is above 9 (R20). -/
def bcdValue (bs : List Byte) : Option Nat :=
  if bs.all (fun b => b.toNat / 16 ≤ 9 && b.toNat % 16 ≤ 9) then
    some (bs.foldl (fun acc b => acc * 100 + b.toNat / 16 * 10 + b.toNat % 16) 0)
  else none

/-- The value field (R20). -/
def Family.value? (f : Family) (body : List Byte) : Option Nat :=
  let field := slice body f.valueOffset f.valueLen
  match f.encoding with
  | .bin => some (beNat field)
  | .bcd => bcdValue field

/-- The frame record of a checked body (R21). -/
def State.frameRecord (c : Fin 8) (fam : Fin 8) (mism viol : Nat) (body : List Byte) (value : Nat)
    (s : State) : FrameRecord :=
  let f := s.families[fam]
  { channel := c, family := fam, meterId := BitVec.ofNat 32 (numAt body f.idOffset f.idLen), value := value,
    indicators := body.getD f.indOffset 0#8 &&& f.indMask, quality := 16 * mism + min viol 15,
    seconds := s.tb.todSeconds, timeValid := s.tb.timeValid }

/-- A complete body (R17, R19 to R21, R23): the framer returns to HUNT or OFF, and the body is a CRCERR, a
BADVALUE or a good frame. -/
def State.completeBody (c fam : Fin 8) (mism viol : Nat) (bits : List Bool) (s : State) : State :=
  let f := s.families[fam]
  let body := bytesOfBits bits
  let t := s.placeFramer c
  if f.crcOk body then
    match f.value? body with
    | some v => (t.bump (.frames c)).putSlot c (s.frameRecord c fam mism viol body v)
    | none => (t.bump (.badValue c)).noiseError c
  else (t.bump (.crcErr c)).noiseError c

/-! ### Items -/

/-- An item (section 1.1): a bit, a code violation, or a carrier loss. -/
inductive Item where
  | bit (b : Bool)
  | violation
  | loss
deriving DecidableEq, Repr

/-- The bits in which the last L bits received differ from a family's pattern (R15). -/
def Family.mismatches (f : Family) (window : Word) : Nat :=
  popCount ((window ^^^ f.pattern) &&& BitVec.ofNat 32 (2 ^ f.syncLen - 1))

/-- Does a family's sync match the window after `count` bits (R15)? While NOISY the tolerance is 0. -/
def Family.syncs (f : Family) (noisy : Bool) (window : Word) (count : Nat) : Bool :=
  f.syncLen ≤ count && f.mismatches window ≤ (if noisy then 0 else f.tolerance)

/-- The lowest-numbered effective family of the channel that matches (R15). -/
def State.syncFamily (c : Fin 8) (window : Word) (count : Nat) (s : State) : Option (Fin 8) :=
  (s.effective c).find? (fun f => s.families[f].syncs s.channels[c].noisy window count)

/-- The window with one more bit (R15). -/
def pushBit (window : Word) (b : Bool) : Word := (window <<< 1) ||| BitVec.ofNat 32 b.toNat

/-- A framer in HUNT takes a bit (R15). -/
def State.huntBit (c : Fin 8) (window : Word) (count : Nat) (b : Bool) (s : State) : State :=
  let w := pushBit window b
  match s.syncFamily c w (count + 1) with
  | some f => s.setFramer c (.body f (s.families[f].mismatches w) [] 0)
  | none => s.setFramer c (.hunt w (count + 1))

/-- A framer in BODY takes a bit (R17). -/
def State.bodyBit (c fam : Fin 8) (mism : Nat) (bits : List Bool) (viol : Nat) (b : Bool) (s : State) : State :=
  if 8 * s.families[fam].bodyLen ≤ bits.length + 1 then s.completeBody c fam mism viol (bits ++ [b])
  else s.setFramer c (.body fam mism (bits ++ [b]) viol)

/-- A channel's framer takes an item (R15 to R18). -/
def State.frameItem (c : Fin 8) (it : Item) (s : State) : State :=
  match s.channels[c].framer, it with
  | .off, _ => s
  | .hunt w n, .bit b => s.huntBit c w n b
  | .hunt _ _, _ => s.setFramer c (.hunt 0#32 0)
  | .body f m bits v, .bit b => s.bodyBit c f m bits v b
  | .body f m bits v, .violation =>
    if 8 ≤ v + 1 then ((s.placeFramer c).bump (.badCode c)).noiseError c
    else s.bodyBit c f m bits (v + 1) false
  | .body _ _ _ _, .loss => ((s.placeFramer c).bump (.cut c)).noiseError c

/-- The crossbar hands an item to every channel whose source is the port (R5), in ascending order of the channels
(DESIGN CHOICE: log 35). -/
def State.deliver (p : Fin 8) (it : Item) (s : State) : State :=
  eight.foldl (fun t c => if t.channels[c].source = some p then t.frameItem c it else t) s

/-- RXC allows the port to deliver (R4). -/
def Port.open? (x : Port) : Bool := !x.settings.carrierQualify || x.carrier

/-- The item a port makes of a sample, and the half bit its clock holds afterwards; `none` when the port
delivers nothing (R2 to R4). -/
def Port.item (x : Port) (smp : Sample) : Option (Item × Option Bool) :=
  if x.open? then
    match x.settings.mode with
    | .nrz => some (.bit (smp.first ^^ x.settings.invert), none)
    | .man =>
      let h1 := x.heldHalf.getD (smp.first ^^ x.settings.invert)
      let h2 := smp.second ^^ x.settings.invert
      if h1 = h2 then some (.violation, some h2) else some (.bit h1, none)
    | _ => none
  else none

/-- A port samples its line and delivers the item (R2 to R5). -/
def State.sample (p : Fin 8) (smp : Sample) (s : State) : State :=
  match s.ports[p].item smp with
  | some (it, held) => (s.setPort p { s.ports[p] with heldHalf := held }).deliver p it
  | none => s

/-- The channel's next item, where its source port delivers one of this sample. -/
def State.channelItem (c : Fin 8) (smp : Sample) (s : State) : Option (Fin 8 × Item) :=
  match s.channels[c].source with
  | some p => (s.ports[p].item smp).map (fun x => (p, x.1))
  | none => none

/-- ITEM_DELIVERED (R5). -/
def execItemDelivered (p : Fin 8) (smp : Sample) (s : State) : Host.Outcome State Fault Refusal :=
  live s (s.sample p smp)

/-- A bit of this sample completes a sync match on the channel (R15). -/
def State.syncDue (c : Fin 8) (smp : Sample) (s : State) : Bool :=
  match s.channels[c].framer, s.channelItem c smp with
  | .hunt w n, some (_, .bit b) => (s.syncFamily c (pushBit w b) (n + 1)).isSome
  | _, _ => false

/-- The delivery of a sample by the channel's source port, whole, to every channel it feeds (R5). -/
def State.sampleOf (c : Fin 8) (smp : Sample) (s : State) : State :=
  match s.channels[c].source with
  | some p => s.sample p smp
  | none => s

/-- SYNC_MATCH (R15): the item that completes a match on channel `c` (log 4). -/
def execSyncMatch (c : Fin 8) (smp : Sample) (s : State) : Host.Outcome State Fault Refusal :=
  live s (if s.syncDue c smp then s.sampleOf c smp else s)

/-- The item of this sample is the eighth violation of the body on the channel (R17). -/
def State.badcodeDue (c : Fin 8) (smp : Sample) (s : State) : Bool :=
  match s.channels[c].framer, s.channelItem c smp with
  | .body _ _ _ v, some (_, .violation) => 8 ≤ v + 1
  | _, _ => false

/-- BADCODE_ABORT (R17): the item that is the eighth violation on channel `c` (log 4). -/
def execBadcodeAbort (c : Fin 8) (smp : Sample) (s : State) : Host.Outcome State Fault Refusal :=
  live s (if s.badcodeDue c smp then s.sampleOf c smp else s)

/-- The item of this sample is the last body bit on the channel (R17). -/
def State.bodyDue (c : Fin 8) (smp : Sample) (s : State) : Bool :=
  match s.channels[c].framer, s.channelItem c smp with
  | .body f _ bits _, some (_, .bit _) => 8 * s.families[f].bodyLen ≤ bits.length + 1
  | .body f _ bits v, some (_, .violation) => v + 1 < 8 && 8 * s.families[f].bodyLen ≤ bits.length + 1
  | _, _ => false

/-- FRAME_BODY_COMPLETE (R19): the item that completes the body on channel `c` (log 4). -/
def execFrameBodyComplete (c : Fin 8) (smp : Sample) (s : State) : Host.Outcome State Fault Refusal :=
  live s (if s.bodyDue c smp then s.sampleOf c smp else s)

/-- RXC goes inactive (R4): a delivering port with carrier qualify delivers one carrier loss and stops. -/
def State.carrierLost (p : Fin 8) (s : State) : State :=
  let x := s.ports[p]
  let t := s.setPort p { x with carrier := false }
  if x.carrier && x.settings.carrierQualify && x.settings.mode.delivers then t.deliver p .loss else t

/-- RXC_INACTIVE (R4). -/
def execRxcInactive (p : Fin 8) (s : State) : Host.Outcome State Fault Refusal := live s (s.carrierLost p)

/-- RXC_ACTIVE (R4): with carrier qualify the bit clock starts afresh. -/
def execRxcActive (p : Fin 8) (s : State) : Host.Outcome State Fault Refusal :=
  let x := s.ports[p]
  live s (s.setPort p { x with
    carrier := true,
    heldHalf := if x.settings.carrierQualify && !x.carrier then none else x.heldHalf })

/-- What a framing error of this cause leaves: the item's delivery, or the carrier loss. -/
def State.noiseStep (c : Fin 8) (cause : NoiseCause) (s : State) : State :=
  match cause with
  | .item smp => s.sampleOf c smp
  | .carrierLoss =>
    match s.channels[c].source with
    | some p => s.carrierLost p
    | none => s

/-- NOISY (R24): the item or carrier loss whose framing error makes channel `c` NOISY (log 4). -/
def execNoisy (c : Fin 8) (cause : NoiseCause) (s : State) : Host.Outcome State Fault Refusal :=
  let t := s.noiseStep c cause
  live s (if !s.channels[c].noisy && t.channels[c].noisy then t else s)

/-! ### The PN9 checker (R6, R7) -/

/-- The next bit of the sequence: the exclusive OR of the bits five and nine places before it. -/
def pn9Next (r : BitVec 9) : Bool := r.getLsbD 4 ^^ r.getLsbD 8

/-- A bit shifted into the register. -/
def pn9Push (r : BitVec 9) (b : Bool) : BitVec 9 := (r <<< 1) ||| BitVec.ofNat 9 b.toNat

/-- A bit in SEARCH or LOST (R6). -/
def Checker.searchBit (k : Checker) (b : Bool) : Checker :=
  let reg := pn9Push k.register b
  if k.filled < 9 then { k with register := reg, filled := k.filled + 1 }
  else
    let run := if b = pn9Next k.register then (if k.register = 0#9 then k.run else k.run + 1) else 0
    if 32 ≤ run then { k with register := reg, run := run, phase := .locked, outcomes := [] }
    else { k with register := reg, run := run }

/-- A bit in LOCKED (R7). -/
def Checker.lockedBit (k : Checker) (b : Bool) : Checker :=
  let next := pn9Next k.register
  let wrong := b != next
  let outcomes := (wrong :: k.outcomes).take 64
  let bits := capTo checkerMax (k.bits + 1)
  let errors := if wrong then capTo checkerMax (k.errors + 1) else k.errors
  if 16 ≤ outcomes.count true then
    { phase := .lost, register := 0#9, filled := 0, run := 0, errors := errors, bits := bits, outcomes := [] }
  else { k with register := pn9Push k.register next, errors := errors, bits := bits, outcomes := outcomes }

/-- A bit reaches the checker (R6, R7). -/
def Checker.bit (k : Checker) (b : Bool) : Checker :=
  match k.phase with
  | .locked => k.lockedBit b
  | _ => k.searchBit b

/-- The port hands bits to its checker: CHECK mode, and RXC active under carrier qualify (R4). -/
def Port.checks (x : Port) : Bool := x.settings.mode == .check && x.open?

/-- A port in CHECK mode samples its line: the bit after polarity invert goes to the checker (R6). -/
def State.checkBit (p : Fin 8) (level : Bool) (s : State) : State :=
  let x := s.ports[p]
  if x.checks then s.setPort p { x with checker := x.checker.bit (level ^^ x.settings.invert) } else s

/-- CHECKER_BIT (R7). -/
def execCheckerBit (p : Fin 8) (level : Bool) (s : State) : Host.Outcome State Fault Refusal :=
  live s (s.checkBit p level)

/-- PN9_LOCKED (R6): the bit that brings the run count to 32 (log 4). -/
def execPn9Locked (p : Fin 8) (level : Bool) (s : State) : Host.Outcome State Fault Refusal :=
  let t := s.checkBit p level
  live s (if s.ports[p].checker.phase ≠ .locked ∧ t.ports[p].checker.phase = .locked then t else s)

/-- PN9_LOST (R7): the bit whose comparison is the sixteenth wrong one of the last 64 (log 4). -/
def execPn9Lost (p : Fin 8) (level : Bool) (s : State) : Host.Outcome State Fault Refusal :=
  let t := s.checkBit p level
  live s (if s.ports[p].checker.phase = .locked ∧ t.ports[p].checker.phase = .lost then t else s)

/-! ### Commands (R8 to R12, R22, R26) -/

/-- A command acts on a channel's framer (R22): a frame in BODY is aborted with RECONF, and the framer is
placed afresh. -/
def State.reconf (c : Fin 8) (s : State) : State :=
  match s.channels[c].framer with
  | .body _ _ _ _ => (s.placeFramer c).bump (.reconf c)
  | _ => s.placeFramer c

/-- A port's checker is started when the port is in CHECK mode (R1, R9). -/
def Port.startChecker (x : Port) : Port :=
  if x.settings.mode = .check then { x with checker := .start } else x

/-- PORT SET (R9): port, mode, polarity invert, bit rate (4 bytes), carrier qualify. -/
def execPortSet (tag : Byte) (args : List Byte) (s : State) : Host.Outcome State Fault Refusal :=
  live s <| runCommand 0x10#8 false (args.length == 8) tag args (State.unlessScanning tag 0x10#8 fun s =>
    match indexOf? 8 args 0, PortMode.ofCode? (natAt args 1), boolOf? (natAt args 2), boolOf? (natAt args 7) with
    | some p, some mode, some inv, some cq =>
      let rate := numAt args 3 4
      if rate < 1000 ∨ 100000 < rate then s.answer tag 0x10#8 .badArg []
      else
        let set : PortSettings := ⟨mode, inv, rate, cq⟩
        let t := s.setPort p ({ s.ports[p] with settings := set, heldHalf := none } : Port).startChecker
        let t := eight.foldl (fun t c => if t.channels[c].source = some p then t.reconf c else t) t
        t.answer tag 0x10#8 .ok (portBytes set)
    | _, _, _, _ => s.answer tag 0x10#8 .badArg []) s

/-- MAP SET (R10): channel, source port or FFH. -/
def execMapSet (tag : Byte) (args : List Byte) (s : State) : Host.Outcome State Fault Refusal :=
  live s <| runCommand 0x11#8 false (args.length == 2) tag args (State.unlessScanning tag 0x11#8 fun s =>
    match indexOf? 8 args 0 with
    | none => s.answer tag 0x11#8 .badArg []
    | some c =>
      if natAt args 1 < 8 ∨ natAt args 1 = 255 then
        ((s.setChannel c { s.channels[c] with source := sourceOf (args.getD 1 0#8) }).reconf c).answer tag 0x11#8 .ok []
      else s.answer tag 0x11#8 .badArg []) s

/-- The entry FAMILY SET names, from the arguments after the family number; `none` when one is out of range
(R11). The pattern's bits above its length are held as zero. -/
def familyArgs (args : List Byte) : Option Family :=
  match boolOf? (natAt args 1) with
  | none => none
  | some false => some .invalid
  | some true =>
    let L := natAt args 2
    let B := natAt args 8
    match ValueEncoding.ofCode? (natAt args 13), CrcKind.ofCode? (natAt args 16) with
    | some enc, some crc =>
      let f : Family :=
        { valid := true, syncLen := L, pattern := BitVec.ofNat 32 (numAt args 3 4 % 2 ^ L),
          tolerance := natAt args 7, bodyLen := B, idOffset := natAt args 9, idLen := natAt args 10,
          valueOffset := natAt args 11, valueLen := natAt args 12, encoding := enc,
          indOffset := natAt args 14, indMask := args.getD 15 0#8, crc := crc }
      if 16 ≤ L ∧ L ≤ 32 ∧ f.tolerance ≤ 3 ∧ 6 ≤ B ∧ B ≤ 30 ∧ 2 ≤ f.idLen ∧ f.idLen ≤ 4
          ∧ 1 ≤ f.valueLen ∧ f.valueLen ≤ 4 ∧ f.idOffset + f.idLen ≤ f.dataLen
          ∧ f.valueOffset + f.valueLen ≤ f.dataLen ∧ f.indOffset < f.dataLen then some f
      else none
    | _, _ => none

/-- Is a channel in BODY with the family (R11)? -/
def State.familyBusy (f : Fin 8) (s : State) : Bool :=
  eight.any (fun c => match s.channels[c].framer with
    | .body g _ _ _ => g == f
    | _ => false)

/-- The framer after a change of the family table (R12, R14): HUNT keeps its window. -/
def State.refreshFramer (c : Fin 8) (s : State) : State :=
  match s.channels[c].framer with
  | .off => s.placeFramer c
  | .hunt _ _ => if s.framerRuns c then s else s.setFramer c .off
  | .body _ _ _ _ => if s.framerRuns c then s else s.reconf c

/-- FAMILY SET (R11, R12). -/
def execFamilySet (tag : Byte) (args : List Byte) (s : State) : Host.Outcome State Fault Refusal :=
  live s <| runCommand 0x12#8 false (args.length == 17) tag args (State.unlessScanning tag 0x12#8 fun s =>
    match indexOf? 8 args 0, familyArgs args with
    | some f, some fam =>
      if s.familyBusy f then s.answer tag 0x12#8 .badState []
      else
        let t := { s with families := s.families.set f fam }
        (eight.foldl (fun t c => t.refreshFramer c) t).answer tag 0x12#8 .ok []
    | _, _ => s.answer tag 0x12#8 .badArg []) s

/-- CHANNEL SET (R26): channel, family-enable mask, noise threshold. -/
def execChannelSet (tag : Byte) (args : List Byte) (s : State) : Host.Outcome State Fault Refusal :=
  live s <| runCommand 0x13#8 false (args.length == 3) tag args (State.unlessScanning tag 0x13#8 fun s =>
    match indexOf? 8 args 0 with
    | none => s.answer tag 0x13#8 .badArg []
    | some c =>
      let mask := args.getD 1 0#8
      if natAt args 2 = 0 then s.answer tag 0x13#8 .badArg []
      else
        let old := s.channels[c].mask
        let t := s.setChannel c { s.channels[c] with mask := mask, threshold := natAt args 2 }
        let t := if mask = old then t else t.reconf c
        let ch := t.channels[c]
        t.answer tag 0x13#8 .ok
          [ch.mask, byteOf ch.threshold, byteOf ch.framer.code, boolByte ch.noisy, byteOf ch.windowCount,
            byteOf ch.slots.length]) s

/-- CHECK READ (R8): the counts are answered and set to 0. -/
def execCheckRead (tag : Byte) (args : List Byte) (s : State) : Host.Outcome State Fault Refusal :=
  live s <| runCommand 0x14#8 false (args.length == 1) tag args (fun s =>
    match indexOf? 8 args 0 with
    | none => s.answer tag 0x14#8 .badArg []
    | some p =>
      let x := s.ports[p]
      if x.settings.mode = .check then
        (s.setPort p { x with checker := { x.checker with errors := 0, bits := 0 } }).answer tag 0x14#8 .ok
          (byteOf x.checker.phase.code :: beBytes 4 x.checker.errors ++ beBytes 4 x.checker.bits)
      else s.answer tag 0x14#8 .badState []) s

end Sys2Proof.Machine
end

