-- ==== Sys2Proof/Machine/Flags.lean ====
section
/-! DEFINITION. The reading flags and the tamper screen: chapter 6, R111 to R128. -/

namespace Sys2Proof.Machine

/-! ### The flags field (section 6.2; places in section 9.8) -/

def flagReversed : BitVec 16 := 0x0001#16
def flagOverrate : BitVec 16 := 0x0002#16
def flagStagnant : BitVec 16 := 0x0004#16
def flagIndicator : BitVec 16 := 0x0008#16
def flagIdClash : BitVec 16 := 0x0010#16
def flagUnsteady : BitVec 16 := 0x0020#16
def flagBackstep : BitVec 16 := 0x0100#16
def flagNoPrior : BitVec 16 := 0x0200#16
def flagNoTime : BitVec 16 := 0x0400#16
def flagClamped : BitVec 16 := 0x0800#16
def flagWide : BitVec 16 := 0x1000#16
def flagNoDir : BitVec 16 := 0x2000#16

/-- A flag where its condition holds. -/
def flagIf (c : Bool) (f : BitVec 16) : BitVec 16 := if c then f else 0#16

/-! ### Movement (R94, R120) -/

/-- The rows of R120's table. -/
inductive Movement where
  | zero | backstep | reversal | forward
deriving DecidableEq, Repr

/-- F = (upto − frm) mod M (R94, R120). -/
def forwardBy (M upto frm : Nat) : Nat := (upto % M + M - frm % M) % M

/-- R = M − F when F is above 0, and 0 otherwise (R94, R120). -/
def backwardBy (M F : Nat) : Nat := if F = 0 then 0 else M - F

/-- The movement from `frm` to `upto` in modulus `M` with tolerance `T` (R120). -/
def movement (M T upto frm : Nat) : Movement :=
  let F := forwardBy M upto frm
  let R := backwardBy M F
  if F = 0 then .zero
  else if R ≤ T then .backstep
  else if R < F then .reversal
  else .forward

/-! ### The screen (R115 to R128) -/

/-- What a commit hands the screen (R99, section 6.3). `prior` is the prior value and prior day of a ROUTE
source; `last` is L, present for provisional kind REREAD; `expected` is `none` for ANY. -/
structure ScreenIn where
  value : Nat
  modulus : Nat
  prior : Option (Nat × Nat)
  seconds : Word
  timeValid : Bool
  rule : Rule
  expected : Option Nat
  seen : Byte
  clash : Bool
  indicators : Byte
  unsteady : Bool
  last : Option Nat
deriving DecidableEq, Repr

/-- What the screen returns (R115). -/
structure ScreenOut where
  flags : BitVec 16
  value : Nat
  delta : Nat
  rate : Option Nat
  elapsed : Option Nat
deriving DecidableEq, Repr

/-- The prior the screen finds: none when the source is not ROUTE or the prior day is 65,535 (R119). -/
def ScreenIn.priorFound (i : ScreenIn) : Option (Nat × Nat) :=
  match i.prior with
  | some (p, d) => if d = none16 then none else some (p, d)
  | none => none

/-- Stage 0: V = v mod M, and WIDE (R116). -/
def ScreenIn.reduced (i : ScreenIn) : Nat := i.value % i.modulus

/-- IDCLASH (R117): a family other than the one expected was seen, or the receptions differed. -/
def ScreenIn.idClash (i : ScreenIn) : Bool :=
  i.clash || match i.expected with
    | some f => eight.any (fun g => i.seen.getLsbD g.val && g.val != f)
    | none => false

/-- Stages 0 and 1: WIDE, IDCLASH, INDICATOR and the merge table's UNSTEADY (R116 to R118). -/
def ScreenIn.firstFlags (i : ScreenIn) : BitVec 16 :=
  flagIf (i.modulus ≤ i.value) flagWide ||| flagIf i.idClash flagIdClash
    ||| flagIf (i.indicators != 0#8) flagIndicator ||| flagIf i.unsteady flagUnsteady

/-- The flag and delta of a movement from the prior (R120). -/
def movementFlag : Movement → BitVec 16
  | .backstep => flagBackstep
  | .reversal => flagReversed
  | _ => 0#16

/-- The delta: F of a forward movement, else 0 (R120). -/
def movementDelta (M T upto frm : Nat) : Nat :=
  if movement M T upto frm = .forward then forwardBy M upto frm else 0

/-- Stage 3: the elapsed days, brought into 1 to 255, and whether they were clamped (R122). -/
def elapsedDays (dc dp : Nat) : Nat × Bool :=
  let e : Int := (dc : Int) - (dp : Int)
  if e ≤ 0 then (1, true) else if 255 < e then (255, true) else (e.toNat, false)

/-- Stage 4: the allowance (R123). -/
def allowance (C E M : Nat) : Nat := min (C * E) (M - 1)

/-- Stage 4: the rate (R124). -/
def rateOf (delta E : Nat) : Nat := min (delta / E) 65535

/-- Stages 3 and 4 of a reading with a prior and valid time: flags, rate and elapsed days (R122 to R125). -/
def timedStages (rule : Rule) (M dc dp delta : Nat) (mv : Movement) : BitVec 16 × Nat × Nat :=
  let (E, clamped) := elapsedDays dc dp
  let flags := flagIf clamped flagClamped
    ||| flagIf (decide (0 < rule.ceiling ∧ allowance rule.ceiling E M < delta)) flagOverrate
    ||| flagIf (decide (0 < rule.stagnant ∧ mv = .zero ∧ rule.stagnant ≤ E)) flagStagnant
  (flags, rateOf delta E, E)

/-- Stage 5: UNSTEADY when a re-read reverses against the last value (R126). -/
def ScreenIn.secondBase (i : ScreenIn) : BitVec 16 :=
  match i.last with
  | some l => flagIf (movement i.modulus i.rule.tolerance i.reduced l == .reversal) flagUnsteady
  | none => 0#16

/-- The tamper screen, stages 0 to 5 (R115). -/
def screen (i : ScreenIn) : ScreenOut :=
  let V := i.reduced
  let base := i.firstFlags ||| flagIf (!i.timeValid) flagNoTime ||| i.secondBase
  match i.priorFound with
  | none => ⟨base ||| flagNoPrior, V, 0, none, none⟩
  | some (p, dp) =>
    let mv := movement i.modulus i.rule.tolerance V p
    let delta := movementDelta i.modulus i.rule.tolerance V p
    if i.timeValid then
      let (fl, rate, e) := timedStages i.rule i.modulus (dayNumber i.seconds) dp delta mv
      ⟨base ||| movementFlag mv ||| fl, V, delta, some rate, some e⟩
    else ⟨base ||| movementFlag mv, V, delta, none, none⟩

/-! ### Rule commands (R112, R113) -/

/-- A rule entry as a reply gives it: C, T and S. -/
def ruleReply (r : Rule) : List Byte := ruleBytes r

/-- RULE SET (R112): entry, C (2 bytes), T, S. -/
def execRuleSet (tag : Byte) (args : List Byte) (s : State) : Host.Outcome State Fault Refusal :=
  live s <| runCommand 0x60#8 false (args.length == 5) tag args (State.unlessScanning tag 0x60#8 fun s =>
    match indexOf? 16 args 0 with
    | none => s.answer tag 0x60#8 .badArg []
    | some r =>
      let rule : Rule := ⟨numAt args 1 2, natAt args 3, natAt args 4⟩
      ({ s with rules := s.rules.set r rule }).answer tag 0x60#8 .ok (ruleReply rule)) s

/-- RULE READ (R113). -/
def execRuleRead (tag : Byte) (args : List Byte) (s : State) : Host.Outcome State Fault Refusal :=
  live s <| runCommand 0x61#8 false (args.length == 1) tag args (fun s =>
    match indexOf? 16 args 0 with
    | none => s.answer tag 0x61#8 .badArg []
    | some r => s.answer tag 0x61#8 .ok (ruleReply s.rules[r])) s

end Sys2Proof.Machine
end

