-- ==== Sys2Proof/Machine/Merge.lean ====
section
/-! DEFINITION. The merge and commit unit: chapter 5, R89 to R110; the status and segment tables a commit moves
(R51 to R54); the offers it makes to the append queue (R139) and the live queue (R181). -/

namespace Sys2Proof.Machine

/-! ### The order of expiries (R92) -/

/-- One expiry is earlier than another (R92). -/
def earlier (e e' : Word) : Bool := (e' - e).toNat != 0 && (e' - e).toNat < 2147483648

/-- The entry of earliest expiry among those in use that `p` accepts, the lowest-numbered among equals (R92,
R107). -/
def earliestEntry (p : MergeEntry → Bool) (t : Vector (Option MergeEntry) 32) : Option (Fin 32) :=
  (List.finRange 32).foldl (fun best i =>
    match t[i] with
    | some e =>
      if p e then
        match best with
        | none => some i
        | some b =>
          match t[b] with
          | some eb => if earlier e.expiry eb.expiry then some i else best
          | none => some i
      else best
    | none => best) none

/-! ### Segments and completion (R52 to R54) -/

/-- The active count of a segment (section 3.4). -/
def SegmentEntry.active (g : SegmentEntry) : Nat := g.meters - g.excluded

/-- Does a status count as read (section 3.4)? -/
def MeterStatus.counts : MeterStatus → Bool
  | .read | .flagged => true
  | _ => false

/-- The segment's counts after one of its entries changes status (R52). -/
def SegmentEntry.move (g : SegmentEntry) (before after : MeterStatus) : SegmentEntry :=
  { g with
    read := if !before.counts && after.counts then g.read + 1 else g.read,
    flagged := if before != .flagged && after == .flagged then g.flagged + 1 else g.flagged }

/-- A total over the segment table. -/
def RouteManager.total (r : RouteManager) (f : SegmentEntry → Nat) : Nat :=
  r.segments.toList.foldl (fun acc g => acc + f g) 0

/-- Every segment whose active count is not 0 is done (R54). -/
def RouteManager.allDone (r : RouteManager) : Bool :=
  r.segments.toList.all (fun g => g.active == 0 || g.done)

/-- The route becomes done where R54's condition holds, and the ROUTE notice is queued. -/
def State.routeCompletion (s : State) : State :=
  if s.rm.allDone && !s.rm.routeDone then
    ({ s with rm := { s.rm with routeDone := true } }).queueCompletion true
      (.completion true 0 s.rm.meterCount (s.rm.total SegmentEntry.active) (s.rm.total (·.read))
        (s.rm.total (·.flagged)))
  else s

/-- The progress stage of a commit that changed a status (R105): the counts move, and the segment and the
route become done where R53 and R54 say so. -/
def State.moveSegment (seg : Fin 256) (before after : MeterStatus) (s : State) : State :=
  if before = after then s
  else
    let g := s.rm.segments[seg].move before after
    if g.read == g.active && g.active != 0 && !g.done then
      let g' := { g with done := true }
      let t := { s with rm := { s.rm with segments := s.rm.segments.set seg g' } }
      (t.queueCompletion false (.completion false seg.val g.meters g.excluded g.read g.flagged)).routeCompletion
    else { s with rm := { s.rm with segments := s.rm.segments.set seg g } }

/-! ### Offers (R139, R181) -/

/-- The answer to a journal offer (R139): the serial given, or the reason refused as APPEND_BACKLOG's detail
numbers it (0 QUEUE, 1 FULL, 2 FAULT). -/
inductive Offer where
  | accepted (serial : Nat)
  | refused (reason : Nat)
deriving DecidableEq, Repr

/-- The controller's answer to an offer made now (R139). -/
def State.offerAnswer (s : State) : Offer :=
  if queueRoom ≤ s.journal.queue.length then .refused 0
  else if s.journal.state = .full then .refused 1
  else if s.journal.state = .ready ∧ s.storeFailed = false then .accepted s.journal.nextSerial
  else .refused 2

/-- An accepted record joins the append queue with the next serial (R139). -/
def State.queueRecord (r : Reading) (flush : Bool) (s : State) : State :=
  let queued : QueuedRecord := ⟨{ r with serial := s.journal.nextSerial }, flush⟩
  { s with journal := { s.journal with
      nextSerial := s.journal.nextSerial + 1, queue := s.journal.queue ++ [queued] } }

/-- A reading frame lost from the live queue (R181). -/
def State.dropLive (id : Word) (s : State) : State := (s.bump .liveDrop).raise .liveDrop id

/-- Does a reading frame carry an alarm flag? -/
def LiveFrame.alarm (f : LiveFrame) : Bool := alarmBits f.reading.flags

/-- The live queue replaced. -/
def State.setLive (l : List LiveFrame) (s : State) : State := { s with tl := { s.tl with live := l } }

/-- A reading frame is offered to the live queue (R181). -/
def State.offerLive (f : LiveFrame) (s : State) : State :=
  if s.tl.live.length < liveRoom then s.setLive (s.tl.live ++ [f])
  else if f.alarm then
    match s.tl.live.find? (fun g => !g.alarm) with
    | some g => (s.setLive (s.tl.live.erase g ++ [f])).dropLive g.reading.meterId
    | none => s.dropLive f.reading.meterId
  else s.dropLive f.reading.meterId

/-! ### The commit (R97 to R106) -/

/-- The modulus of a source (section 5.1). -/
def Source.modulus : Source → Nat
  | .route _ a => 10 ^ a.digits
  | _ => 10 ^ 9

/-- The status entry of a ROUTE source. -/
def State.statusOf (src : Source) (s : State) : Option StatusEntry :=
  match src with
  | .route i _ => s.rm.status[i]?
  | _ => none

/-- The provisional kind (R98). -/
def State.provisional (src : Source) (s : State) : ReadingKind :=
  match src with
  | .range _ _ => .range
  | .foreign => .foreign
  | .route _ _ =>
    match s.statusOf src with
    | some e => if e.status.counts then .reread else .new
    | none => .new

/-- The rule table entry a commit's screen reads (R99, R111). -/
def State.ruleOfSource (src : Source) (s : State) : Rule :=
  match src with
  | .route _ a => tableAt s.rules a.rule ⟨0, 0, 0⟩
  | .range _ a => tableAt s.rules a.rule ⟨0, 0, 0⟩
  | .foreign => ⟨0, 0, 0⟩

/-- What the commit hands the screen (R99). -/
def State.screenInput (e : MergeEntry) (s : State) : ScreenIn where
  value := e.kept
  modulus := e.source.modulus
  prior := match e.source with | .route _ a => some (a.prior, a.priorDay) | _ => none
  seconds := e.firstSeconds
  timeValid := e.firstValid
  rule := s.ruleOfSource e.source
  expected := match e.source with | .route _ a => some a.family | .range _ a => a.family | .foreign => none
  seen := e.families
  clash := e.idClash
  indicators := e.indicators
  unsteady := e.unsteady
  last := match s.provisional e.source, s.statusOf e.source with
    | .reread, some st => st.lastValue
    | _, _ => none

/-- The reading's flags: the screen's, with NODIR for an entry with the no-directory mark (R99, R114). -/
def commitFlags (e : MergeEntry) (o : ScreenOut) : BitVec 16 := o.flags ||| flagIf e.noDir flagNoDir

/-- The repeat test (R100). -/
def State.isRepeat (e : MergeEntry) (flags : BitVec 16) (s : State) : Bool :=
  match s.provisional e.source, s.statusOf e.source with
  | .reread, some st =>
    match st.lastCommit with
    | some c =>
      decide ((s.tb.runSeconds - c).toNat < s.mc.quiet) && (!alarmBits flags || st.status == .flagged)
    | none => false
  | _, _ => false

/-- The routing class that chooses journal and live: the attributes', or for FOREIGN the policy held now
(R102, R104). -/
def State.classOf (src : Source) (s : State) : RoutingClass :=
  match src with
  | .route _ a => a.cls
  | .range _ a => a.cls
  | .foreign =>
    match s.cl.policy with
    | .drop => .drop
    | .live => .live
    | .store => .store
    | .both => .both

/-- The journal record a commit offers, its serial still 0 (R102). -/
def State.readingOf (e : MergeEntry) (o : ScreenOut) (s : State) : Reading where
  serial := 0
  meterId := e.meterId
  routeIndex := match e.source with | .route i _ => i | _ => none16
  kind := s.provisional e.source
  source := match e.source with | .route _ _ => 0 | .range _ _ => 1 | .foreign => 2
  family := e.firstFamily.val
  value := o.value
  seconds := if e.firstValid then e.firstSeconds else 0#32
  rate := o.rate.getD 0
  flags := commitFlags e o
  count := e.count
  best := e.best
  channels := e.channels
  segment := match e.source with | .route _ a => a.segment.val | _ => 0
  rule := match e.source with | .route _ a => a.rule | .range _ a => a.rule | .foreign => 0
  utility := match e.source with | .route _ a => a.utility | .range _ a => a.utility | .foreign => 0

/-- The status an entry takes (R101, R103). -/
def decidedStatus (before : MeterStatus) (alarm unstored : Bool) : MeterStatus :=
  match before with
  | .unread | .unstored => if unstored then .unstored else if alarm then .flagged else .read
  | .read => if alarm then .flagged else .read
  | .flagged => .flagged
  | .excluded => .excluded

/-- What a commit did, for the counts of a flush (R108). -/
structure CommitInfo where
  repeated : Bool
  offered : Bool
  unstored : Bool
deriving DecidableEq, Repr

/-- The status entry of a ROUTE reading is written (R101). -/
def State.writeStatus (src : Source) (value : Nat) (after : MeterStatus) (s : State) : State :=
  match src, s.statusOf src with
  | .route i _, some st =>
    let entry := { st with status := after, lastValue := some value, lastCommit := some s.tb.runSeconds }
    { s with rm := { s.rm with status := s.rm.status.set i entry } }
  | _, _ => s

/-- Third stage: the journal offer (R102, R103). Answers the state, the serial of the reading frame and
whether the reading is unstored. -/
def State.journalStage (r : Reading) (offers flush : Bool) (s : State) : State × Nat × Bool :=
  if offers then
    match s.offerAnswer with
    | .accepted n => (s.queueRecord r flush, n, false)
    | .refused why => ((s.bump .unstored).raise .appendBacklog (BitVec.ofNat 32 why), 0, true)
  else (s, 0, false)

/-- Stages three to five of a commit that is not a REPEAT (R101 to R106). -/
def State.commitReading (e : MergeEntry) (o : ScreenOut) (flush : Bool) (s : State) : State × CommitInfo :=
  let r := s.readingOf e o
  let alarm := alarmBits r.flags
  let cls := s.classOf e.source
  let offers := alarm || cls == .store || cls == .both
  let before := s.statusOf e.source
  let (t, serial, unstored) := (s.bump .readings).journalStage r offers flush
  let t := match before with
    | some st => t.writeStatus e.source r.value (decidedStatus st.status alarm unstored)
    | none => t
  let t := if alarm || cls == .live || cls == .both || unstored then
      t.offerLive ⟨{ r with serial := serial }, unstored⟩ else t
  let t := match before with
    | some st => t.moveSegment st.segment st.status (decidedStatus st.status alarm unstored)
    | none => t
  (t, ⟨false, offers, unstored⟩)

/-- The merge entry freed. -/
def State.freeEntry (i : Fin 32) (s : State) : State :=
  { s with mc := { s.mc with table := s.mc.table.set i none } }

/-- A commit of entry `i` (R97 to R106); `flush` when a FLUSH MERGE makes it. -/
def State.commit (i : Fin 32) (flush : Bool) (s : State) : State × CommitInfo :=
  match s.mc.table[i] with
  | none => (s, ⟨false, false, false⟩)
  | some e =>
    let t := s.freeEntry i
    let o := screen (t.screenInput e)
    if t.isRepeat e (commitFlags e o) then (t.bump .repeats, ⟨true, false, false⟩)
    else t.commitReading e o flush

/-! ### Receptions (R90 to R94) -/

/-- The entry a first reception makes (R91). -/
def State.newEntry (fr : FrameRecord) (src : Source) (noDir : Bool) (s : State) : MergeEntry where
  meterId := fr.meterId
  source := src
  noDir := noDir
  firstFamily := fr.family
  families := 1#8 <<< fr.family.val
  idClash := false
  kept := fr.value
  unsteady := false
  firstSeconds := fr.seconds
  firstValid := fr.timeValid
  expiry := s.tb.runClock + BitVec.ofNat 32 s.mc.hold
  count := 1
  best := fr.quality
  channels := 1#8 <<< fr.channel.val
  indicators := fr.indicators
  flush := false

/-- A reception merged into its meter's entry (R93, R94). -/
def MergeEntry.merge (e : MergeEntry) (fr : FrameRecord) : MergeEntry :=
  let mv := movement e.source.modulus 0 fr.value e.kept
  { e with
    count := capTo 255 (e.count + 1)
    channels := e.channels ||| (1#8 <<< fr.channel.val)
    families := e.families ||| (1#8 <<< fr.family.val)
    idClash := e.idClash || fr.family != e.firstFamily
    best := min e.best fr.quality
    indicators := e.indicators ||| fr.indicators
    kept := if mv = .reversal then e.kept else fr.value
    unsteady := e.unsteady || mv == .reversal }

/-- The entry in use of a meter (R89). -/
def State.entryOf (id : Word) (s : State) : Option (Fin 32) :=
  tableFind (fun x => match x with | some e => e.meterId == id | none => false) s.mc.table

/-- A merge entry written. -/
def State.setEntry (i : Fin 32) (e : MergeEntry) (s : State) : State :=
  { s with mc := { s.mc with table := s.mc.table.set i (some e) } }

/-- A reception without an entry takes the lowest-numbered free entry (R91). -/
def State.createEntry (fr : FrameRecord) (src : Source) (noDir : Bool) (s : State) : State :=
  match tableFind Option.isNone s.mc.table with
  | some i => s.setEntry i (s.newEntry fr src noDir)
  | none => s

/-- A full table commits its entry of earliest expiry (R92). -/
def State.forceCommit (s : State) : State :=
  match tableFind Option.isNone s.mc.table, earliestEntry (fun _ => true) s.mc.table with
  | none, some i => ((s.commit i false).1).bump .forcedCommits
  | _, _ => s

/-- The merge table takes a reception (R90). -/
def State.receive (fr : FrameRecord) (src : Source) (noDir : Bool) (s : State) : State :=
  let t := s.bump .receptions
  match t.entryOf fr.meterId with
  | some i =>
    match t.mc.table[i] with
    | some e => t.setEntry i (e.merge fr)
    | none => t
  | none => t.forceCommit.createEntry fr src noDir

/-! ### Expiry and flush (R95, R107, R108) -/

/-- The entry is in use and its expiry reached (R95). -/
def State.expiryDue (i : Fin 32) (s : State) : Bool :=
  match s.mc.table[i] with
  | some e => reached s.tb.runClock e.expiry
  | none => false

/-- MERGE_EXPIRY (R95). -/
def execMergeExpiry (i : Fin 32) (s : State) : Host.Outcome State Fault Refusal :=
  live s (if s.expiryDue i then ((s.commit i false).1).pump else s)

/-- FLUSH MERGE (R107): every entry in use is marked. -/
def execFlushMerge (tag : Byte) (args : List Byte) (s : State) : Host.Outcome State Fault Refusal :=
  live s <| runCommand 0x51#8 false (args.length == 0) tag args (fun s =>
    ({ s with mc := { s.mc with table := tableMap (Option.map (fun e => { e with flush := true })) s.mc.table } }).startLong
      tag 0x51#8 (.flush 0 0 0 0 0)) s

/-- The marked entry a flush commits next (R107). -/
def State.flushNext (s : State) : Option (Fin 32) := earliestEntry (·.flush) s.mc.table

/-- FLUSH_MERGE_COMMIT (R107). -/
def execFlushMergeCommit (s : State) : Host.Outcome State Fault Refusal :=
  live s (match s.work, s.flushNext with
    | some (.flush c r o p u), some i =>
      let (t, info) := s.commit i true
      (t.setWork (.flush (c + 1) (r + info.repeated.toNat) (o + info.offered.toNat) p (u + info.unstored.toNat))).pump
    | _, _ => s)

/-- FLUSH_MERGE_DONE (R108): no marked entry remains and no record of the flush is queued. -/
def execFlushMergeDone (s : State) : Host.Outcome State Fault Refusal :=
  live s (match s.work with
    | some (.flush c r o p u) =>
      if s.flushNext.isNone && !s.journal.queue.any (·.flush) then
        s.endLong .ok [byteOf c, byteOf r, byteOf o, byteOf p, byteOf u]
      else s
    | _ => s)

/-- Every entry committed in the order of R107 (R55); `n` bounds the entries. -/
def State.commitAll : Nat → State → State
  | 0, s => s
  | n + 1, s =>
    match earliestEntry (fun _ => true) s.mc.table with
    | some i => State.commitAll n (s.commit i false).1
    | none => s

/-- MERGE SET (R96): H and Q, 2 bytes each. -/
def execMergeSet (tag : Byte) (args : List Byte) (s : State) : Host.Outcome State Fault Refusal :=
  live s <| runCommand 0x50#8 false (args.length == 4) tag args (State.unlessScanning tag 0x50#8 fun s =>
    let h := numAt args 0 2
    let q := numAt args 2 2
    if h < 100 ∨ 10000 < h then s.answer tag 0x50#8 .badArg []
    else ({ s with mc := { s.mc with hold := h, quiet := q } }).answer tag 0x50#8 .ok (beBytes 2 h ++ beBytes 2 q)) s

end Sys2Proof.Machine
end

