-- ==== Sys2Proof/Machine/Lookup.lean ====
section
/-! DEFINITION. The classifier and route lookup: chapter 4, R63 to R88, and the examination of a directory
bucket that every probe makes (R41). -/

namespace Sys2Proof.Machine

/-! ### Ranges, utilities, foreign frames (R66 to R70) -/

/-- A meter ID lies in a range entry (section 4.3). -/
def RangeEntry.holds (r : RangeEntry) (id : Word) : Bool :=
  r.valid && id.toNat / 2 ^ r.k * 2 ^ r.k == r.base.toNat

/-- The attributes a range entry gives (section 4.2). -/
def RangeEntry.attrs (r : RangeEntry) : RangeAttrs := ⟨r.family, r.utility, r.cls, r.rule⟩

/-- The range entry that `p` accepts and the ID lies in. -/
def State.rangeOfId (p : RangeEntry → Bool) (id : Word) (s : State) : Option (Fin 8) :=
  tableFind (fun r => p r && r.holds id) s.cl.ranges

/-- The source a range entry gives, as it stands (R65). -/
def State.rangeSource (n : Fin 8) (s : State) : Source := .range n s.cl.ranges[n].attrs

/-- The status entry at a route index is EXCLUDED. -/
def State.excludedAt (i : Nat) (s : State) : Bool :=
  match s.rm.status[i]? with
  | some e => e.status == .excluded
  | none => false

/-- A frame with this source is withheld (R69). -/
def State.withholds (src : Source) (s : State) : Bool :=
  match src with
  | .route i a => !s.cl.utilities.getLsbD a.utility || s.excludedAt i
  | .range _ a => !s.cl.utilities.getLsbD a.utility
  | .foreign => false

/-- A frame with a ROUTE or RANGE source goes to the merge table unless it is withheld (R69). -/
def State.handOn (fr : FrameRecord) (src : Source) (s : State) : State :=
  if s.withholds src then s.bump .withheld else s.receive fr src false

/-- A foreign frame under the foreign policy (R70). -/
def State.foreignFrame (fr : FrameRecord) (noDir : Bool) (s : State) : State :=
  if s.cl.policy = .drop then s.bump .foreignDrop else s.receive fr .foreign noDir

/-- A frame whose ID the directory does not hold: the FALLBACK range, or foreign (step 3 of R66, R84). -/
def State.fallbackFrame (fr : FrameRecord) (s : State) : State :=
  match s.rangeOfId (·.mode == .fallback) fr.meterId with
  | some n => s.handOn fr (s.rangeSource n)
  | none => s.foreignFrame fr false

/-! ### The route cache (R71, R72) -/

/-- The cache entry of a meter ID. -/
def State.cached (id : Word) (s : State) : Option (Fin 64) :=
  tableFind (fun x => match x with | some e => e.meterId == id | none => false) s.cl.cache

/-- Every valid entry whose age `p` accepts grows older by one. -/
def ageCache (p : Nat → Bool) (c : Vector (Option CacheEntry) 64) : Vector (Option CacheEntry) 64 :=
  tableMap (Option.map (fun e => if p e.age then { e with age := e.age + 1 } else e)) c

/-- A hit on an entry (R72). -/
def State.cacheHit (i : Fin 64) (e : CacheEntry) (s : State) : State :=
  ({ s with cl := { s.cl with
      cache := (ageCache (· < e.age) s.cl.cache).set i (some { e with age := 0 }) } }).bump .cacheHits

/-- The entry an insertion uses: the lowest-numbered invalid one, or the one of age 63 (R72). -/
def State.insertAt (s : State) : Fin 64 :=
  match tableFind Option.isNone s.cl.cache with
  | some i => i
  | none => (tableFind (fun x => match x with | some e => e.age == 63 | none => false) s.cl.cache).getD 0

/-- An insertion for a meter ID (R72). -/
def State.cacheInsert (id : Word) (kind : CacheKind) (s : State) : State :=
  ({ s with cl := { s.cl with
      cache := (ageCache (fun _ => true) s.cl.cache).set s.insertAt (some ⟨kind, id, 0⟩) } }).bump .cacheInserts

/-- The cache with no valid entry. -/
def emptyCache : Vector (Option CacheEntry) 64 := Vector.replicate 64 none

/-! ### Examining a bucket (R41, R80) -/

/-- What an examination of a bucket's slots comes to, if it ends the probe. -/
inductive ProbeEnd where
  | found (r : RouteRecord)
  | absent (slot : Nat)
deriving DecidableEq, Repr

/-- The last `n` of the eight slots of bucket `b`, examined for a meter ID (R41): the end of the probe, if
any, and the number of damaged slots passed. -/
def Memory.examine (m : Memory) (id : Word) (b : Nat) : Nat → Option ProbeEnd × Nat
  | 0 => (none, 0)
  | n + 1 =>
    let slot := 8 - (n + 1)
    match judgeDir (m.bytes (bucketAddr b + slot * slotSize) slotSize) with
    | .erased => (some (.absent slot), 0)
    | .valid r => if r.meterId = id then (some (.found r), 0) else m.examine id b n
    | .damaged => let x := m.examine id b n; (x.1, x.2 + 1)

/-- Damaged slots of one bucket are counted, and raise DIR_CRC where `event` says so (R45, R60,
R80). The detail is the directory bucket `b`, 0 to 4,095, also for a walk, whose own bucket number is 1 to 4 (DESIGN
CHOICE: log 46). -/
def State.countDamaged (b n : Nat) (event : Bool) (s : State) : State :=
  let t := s.bump .dirCrc n
  if event && 0 < n then t.raise .dirCrc (BitVec.ofNat 32 b) else t

/-- Bucket `b` examined for an ID, with its damaged slots counted. -/
def State.examineBucket (id : Word) (b : Nat) (event : Bool) (s : State) : Option ProbeEnd × State :=
  let x := s.store.examine id b 8
  (x.1, s.countDamaged b x.2 event)

/-- The read of a whole bucket. -/
def bucketRead (b : Nat) : StoreOp := .read (bucketAddr b) 256

/-! ### Walks and the hold pool (R78 to R82) -/

/-- The pending walk of a meter ID. -/
def State.walkOf (id : Word) (s : State) : Option (Fin 4) :=
  tableFind (fun x => match x with | some k => k.meterId == id | none => false) s.cl.walks

/-- The lowest-numbered free hold buffer (R81). -/
def State.freeBuffer (s : State) : Option (Fin 16) := tableFind Option.isNone s.cl.pool

/-- A walk entry written. -/
def State.setWalk (w : Fin 4) (k : Option Walk) (s : State) : State :=
  { s with cl := { s.cl with walks := s.cl.walks.set w k } }

/-- A frame parked in a hold buffer. -/
def State.park (b : Fin 16) (fr : FrameRecord) (s : State) : State :=
  { s with cl := { s.cl with pool := s.cl.pool.set b (some fr) } }

/-- A walk is started for a frame (R79). -/
def State.startWalk (w : Fin 4) (b : Fin 16) (fr : FrameRecord) (s : State) : State :=
  let h := homeBucket fr.meterId
  (((s.park b fr).setWalk w (some ⟨fr.meterId, h, 1, none, [b]⟩)).bump .walks).request (.walk w) (bucketRead h)

/-- A frame joins a pending walk, or is dropped (R81). -/
def State.joinWalk (w : Fin 4) (fr : FrameRecord) (s : State) : State :=
  match s.cl.walks[w], s.freeBuffer with
  | some k, some b =>
    if k.waiting.length < 8 then (s.park b fr).setWalk w (some { k with waiting := k.waiting ++ [b] })
    else s.bump .joinDrop
  | _, _ => s.bump .joinDrop

/-- The classifier stalls on a frame (R82). -/
def State.stall (fr : FrameRecord) (s : State) : State :=
  ({ s with cl := { s.cl with stalled := true, held := some fr } }).bump .stalls

/-! ### Deciding a frame (R63 to R67) -/

/-- Steps 4 and 5 of R66: join, start a walk, or stall. -/
def State.seekFrame (fr : FrameRecord) (s : State) : State :=
  match s.walkOf fr.meterId with
  | some w => s.joinWalk w fr
  | none =>
    match tableFind Option.isNone s.cl.walks, s.freeBuffer with
    | some w, some b => s.startWalk w b fr
    | _, _ => s.stall fr

/-- Steps 2 to 5 of R66: the cache, then a walk. -/
def State.lookupFrame (fr : FrameRecord) (s : State) : State :=
  match s.cached fr.meterId with
  | some i =>
    match s.cl.cache[i] with
    | some e =>
      match e.kind with
      | .route n a => (s.cacheHit i e).handOn fr (.route n a)
      | .foreign => (s.cacheHit i e).fallbackFrame fr
    | none => s
  | none => s.seekFrame fr

/-- A frame is decided: by R66 while the route is OPEN, by R67 otherwise. -/
def State.classify (fr : FrameRecord) (s : State) : State :=
  if s.rm.state = .opened then
    match s.rangeOfId (·.mode == .direct) fr.meterId with
    | some n => s.handOn fr (s.rangeSource n)
    | none => s.lookupFrame fr
  else
    match s.rangeOfId (fun _ => true) fr.meterId with
    | some n => s.handOn fr (s.rangeSource n)
    | none => s.foreignFrame fr false

/-- A walk has an outcome and waits to be completed (R64). -/
def State.walkDone (s : State) : Bool :=
  s.cl.walks.toList.any (fun x => match x with | some k => k.outcome.isSome | none => false)

/-- The classifier can decide a frame: not stalled, not RESUMING, and no walk to complete first (R64); so no frame
joins a walk in DONE (DEDUCED: log 36). -/
def State.classifierFree (s : State) : Bool := !s.cl.stalled && s.rm.state != .resuming && !s.walkDone

/-- The first channel after the one served last whose slots hold a record (R63). -/
def State.nextChannel (s : State) : Option (Fin 8) :=
  (eight.map (fun i => s.cl.lastServed + 1 + i)).find? (fun c => !s.channels[c].slots.isEmpty)

/-- The oldest record of a channel is taken, its slot freed, and decided (R63). -/
def State.takeFrom (c : Fin 8) (s : State) : State :=
  match s.channels[c].slots with
  | fr :: rest =>
    let t := { s with channels := s.channels.set c { s.channels[c] with slots := rest },
                      cl := { s.cl with lastServed := c } }
    t.classify fr
  | [] => s

/-- The frame held in an ended stall is decided, or the next frame is taken from the slots (R63, R82). -/
def State.takeFrameRecord (s : State) : State :=
  match s.cl.held with
  | some fr => ({ s with cl := { s.cl with held := none } }).classify fr
  | none =>
    if s.cl.stopped then s
    else
      match s.nextChannel with
      | some c => s.takeFrom c
      | none => s

/-- FRAME_TAKE (R63, R64, R66). -/
def execFrameTake (s : State) : Host.Outcome State Fault Refusal :=
  live s (if s.classifierFree then s.takeFrameRecord.pump else s)

/-! ### Bucket reads and completions (R80, R83 to R85) -/

/-- A bucket read of a walk has ended (R80). -/
def State.bucketDone (w : Fin 4) (s : State) : State :=
  match s.cl.walks[w] with
  | some k =>
    let (r, t) := s.examineBucket k.meterId (probeBucket k.meterId k.bucketNo) true
    match r with
    | some (.found rec) => t.setWalk w (some { k with outcome := some (.found rec) })
    | some (.absent _) => t.setWalk w (some { k with outcome := some .notFound })
    | none =>
      if k.bucketNo < 4 then
        (t.setWalk w (some { k with bucketNo := k.bucketNo + 1 })).request (.walk w)
          (bucketRead (probeBucket k.meterId (k.bucketNo + 1)))
      else t.setWalk w (some { k with outcome := some .notFound })
  | none => s

/-- The walk whose bucket read holds the port. -/
def State.walkReading (s : State) : Option (Fin 4) :=
  match s.inFlight with
  | some (.walk w) => some w
  | _ => none

/-- BUCKET_READ_DONE (R80). -/
def execBucketReadDone (s : State) : Host.Outcome State Fault Refusal :=
  live s (match s.settled.walkReading with
    | some w => (s.settled.endOp.bucketDone w).pump
    | none => s)

/-- The frames that wait on a walk, in parked order. -/
def State.walkFrames (k : Walk) (s : State) : List FrameRecord := k.waiting.filterMap (fun b => s.cl.pool[b])

/-- Hold buffers freed. -/
def freeBuffers (pool : Vector (Option FrameRecord) 16) (bs : List (Fin 16)) : Vector (Option FrameRecord) 16 :=
  bs.foldl (fun p (b : Fin 16) => p.set b none) pool

/-- A completion ends: the walk's buffers and entry are freed, and a stall ends (R82, R83). -/
def State.freeWalk (w : Fin 4) (k : Walk) (s : State) : State :=
  { s with cl := { s.cl with
      pool := freeBuffers s.cl.pool k.waiting, walks := s.cl.walks.set w none,
      stalled := false } }

/-- The pending walk `w` with its outcome, where it has one. -/
def State.ended (w : Fin 4) (s : State) : Option (Walk × WalkOutcome) :=
  match s.cl.walks[w] with
  | some k => k.outcome.map (fun o => (k, o))
  | none => none

/-- WALK_COMPLETE_FOUND (R83). -/
def execWalkCompleteFound (w : Fin 4) (s : State) : Host.Outcome State Fault Refusal :=
  live s (match s.ended w with
    | some (k, .found r) =>
      let t := s.cacheInsert k.meterId (.route r.index r.attrs)
      (((s.walkFrames k).foldl (fun t fr => t.handOn fr (.route r.index r.attrs)) t).freeWalk w k).pump
    | _ => s)

/-- WALK_COMPLETE_NOT_FOUND (R84). -/
def execWalkCompleteNotFound (w : Fin 4) (s : State) : Host.Outcome State Fault Refusal :=
  live s (match s.ended w with
    | some (k, .notFound) =>
      let t := s.cacheInsert k.meterId .foreign
      (((s.walkFrames k).foldl (fun t fr => t.fallbackFrame fr) t).freeWalk w k).pump
    | _ => s)

/-- WALK_COMPLETE_FAILED (R85). -/
def execWalkCompleteFailed (w : Fin 4) (s : State) : Host.Outcome State Fault Refusal :=
  live s (match s.ended w with
    | some (k, .failed) =>
      let t := s.bump .walkFailed
      (((s.walkFrames k).foldl (fun t fr => t.foreignFrame fr true) t).freeWalk w k).pump
    | _ => s)

/-! ### Commands (R68, R73, R74, R76, R77, R87) -/

/-- CACHE FLUSH (R73). -/
def execCacheFlush (tag : Byte) (args : List Byte) (s : State) : Host.Outcome State Fault Refusal :=
  live s <| runCommand 0x40#8 false (args.length == 0) tag args (fun s =>
    let n := s.cl.cache.toList.countP Option.isSome
    ({ s with cl := { s.cl with cache := emptyCache } }).answer tag 0x40#8 .ok [byteOf n]) s

/-- What CACHE PROBE reports of an entry (R74). -/
def cacheBytes (x : Option CacheEntry) : List Byte :=
  match x with
  | none => [boolByte false]
  | some e =>
    match e.kind with
    | .route n a =>
      [boolByte true, 0#8] ++ beBytes 4 e.meterId.toNat ++ [byteOf e.age] ++ beBytes 2 n ++ attrBytes a
    | .foreign => [boolByte true, 1#8] ++ beBytes 4 e.meterId.toNat ++ [byteOf e.age]

/-- CACHE PROBE (R74). -/
def execCacheProbe (tag : Byte) (args : List Byte) (s : State) : Host.Outcome State Fault Refusal :=
  live s <| runCommand 0x41#8 false (args.length == 1) tag args (fun s =>
    match indexOf? 64 args 0 with
    | none => s.answer tag 0x41#8 .badArg []
    | some i => s.answer tag 0x41#8 .ok (cacheBytes s.cl.cache[i])) s

/-- The entry RANGE SET gives, from the arguments after the entry number; `none` when one is outside its
values (R76). -/
def rangeArgs (args : List Byte) : Option RangeEntry :=
  match RangeMode.ofCode? (natAt args 6), RoutingClass.ofCode? (natAt args 8) with
  | some mode, some cls =>
    let base := numAt args 1 4
    let k := natAt args 5
    let fam := natAt args 10
    if 6 ≤ k ∧ k ≤ 16 ∧ base % 2 ^ k = 0 ∧ natAt args 7 ≤ 15 ∧ natAt args 9 ≤ 15 ∧ (fam ≤ 7 ∨ fam = 255) then
      some { valid := true, base := BitVec.ofNat 32 base, k := k, mode := mode, utility := natAt args 7,
             cls := cls, rule := natAt args 9, family := familyOfCode fam }
    else none
  | _, _ => none

/-- Two blocks of IDs share an ID: one of the bases lies in the other's block (R76). -/
def RangeEntry.overlaps (a b : RangeEntry) : Bool := a.holds b.base || b.holds a.base

/-- The new entry overlaps a valid entry other than the one it replaces (R76). -/
def State.rangeClash (n : Fin 8) (r : RangeEntry) (s : State) : Bool :=
  eight.any (fun m => m != n && s.cl.ranges[m].valid && r.overlaps s.cl.ranges[m])

/-- A range entry written. -/
def State.setRange (n : Fin 8) (r : RangeEntry) (s : State) : State :=
  { s with cl := { s.cl with ranges := s.cl.ranges.set n r } }

/-- RANGE SET (R76). -/
def execRangeSet (tag : Byte) (args : List Byte) (s : State) : Host.Outcome State Fault Refusal :=
  live s <| runCommand 0x42#8 false (args.length == 11) tag args (State.unlessScanning tag 0x42#8 fun s =>
    match indexOf? 8 args 0, rangeArgs args with
    | some n, some r =>
      if s.rangeClash n r then s.answer tag 0x42#8 .overlap []
      else (s.setRange n r).answer tag 0x42#8 .ok (rangeBytes r)
    | _, _ => s.answer tag 0x42#8 .badArg []) s

/-- RANGE CLEAR (R77). -/
def execRangeClear (tag : Byte) (args : List Byte) (s : State) : Host.Outcome State Fault Refusal :=
  live s <| runCommand 0x43#8 false (args.length == 1) tag args (State.unlessScanning tag 0x43#8 fun s =>
    match indexOf? 8 args 0 with
    | some n => (s.setRange n .invalid).answer tag 0x43#8 .ok []
    | none => s.answer tag 0x43#8 .badArg []) s

/-- FOREIGN POLICY (R68). -/
def execForeignPolicy (tag : Byte) (args : List Byte) (s : State) : Host.Outcome State Fault Refusal :=
  live s <| runCommand 0x44#8 false (args.length == 1) tag args (State.unlessScanning tag 0x44#8 fun s =>
    match ForeignPolicy.ofCode? (natAt args 0) with
    | some p => ({ s with cl := { s.cl with policy := p } }).answer tag 0x44#8 .ok [byteOf p.code]
    | none => s.answer tag 0x44#8 .badArg []) s

/-- The set of the utility codes of a list, each held once (R87). -/
def utilitySet (codes : List Byte) : BitVec 16 :=
  codes.foldl (fun acc c => acc ||| (1#16 <<< c.toNat)) 0#16

/-- The codes of a set in ascending order (R87). -/
def utilityCodes (u : BitVec 16) : List Byte := ((List.range 16).filter (u.getLsbD ·)).map byteOf

/-- UTILITY SET (R87): a count and the codes; the list is judged before the route state (DESIGN CHOICE: log 39).
The route state stays OPEN during a ROUTE CLOSE until it is CLOSED, and BAD_STATE is what R87 refuses with then, in step
3 of R176; while the close holds the command unit, R177 answers BUSY before that step (DEDUCED: log 41). -/
def execUtilitySet (tag : Byte) (args : List Byte) (s : State) : Host.Outcome State Fault Refusal :=
  live s <| runCommand 0x45#8 false (args.length == natAt args 0 + 1) tag args (State.unlessScanning tag 0x45#8 fun s =>
    let codes := args.drop 1
    if 4 < codes.length ∨ codes.any (fun c => 15 < c.toNat) then s.answer tag 0x45#8 .badArg []
    else if s.rm.state = .opened ∨ s.rm.state = .resuming then s.answer tag 0x45#8 .badState []
    else
      let u := utilitySet codes
      let held := utilityCodes u
      ({ s with cl := { s.cl with utilities := u } }).answer tag 0x45#8 .ok (byteOf held.length :: held)) s

end Sys2Proof.Machine
end

