-- ==== Sys2Proof/Machine/Upload.lean ====
section
/-! DEFINITION. The upload engine: chapter 8, R156 to R169. -/

namespace Sys2Proof.Machine

/-! ### Reads of the stream (R143, R158, R166) -/

/-- The answer to an upload read (R143). -/
inductive UploadAnswer where
  | record (bs : List Byte)
  | tornOrErased
  | hole
  | outside
deriving DecidableEq, Repr

/-- The controller's answer for the slot at the stream pointer (R143). -/
def State.uploadAnswer (s : State) : UploadAnswer :=
  if s.journal.outside s.ue.sector s.ue.slot then .outside
  else if s.isHole s.ue.sector then .hole
  else
    match judgeJournal (s.store.slot s.ue.sector s.ue.slot) with
    | .valid bs => .record bs
    | _ => .tornOrErased

/-- The pointer after the slot it stands at (R158). -/
def State.pointerNext (s : State) : Nat × Nat := s.journal.after s.ue.sector s.ue.slot

/-- A record is eligible: not uploaded and above the last acknowledged serial (R158). -/
def State.eligible (bs : List Byte) (s : State) : Bool := !uploaded bs && s.ue.lastAck < recSerial bs

/-- The eligible record at the pointer is taken into the frame being gathered. -/
def State.gather (bs : List Byte) (s : State) : State :=
  s.setUpload { s.ue with gathered := s.ue.gathered ++ [⟨recSerial bs, s.ue.sector, s.ue.slot, bs⟩] }

/-- The engine acts on an answer (R158). -/
def State.uploadAct (a : UploadAnswer) (s : State) : State :=
  match a with
  | .record bs =>
    if s.eligible bs then ((s.gather bs).movePointer s.pointerNext).closeGathering
    else (s.movePointer s.pointerNext).closeGathering
  | .tornOrErased => (s.movePointer s.pointerNext).closeGathering
  | .hole => (s.movePointer (nextSector s.ue.sector, 1)).closeGathering
  | .outside => (if s.uploadAtEnd then s else s.movePointer (s.journal.tail, 1)).closeGathering

/-- UPLOAD_READ_DONE (R158). A read answered as failed ends at that moment, with the stall of R166
(`State.failUploadRead`), so the row finds none. -/
def execUploadReadDone (s : State) : Host.Outcome State Fault Refusal :=
  let t := s.settled
  live s (
    match t.inFlight with
    | some .upload => (t.endOp.uploadAct t.endOp.uploadAnswer).pump
    | some .uploadGone => t.endOp.pump
    | _ => s)

/-! ### Transmission, acknowledgment, timeout (R160 to R164) -/

/-- The highest serial of a frame. -/
def frameTop (f : List UploadRecord) : Nat := f.foldl (fun m r => max m r.serial) 0

/-- The transmission of an upload frame ends (R160). A frame still owned joins the window, one
wholly acknowledged while it was in transmission too (DESIGN CHOICE: log 44). -/
def State.uploadSent (f : List UploadRecord) (owned : Bool) (s : State) : State :=
  let s := (s.bump .uploadFrames).bump .uploadRecords f.length
  let u := { s.ue with ceiling := max s.ue.ceiling (frameTop f) }
  if owned then
    s.setUpload { u with
      ready := none, window := u.window ++ [f],
      expiry := if u.window = [] then some (s.tb.runClock + BitVec.ofNat 32 uploadTimeout) else u.expiry }
  else s.setUpload u

/-- The timeout expiry is reached while STREAMING with frames in the window (R164). -/
def State.uploadTimeoutDue (s : State) : Bool :=
  s.ue.state == .streaming && s.ue.window != []
    && match s.ue.expiry with
      | some e => reached s.tb.runClock e
      | none => false

/-- A timeout rewind (R164). -/
def State.timeoutRewind (s : State) : State :=
  let t := s.rewindUpload.bump .uploadRewinds
  let t := t.setUpload { t.ue with streak := t.ue.streak + 1 }
  if 3 ≤ t.ue.streak then t.stallUpload 0#32 else t

/-- UPLOAD_TIMEOUT (R164). -/
def execUploadTimeout (s : State) : Host.Outcome State Fault Refusal :=
  live s (if s.uploadTimeoutDue then s.timeoutRewind.pump else s)

/-- A serial as its four bytes (log 11). -/
def serialBytes (n : Nat) : List Byte := beBytes 4 n

/-- The serials the engine and the controller report together (R157, R162, R167). -/
def State.serialReport (s : State) : List Byte :=
  serialBytes s.ue.lastAck ++ serialBytes s.ue.ceiling ++ serialBytes s.journal.markTarget
    ++ serialBytes s.journal.markDone

/-- UPLOAD START accepted (R157). -/
def State.startUpload (s : State) : State :=
  let t := s.stopGathering.giveUpReady
  (t.setUpload { t.ue with
    state := .streaming, sector := t.journal.tail, slot := 1, window := [], expiry := none, streak := 0 }).closeGathering

/-- UPLOAD START (R157). -/
def execUploadStart (tag : Byte) (args : List Byte) (s : State) : Host.Outcome State Fault Refusal :=
  live s <| runCommand 0x80#8 false (args.length == 0) tag args (fun s =>
    if s.ue.state = .streaming ∨ s.journal.state = .scanning then s.answer tag 0x80#8 .badState []
    else if s.journal.state = .fault ∨ s.storeFailed then s.answer tag 0x80#8 .storeFault []
    else
      (s.startUpload.answer tag 0x80#8 .ok
        (beBytes 2 s.journal.tail ++ beBytes 2 s.journal.head ++ beBytes 2 s.journal.headNext ++ s.serialReport)).pump) s

/-- UPLOAD STOP accepted (R167). -/
def State.stopUpload (s : State) : State :=
  let t := s.stopGathering.giveUpReady
  t.setUpload { t.ue with state := .idle, window := [], expiry := none, streak := 0 }

/-- UPLOAD STOP (R167). -/
def execUploadStop (tag : Byte) (args : List Byte) (s : State) : Host.Outcome State Fault Refusal :=
  live s <| runCommand 0x81#8 true (args.length == 0) tag args (fun s =>
    (s.stopUpload.answer tag 0x81#8 .ok s.serialReport).pump) s

/-- An acknowledgment of serial `n` that is neither stale nor above the ceiling (R162, R163, R144). It takes
out every frame not above `n`; where `n` is the last acknowledged serial again, these are the frames that joined the
window wholly acknowledged, and taking them out is progress (DESIGN CHOICE: log 44). -/
def State.acknowledge (n : Nat) (s : State) : State :=
  let left := s.ue.window.filter (fun f => n < frameTop f)
  let expiry :=
    if left.length < s.ue.window.length then
      (if left = [] then none else some (s.tb.runClock + BitVec.ofNat 32 uploadTimeout))
    else s.ue.expiry
  { s with ue := { s.ue with window := left, lastAck := n, streak := 0, expiry := expiry },
           journal := { s.journal with markTarget := max s.journal.markTarget n,
                                         markBlocked := s.journal.markBlocked && decide (n ≤ s.journal.markTarget) } }

/-- What each reply to UPLOAD ACK carries (R162). -/
def State.ackReport (s : State) : List Byte :=
  byteOf s.ue.state.code :: s.serialReport ++ [byteOf s.ue.window.length]

/-- UPLOAD ACK (R162). -/
def execUploadAck (tag : Byte) (args : List Byte) (s : State) : Host.Outcome State Fault Refusal :=
  live s <| runCommand 0x82#8 true (args.length == 4) tag args (fun s =>
    let n := numAt args 0 4
    if n < s.ue.lastAck then (s.bump .ackStale).answer tag 0x82#8 .ok s.ackReport
    else if s.ue.ceiling < n then s.answer tag 0x82#8 .badArg s.ackReport
    else ((s.acknowledge n).answer tag 0x82#8 .ok (s.acknowledge n).ackReport).pump) s

end Sys2Proof.Machine
end

