-- ==== Sys2Proof/Machine/Journal.lean ====
section
/-! DEFINITION. The bulk store controller's rows: the journal's appends, openings, marks and reclaims, timeouts,
CONFIG SAVE and the journal commands (chapter 7, R132, R136, R139 to R154). -/

namespace Sys2Proof.Machine

/-! ### Appends (R140, R142) -/

/-- The journal replaced. -/
def State.setJournal (j : Journal) (s : State) : State := { s with journal := j }

/-- The journal becomes FULL (R142). -/
def State.journalFull (s : State) : State :=
  ((s.setJournal { s.journal with state := .full }).discardQueue).raise .journalFull (BitVec.ofNat 32 s.journal.head)

/-- A flush counts a record of its own that was programmed (R108). -/
def State.countFlushed (q : QueuedRecord) (s : State) : State :=
  match s.work with
  | some (.flush c r o p u) => if q.flush then s.setWork (.flush c r o (p + 1) u) else s
  | _ => s

/-- The program of the oldest queued record has ended (R140): it leaves the queue and is a record of the
journal, an upload that waits resumes (R159), and a head that is full with nothing ahead makes the journal
FULL (R142). -/
def State.appendDone (s : State) : State :=
  match s.journal.queue with
  | q :: rest =>
    let t := s.countFlushed q
    let t := t.setJournal { t.journal with queue := rest, headNext := t.journal.headNext + 1 }
    let t := (t.setUpload { t.ue with waiting := false }).bump .journalAppends
    if 2048 ≤ t.journal.headNext ∧ t.journal.ahead = 0 then t.journalFull else t
  | [] => s

/-- APPEND_PROGRAM_DONE (R140). -/
def execAppendProgramDone (s : State) : Host.Outcome State Fault Refusal :=
  live s (if s.settled.inFlight = some .append then s.settled.endOp.appendDone.pump else s)

/-! ### Openings and reclaims (R141, R146, R148) -/

/-- The header program of an opening has ended (R141): the sector becomes the head, and with G at 2 or less
the reclaim and low conditions are tested. -/
def State.openingDone (s : State) : State :=
  let t := s.sectorOpened
  if t.journal.ahead ≤ 2 then t.testReclaim.testLow else t

/-- The header program of an opening is in flight. -/
def State.openingProgram (s : State) : Bool :=
  match s.port.active with
  | some a => a.client == .opening && a.op.isProgram
  | none => false

/-- JOURNAL_SECTOR_OPENED (R141). -/
def execJournalSectorOpened (s : State) : Host.Outcome State Fault Refusal :=
  live s (if s.settled.openingProgram then s.settled.endOp.openingDone.pump else s)

/-- A reclaim erase has ended (R146). -/
def State.reclaimDone (s : State) : State :=
  let j := s.journal
  let t := s.setJournal { j with
    tail := nextSector j.tail, ahead := j.ahead + 1, state := if j.state = .full then .ready else j.state }
  (t.bump .reclaims).testReclaim

/-- RECLAIM_ERASE_DONE (R146). -/
def execReclaimEraseDone (s : State) : Host.Outcome State Fault Refusal :=
  live s (if s.settled.inFlight = some .reclaim then s.settled.endOp.reclaimDone.pump else s)

/-! ### The mark walk (R145) -/

/-- The mark cursor moves on, past holes, and the reclaim condition is tested (R145, R146). -/
def State.moveCursor (s : State) : State :=
  let p := s.skipHoles journalSectors (s.journal.after s.journal.cursorSector s.journal.cursorSlot)
  (s.setJournal { s.journal with cursorSector := p.1, cursorSlot := p.2 }).testReclaim

/-- Mark done takes a serial, and the cursor moves on (R145). -/
def State.markTo (serial : Nat) (s : State) : State :=
  (s.setJournal { s.journal with markDone := serial }).moveCursor

/-- The slot at the mark cursor. -/
def State.cursorSlotBytes (s : State) : List Byte :=
  s.store.slot s.journal.cursorSector s.journal.cursorSlot

/-- The store address of the mark of the record at the cursor (section 9.8, byte 29). -/
def State.markAddr (s : State) : Nat := slotAddr s.journal.cursorSector s.journal.cursorSlot + 29

/-- The mark walk acts by what it finds at the cursor (R145). -/
def State.markFound (s : State) : State :=
  match judgeJournal s.cursorSlotBytes with
  | .valid bs =>
    if s.journal.markTarget < recSerial bs then s.setJournal { s.journal with markBlocked := true }
    else if uploaded bs then s.markTo (recSerial bs)
    else (s.setJournal { s.journal with marking := some (recSerial bs) }).request .mark (.program s.markAddr [0#8])
  | _ => s.moveCursor

/-- MARK_SLOT_READ_DONE (R145). -/
def execMarkSlotReadDone (s : State) : Host.Outcome State Fault Refusal :=
  live s (if s.settled.markInFlight false then s.settled.endOp.markFound.pump else s)

/-- The record whose mark was programmed is marked (R145). -/
def State.marked (s : State) : State :=
  (s.setJournal { s.journal with marking := none }).markTo (s.journal.marking.getD s.journal.markDone)

/-- MARK_PROGRAM_DONE (R145). -/
def execMarkProgramDone (s : State) : Host.Outcome State Fault Refusal :=
  live s (if s.settled.markInFlight true then
      (s.settled.endOp.bump .markPrograms).marked.pump
    else s)

/-! ### Timeouts (R132) -/

/-- A program or an erase in flight has used up its time (R132). -/
def State.overtime (erase : Bool) (limit : Nat) (s : State) : Bool :=
  match s.port.active with
  | some a => (if erase then a.op.isErase else a.op.isProgram) && limit ≤ a.elapsed s.tb.runClock
  | none => false

/-- PROGRAM_TIMEOUT (R132). -/
def execProgramTimeout (s : State) : Host.Outcome State Fault Refusal :=
  live s (if s.overtime false programLimit then (s.failStore 0#32).pump else s)

/-- ERASE_TIMEOUT (R132). -/
def execEraseTimeout (s : State) : Host.Outcome State Fault Refusal :=
  live s (if s.overtime true eraseLimit then (s.failStore 1#32).pump else s)

/-! ### The end of long-operation traffic -/

/-- The long operation's traffic was answered failed (R132, R133). -/
def State.longFailed (s : State) : Bool := decide (Client.longOp ∈ s.port.failed)

/-- Long-operation traffic of the long operation holds the port. -/
def State.longInFlight (s : State) : Bool := s.inFlight == some .longOp

/-- The failed answer is taken, and the long operation ends with a reply. -/
def State.failLong (results : List Byte) (s : State) : State :=
  (s.takeFailed .longOp).endLong .storeFault results

/-! ### CONFIG SAVE (R136) -/

/-- CONFIG SAVE (R136): the image takes the settings as they stand, and sector 0 is erased first. -/
def execConfigSave (tag : Byte) (args : List Byte) (s : State) : Host.Outcome State Fault Refusal :=
  live s <| runCommand 0x70#8 false (args.length == 0) tag args (State.unlessScanning tag 0x70#8 fun s =>
    ((s.startLong tag 0x70#8 (.save (imageBytes s.settings) 0)).request .longOp (.erase 0)).pump) s

/-- CONFIG_SAVE_DONE (R136). -/
def execConfigSaveDone (s : State) : Host.Outcome State Fault Refusal :=
  let t := s.settled
  live s (match t.work with
    | some (.save image page) =>
      if t.longFailed then (t.failLong []).pump
      else if t.longInFlight && page == 1 then
        (t.endOp.endLong .ok (beBytes 2 imageLength ++ slice image 375 4)).pump
      else s
    | _ => s)

/-! ### JOURNAL STATUS (R153) -/

/-- The number of holes of the span (R138). -/
def State.holes (s : State) : Nat := s.journal.span.countP s.isHole

/-- The discarded records' lowest and highest serial, or none (R153). -/
def Journal.discardedBytes (j : Journal) : List Byte :=
  optBytes 4 (j.discardedRange.map (·.1)) ++ optBytes 4 (j.discardedRange.map (·.2))

/-- What JOURNAL STATUS reports (R153, log 12). -/
def State.journalReport (s : State) : List Byte :=
  let j := s.journal
  [byteOf j.state.code, boolByte s.storeFailed] ++ beBytes 2 j.tail ++ beBytes 2 j.head ++ beBytes 2 j.headNext
    ++ beBytes 2 j.ahead ++ beBytes 2 s.holes ++ serialBytes j.nextSerial ++ serialBytes j.markDone
    ++ serialBytes j.markTarget ++ beBytes 2 j.cursorSector ++ beBytes 2 j.cursorSlot ++ [byteOf j.queue.length]
    ++ [boolByte (s.port.outstanding .reclaim), boolByte s.port.suspended.isSome]
    ++ beBytes 4 j.torn ++ beBytes 4 j.uncertain ++ beBytes 4 j.discarded ++ j.discardedBytes

/-- JOURNAL STATUS (R153). -/
def execJournalStatus (tag : Byte) (args : List Byte) (s : State) : Host.Outcome State Fault Refusal :=
  live s <| runCommand 0x71#8 false (args.length == 0) tag args (fun s =>
    s.answer tag 0x71#8 .ok s.journalReport) s

/-! ### JOURNAL ERASE (R154) -/

/-- The requests that JOURNAL ERASE withdraws from the port: appends, openings, marks, reclaims, and the upload
reads that a link break left there (R154). -/
def Client.heldByErase : Client → Bool
  | .append | .opening | .mark | .reclaim | .uploadGone => true
  | _ => false

/-- JOURNAL ERASE accepted (R154): the holds are set, and the work begins, by `State.beginErase`, when nothing of the
journal is in flight. -/
def State.startErase (tag : Byte) (s : State) : State :=
  let t := s.stopGathering
  let t := { t with port := { t.port with waiting := t.port.waiting.filter (fun r => !r.client.heldByErase) } }
  t.startLong tag 0x72#8 .eraseWait

/-- JOURNAL ERASE (R154). -/
def execJournalErase (tag : Byte) (args : List Byte) (s : State) : Host.Outcome State Fault Refusal :=
  live s <| runCommand 0x72#8 false (args.length == 0) tag args (fun s =>
    if s.rm.state = .opened ∨ s.rm.state = .resuming then s.answer tag 0x72#8 .badState []
    else if s.storeFailed ∨ s.journal.state = .fault then s.answer tag 0x72#8 .storeFault []
    else if !s.allUploaded then s.answer tag 0x72#8 .notUploaded []
    else (s.startErase tag).pump) s

/-- The former head is erased: the opened sector is tail and head (R154). -/
def State.eraseFinished (s : State) : State :=
  let j := s.journal
  (s.setJournal { j with
    state := .ready, tail := j.head, ahead := 493, cursorSector := j.head, cursorSlot := 1,
    markBlocked := false }).setUpload { s.ue with waiting := false }

/-- A JOURNAL ERASE is at its work. -/
def Work.erases : Work → Bool
  | .eraseWait | .eraseSpan _ | .eraseOpen _ | .eraseOld _ _ => true
  | _ => false

/-- JOURNAL_ERASE_DONE (R154). -/
def execJournalEraseDone (s : State) : Host.Outcome State Fault Refusal :=
  let t := s.settled
  live s (match t.work with
    | some w =>
      if w.erases && t.longFailed then (t.failLong []).pump
      else
        match w with
        | .eraseOld n _ =>
          if t.longInFlight then
            let u := t.endOp.eraseFinished
            (u.endLong .ok (beBytes 2 u.journal.head ++ serialBytes u.journal.nextSerial ++ beBytes 2 (n + 1))).pump
          else s
        | _ => s
    | none => s)

end Sys2Proof.Machine
end

