-- ==== Sys2Proof/Machine/Route.lean ====
section
/-! DEFINITION. The route manager: chapter 3, R42 to R62. -/

namespace Sys2Proof.Machine

/-- The route manager replaced. -/
def State.setRoute (r : RouteManager) (s : State) : State := { s with rm := r }

/-- The route state changed. -/
def State.routeTo (st : RouteState) (s : State) : State := s.setRoute { s.rm with state := st }

/-- Tables discarded (R44, R51). -/
def RouteManager.dropTables (r : RouteManager) : RouteManager :=
  { r with built := false, status := [], segments := Vector.replicate 256 .empty, routeDone := false }

/-! ### Building the tables (R49) -/

/-- The status entry a route record makes (R49): EXCLUDED when its utility is not in the active set. -/
def statusOfRecord (utilities : BitVec 16) (r : RouteRecord) : StatusEntry :=
  ⟨r.meterId, r.attrs.segment, if utilities.getLsbD r.attrs.utility then .unread else .excluded, none, none⟩

/-- The status table of `n` entries that the records make (R49). -/
def statusTable (utilities : BitVec 16) (n : Nat) (rs : List RouteRecord) : List StatusEntry :=
  rs.foldl (fun l r => l.set r.index (statusOfRecord utilities r))
    (List.replicate n ⟨0#32, 0, .unread, none, none⟩)

/-- The segment table counted from the status table; done is set where the read count equals an active count
that is not 0 (R49, R59). -/
def segmentTable (status : List StatusEntry) : Vector SegmentEntry 256 :=
  Vector.ofFn (fun seg =>
    let mine := status.filter (fun e => e.segment == seg)
    let g : SegmentEntry :=
      ⟨mine.length, mine.countP (·.status == .excluded), mine.countP (·.status.counts),
        mine.countP (·.status == .flagged), false⟩
    { g with done := g.read == g.active && g.active != 0 })

/-- Both tables built from the records of the directory, not yet marked built (R49). -/
def State.buildTables (s : State) : State :=
  let st := statusTable s.cl.utilities s.rm.meterCount s.store.routeRecords
  s.setRoute { s.rm with status := st, segments := segmentTable st, routeDone := false, built := false }

/-- The directory as the reads found it is whole: no damaged slot, and the route indices 0 to meter count − 1
once each (R47, R49). -/
def State.directoryWhole (s : State) : Bool :=
  s.store.damagedBuckets.isEmpty && indicesComplete s.store.routeRecords s.rm.meterCount

/-- The active meters of the route. -/
def RouteManager.activeMeters (r : RouteManager) : Nat := r.total SegmentEntry.active

/-! ### ROUTE CLEAR (R44) -/

/-- ROUTE CLEAR (R44). -/
def execRouteClear (tag : Byte) (args : List Byte) (s : State) : Host.Outcome State Fault Refusal :=
  live s <| runCommand 0x30#8 false (args.length == 0) tag args (fun s =>
    if s.rm.state = .opened ∨ s.rm.state = .resuming then s.answer tag 0x30#8 .badState []
    else
      let rm := { s.rm.dropTables with meterCount := 0, digest := 0#32, firstSerial := 0, openDay := none16 }
      (((s.setRoute rm).startLong tag 0x30#8 (.clear 17)).request .longOp (clearErase 17)).pump) s

/-- ROUTE_CLEAR_DONE (R44). -/
def execRouteClearDone (s : State) : Host.Outcome State Fault Refusal :=
  let t := s.settled
  live s (match t.work with
    | some (.clear left) =>
      if t.longFailed then ((t.failLong []).routeTo .empty).pump
      else if t.longInFlight && left == 1 then ((t.endOp.endLong .ok []).routeTo .loading).pump
      else s
    | _ => s)

/-! ### ROUTE LOAD (R45, R46) -/

/-- The records of a ROUTE LOAD body, 32 bytes each. -/
def loadRecords (args : List Byte) : List (List Byte) :=
  (List.range (natAt args 0)).map (fun i => slice args (1 + slotSize * i) slotSize)

/-- The field checks of a record (R45, check 1). -/
def recordFieldsOk (bs : List Byte) : Bool :=
  natAt bs 4 ≤ 7 && natAt bs 5 ≤ 15 && natAt bs 7 ≤ 3 && natAt bs 8 ≤ 15 && 4 ≤ natAt bs 9 && natAt bs 9 ≤ 9
    && numAt bs 10 4 < 10 ^ natAt bs 9

/-- The end of a load with a code, and the position of the failing record where R45 gives one. -/
def State.endLoad (rc : ReplyCode) (written : Nat) (position : Option Nat) (s : State) : State :=
  s.endLong rc (byteOf written :: beBytes 2 s.rm.meterCount ++ position.toList.map byteOf)

/-- The load takes its next record (R45, checks 1 and 2), or ends. -/
def State.loadNext (rest : List (List Byte)) (written position : Nat) (s : State) : State :=
  match rest with
  | [] => s.endLoad .ok written none
  | r :: _ =>
    if !recordFieldsOk r then s.endLoad .badArg written (some position)
    else if maxMeters ≤ s.rm.meterCount then s.endLoad .dirFull written (some position)
    else
      (s.setWork (.load rest written position 1)).request .longOp
        (bucketRead (probeBucket (BitVec.ofNat 32 (numAt r 0 4)) 1))

/-- A probe read of the load has ended (R45, check 3). -/
def State.loadProbed (rest : List (List Byte)) (written position bucketNo : Nat) (s : State) : State :=
  let r := routeRecordOf (rest.headD [])
  let b := probeBucket r.meterId bucketNo
  let (e, t) := s.examineBucket r.meterId b false
  match e with
  | some (.found _) => t.endLoad .duplicate written (some position)
  | some (.absent slot) =>
    t.request .longOp
      (.program (bucketAddr b + slot * slotSize) (routeRecordBytes { r with index := t.rm.meterCount }))
  | none =>
    if bucketNo < 4 then
      (t.setWork (.load rest written position (bucketNo + 1))).request .longOp
        (bucketRead (probeBucket r.meterId (bucketNo + 1)))
    else t.endLoad .dirFull written (some position)

/-- ROUTE LOAD (R45): a record count and the records. One whose first record fails check 1 or 2 is a long operation
that ends at once (DESIGN CHOICE: log 38). -/
def execRouteLoad (tag : Byte) (args : List Byte) (s : State) : Host.Outcome State Fault Refusal :=
  live s <| runCommand 0x31#8 false
    (args.length == 1 + slotSize * natAt args 0 && 1 ≤ natAt args 0 && natAt args 0 ≤ 30) tag args (fun s =>
    if s.rm.state = .loading then
      ((s.startLong tag 0x31#8 (.load (loadRecords args) 0 1 1)).loadNext (loadRecords args) 0 1).pump
    else s.answer tag 0x31#8 .badState []) s

/-- The operation in flight is a program. -/
def State.programInFlight (s : State) : Bool :=
  match s.port.active with
  | some a => a.op.isProgram
  | none => false

/-- ROUTE_LOAD_STORE_OP_DONE (R45, R46). -/
def execRouteLoadStoreOpDone (s : State) : Host.Outcome State Fault Refusal :=
  let t := s.settled
  live s (match t.work with
    | some (.load rest written position bucketNo) =>
      if t.longFailed then (t.failLong (byteOf written :: beBytes 2 t.rm.meterCount)).pump
      else if t.longInFlight then
        (if t.programInFlight then
          (t.endOp.setRoute { t.rm with meterCount := t.rm.meterCount + 1 }).loadNext rest.tail (written + 1) (position + 1)
        else t.endOp.loadProbed rest written position bucketNo).pump
      else s
    | _ => s)

/-! ### ROUTE FINISH and ROUTE DIGEST (R47, R48) -/

/-- ROUTE FINISH (R47). -/
def execRouteFinish (tag : Byte) (args : List Byte) (s : State) : Host.Outcome State Fault Refusal :=
  live s <| runCommand 0x32#8 false (args.length == 0) tag args (fun s =>
    if s.rm.state = .loading then ((s.startLong tag 0x32#8 (.finishRead 16)).request .longOp (dirRead 16)).pump
    else s.answer tag 0x32#8 .badState []) s

/-- The number of segments that hold at least one record (R47). -/
def segmentsUsed (rs : List RouteRecord) : Nat :=
  (List.finRange 256).countP (fun seg => rs.any (fun r => r.attrs.segment == seg))

/-- The counts a finish read finds: valid records, damaged slots, and the valid records of each segment (R47,
log 13). -/
def Memory.finishCounts (m : Memory) : List Byte :=
  beBytes 2 m.routeRecords.length ++ beBytes 2 m.damagedBuckets.length
    ++ (List.range 256).flatMap (fun seg => beBytes 2 (m.routeRecords.countP (fun r => r.attrs.segment.val == seg)))

/-- The finish read has ended (R47): refused with the counts found, or the READY header is written. -/
def State.finishRead (s : State) : State :=
  if s.rm.meterCount = 0 ∨ s.directoryWhole = false then s.endLong .badState s.store.finishCounts
  else
    let t := s.setRoute { s.rm with digest := s.store.digest }
    let w := Work.finishHeader (segmentsUsed s.store.routeRecords)
    (t.setWork w).request .longOp (t.headerOp (t.workHeader w))

/-- ROUTE_FINISH_READ_DONE (R47). -/
def execRouteFinishReadDone (s : State) : Host.Outcome State Fault Refusal :=
  let t := s.settled
  live s (match t.work with
    | some (.finishRead left) =>
      if t.longFailed then (t.failLong []).pump
      else if t.longInFlight && left == 1 then t.endOp.finishRead.pump
      else s
    | _ => s)

/-- ROUTE DIGEST (R48). -/
def execRouteDigest (tag : Byte) (args : List Byte) (s : State) : Host.Outcome State Fault Refusal :=
  live s <| runCommand 0x33#8 false (args.length == 0) tag args (fun s =>
    if s.rm.state = .ready ∨ s.rm.state = .opened ∨ s.rm.state = .closed then
      ((s.startLong tag 0x33#8 (.digest 16)).request .longOp (dirRead 16)).pump
    else s.answer tag 0x33#8 .badState []) s

/-- ROUTE_DIGEST_DONE (R48). -/
def execRouteDigestDone (s : State) : Host.Outcome State Fault Refusal :=
  let t := s.settled
  live s (match t.work with
    | some (.digest left) =>
      if t.longFailed then (t.failLong (beBytes 4 t.rm.digest.toNat)).pump
      else if t.longInFlight && left == 1 then
        (t.endOp.endLong .ok (beBytes 4 t.store.digest.toNat ++ beBytes 4 t.rm.digest.toNat)).pump
      else s
    | _ => s)

/-! ### ROUTE OPEN (R49, R50) -/

/-- ROUTE OPEN (R49). -/
def execRouteOpen (tag : Byte) (args : List Byte) (s : State) : Host.Outcome State Fault Refusal :=
  live s <| runCommand 0x34#8 false (args.length == 0) tag args (fun s =>
    if s.rm.state = .ready ∨ s.rm.state = .closed then
      ((s.startLong tag 0x34#8 (.openRead 16)).request .longOp (dirRead 16)).pump
    else s.answer tag 0x34#8 .badState []) s

/-- The status table is marked not built. -/
def State.unbuild (s : State) : State := s.setRoute { s.rm with built := false }

/-- The open day a header carries (R50). -/
def TimeBase.openDay (t : TimeBase) : Nat := if t.timeValid then dayNumber t.todSeconds else none16

/-- The sector whose read closes a read of the whole directory. -/
def lastDirSector : Nat := leftSector dirSector dirSectors 1

/-- The open read has ended (R49): the open is refused with the damaged count, or the tables are built and the
OPEN header is written (R50). -/
def State.openDirRead (s : State) : State :=
  let t := s.reportDamaged lastDirSector
  if t.directoryWhole then
    let u := t.buildTables
    let w := Work.openHeader u.journal.nextSerial u.tb.openDay
    (u.setWork w).request .longOp (u.headerOp (u.workHeader w))
  else t.unbuild.endLong .badState (beBytes 2 t.store.damagedBuckets.length)

/-- ROUTE_OPEN_READ_DONE (R49). -/
def execRouteOpenReadDone (s : State) : Host.Outcome State Fault Refusal :=
  let t := s.settled
  live s (match t.work with
    | some (.openRead left) =>
      if t.longFailed then (t.failLong []).unbuild.pump
      else if t.longInFlight && left == 1 then t.endOp.openDirRead.pump
      else s
    | _ => s)

/-! ### Header writes (R42, R47, R50, R55, R57) -/

/-- A header program of the work `w` has ended: READY, OPEN or CLOSED is entered; `none` where the work writes
no header. A close enters CLOSED here, by step 4 of R55, before the cache is emptied (DESIGN CHOICE: log 43). -/
def State.headerWritten (w : Work) (s : State) : Option State :=
  let r := s.rm
  match w with
  | .finishHeader segments =>
    some ((s.setRoute { r with state := .ready, firstSerial := 0, openDay := none16 }).endLong .ok
      (beBytes 2 r.meterCount ++ beBytes 4 r.digest.toNat ++ beBytes 2 segments))
  | .openHeader serial day =>
    some ((s.setRoute { r with state := .opened, built := true, firstSerial := serial, openDay := day }).endLong .ok
      (serialBytes serial ++ beBytes 2 day ++ beBytes 2 r.meterCount ++ beBytes 2 r.activeMeters))
  | .closeHeader => some ((s.routeTo .closed).setWork (.closeEnd true))
  | _ => none

/-- A header write of the work `w` was answered failed (R47, R50, R56). -/
def State.headerFailed (w : Work) (s : State) : Option State :=
  match w with
  | .finishHeader _ => some ((s.failLong []).setRoute { s.rm with digest := 0#32 })
  | .openHeader _ _ => some (s.failLong []).unbuild
  | .closeHeader => some ((s.takeFailed .longOp).setWork (.closeEnd false))
  | _ => none

/-- The start-up path is over, in a route state. -/
def State.startupOver (st : RouteState) (s : State) : State := { s.routeTo st with startup := .over }

/-- A resume that cannot go on ends CLOSED without a built table (R57). -/
def State.resumeClosed (s : State) : State := (s.setRoute s.rm.dropTables).startupOver .closed

/-- The start-up path's traffic was answered failed. -/
def State.startFailed (s : State) : Bool := decide (Client.startup ∈ s.port.failed)

/-- Traffic of the start-up path holds the port. -/
def State.startInFlight (s : State) : Bool := s.inFlight == some .startup

/-- The header write of a resume that cannot go on has ended (R57); `none` where no such write is due. A store that
fails during it leaves the route CLOSED too (DESIGN CHOICE: log 37). -/
def State.resumeHeader (s : State) : Option State :=
  if s.startup = .resumeClose then
    if s.startFailed then some (s.takeFailed .startup).resumeClosed
    else if s.startInFlight && s.programInFlight then some s.endOp.resumeClosed
    else none
  else none

/-- The header write of a route command has ended; `none` where no such write is due. -/
def State.commandHeader (s : State) : Option State :=
  match s.work with
  | some w =>
    if s.longFailed then s.headerFailed w
    else if s.longInFlight && s.programInFlight then s.endOp.headerWritten w
    else none
  | none => none

/-- ROUTE_HEADER_WRITE_DONE (R42, R47, R50, R55, R57). -/
def execRouteHeaderWriteDone (s : State) : Host.Outcome State Fault Refusal :=
  live s (match s.settled.resumeHeader with
    | some t => t.pump
    | none =>
      match s.settled.commandHeader with
      | some t => t.pump
      | none => s)

/-! ### ROUTE CLOSE (R55, R56) -/

/-- ROUTE CLOSE (R55): the classifier stops taking frames. -/
def execRouteClose (tag : Byte) (args : List Byte) (s : State) : Host.Outcome State Fault Refusal :=
  live s <| runCommand 0x35#8 false (args.length == 0) tag args (fun s =>
    if s.rm.state = .opened then
      ({ s with cl := { s.cl with stopped := true } }).startLong tag 0x35#8 .closeWalks
    else s.answer tag 0x35#8 .badState []) s

/-- No walk is pending and no frame is held (R55, R82). -/
def State.walksEnded (s : State) : Bool := s.cl.walks.toList.all Option.isNone && s.cl.held.isNone

/-- ROUTE_CLOSE_WALKS_ENDED (R55): every merge entry is committed and the CLOSED header is written. -/
def execRouteCloseWalksEnded (s : State) : Host.Outcome State Fault Refusal :=
  live s (if s.work = some .closeWalks ∧ s.walksEnded = true then
      let t := (State.commitAll 32 s).setWork .closeHeader
      (t.request .longOp (t.headerOp (t.workHeader .closeHeader))).pump
    else s)

/-- Steps 4 to 6 of the close, the header written or not (R55); a store that is FAILED by now answers STORE_FAULT
(R56). -/
def State.finishClose (stored : Bool) (s : State) : State :=
  let r := s.rm
  let t := s.setRoute { r with state := .closed }
  let t := { t with cl := { t.cl with cache := emptyCache, stopped := false } }
  t.endLong (if stored && !s.storeFailed then .ok else .storeFault)
    (beBytes 2 r.meterCount ++ beBytes 2 r.activeMeters ++ beBytes 2 (r.total (·.read)) ++ beBytes 2 (r.total (·.flagged)))

/-- ROUTE_CLOSE_DONE (R55, R56). -/
def execRouteCloseDone (s : State) : Host.Outcome State Fault Refusal :=
  let t := s.settled
  live s (match t.work with
    | some (.closeEnd stored) => (t.finishClose stored).pump
    | some .closeHeader =>
      if t.longFailed then ((t.takeFailed .longOp).finishClose false).pump
      else if t.longInFlight && t.programInFlight then (t.endOp.finishClose true).pump
      else s
    | _ => s)

/-! ### Queries (R60 to R62) -/

/-- The progress tables can be read: OPEN, or CLOSED with the status table built (section 3.2). -/
def State.progressReadable (s : State) : Bool := s.rm.state == .opened || (s.rm.state == .closed && s.rm.built)

/-- ROUTE QUERY (R60): a meter ID. -/
def execRouteQuery (tag : Byte) (args : List Byte) (s : State) : Host.Outcome State Fault Refusal :=
  live s <| runCommand 0x36#8 false (args.length == 4) tag args (fun s =>
    let id := BitVec.ofNat 32 (numAt args 0 4)
    if s.progressReadable then
      ((s.startLong tag 0x36#8 (.query id 1)).request .query (bucketRead (probeBucket id 1))).pump
    else s.answer tag 0x36#8 .badState []) s

/-- What ROUTE QUERY reports of a status entry (R60). -/
def statusBytes (e : StatusEntry) : List Byte :=
  byteOf e.status.code :: optBytes 4 e.lastValue ++ optBytes 4 (e.lastCommit.map (·.toNat))

/-- What ROUTE QUERY reports of a record found (R60). -/
def State.queryReport (r : RouteRecord) (s : State) : List Byte :=
  beBytes 2 r.index ++ attrBytes r.attrs
    ++ match s.rm.status[r.index]? with
      | some e => statusBytes e
      | none => statusBytes ⟨r.meterId, r.attrs.segment, .unread, none, none⟩

/-- A bucket read of a query has ended (R60). -/
def State.queryRead (id : Word) (n : Nat) (s : State) : State :=
  let (e, t) := s.examineBucket id (probeBucket id n) true
  match e with
  | some (.found r) => t.endLong .ok (t.queryReport r)
  | some (.absent _) => t.endLong .unknown []
  | none =>
    if n < 4 then (t.setWork (.query id (n + 1))).request .query (bucketRead (probeBucket id (n + 1)))
    else t.endLong .unknown []

/-- ROUTE_QUERY_READ_DONE (R60). -/
def execRouteQueryReadDone (s : State) : Host.Outcome State Fault Refusal :=
  let t := s.settled
  live s (match t.work with
    | some (.query id n) =>
      if Client.query ∈ t.port.failed then ((t.takeFailed .query).endLong .storeFault []).pump
      else if t.inFlight = some .query then (t.endOp.queryRead id n).pump
      else s
    | _ => s)

/-- SEGMENT READ (R61). -/
def execSegmentRead (tag : Byte) (args : List Byte) (s : State) : Host.Outcome State Fault Refusal :=
  live s <| runCommand 0x37#8 false (args.length == 1) tag args (fun s =>
    if s.progressReadable then
      let g := tableAt s.rm.segments (natAt args 0) .empty
      s.answer tag 0x37#8 .ok
        (beBytes 2 g.meters ++ beBytes 2 g.excluded ++ beBytes 2 g.read ++ beBytes 2 g.flagged
          ++ [boolByte g.done, byteOf s.rm.state.code] ++ beBytes 2 s.rm.meterCount ++ serialBytes s.rm.firstSerial
          ++ beBytes 2 s.rm.openDay ++ [boolByte s.rm.routeDone])
    else s.answer tag 0x37#8 .badState []) s

/-- The entries of a segment from an index on that have still to be read, with their indices (R62). -/
def RouteManager.unread (r : RouteManager) (segment start : Nat) : List (StatusEntry × Nat) :=
  (r.status.take r.meterCount).zipIdx.filter (fun p =>
    start ≤ p.2 && p.1.segment.val == segment && (p.1.status == .unread || p.1.status == .unstored))

/-- The list, with its one count byte, and the continuation (R62, R188; DEDUCED: log 12). -/
def RouteManager.unreadReport (r : RouteManager) (segment start : Nat) : List Byte :=
  let hits := r.unread segment start
  let list := hits.take 100
  let next :=
    match hits[99]? with
    | some p => if p.2 + 1 < r.meterCount then some (p.2 + 1) else none
    | none => none
  byteOf list.length :: list.flatMap (fun p => beBytes 4 p.1.meterId.toNat ++ beBytes 2 p.2) ++ optBytes 2 next

/-- UNREAD LIST (R62): segment, start index (2 bytes). -/
def execUnreadList (tag : Byte) (args : List Byte) (s : State) : Host.Outcome State Fault Refusal :=
  live s <| runCommand 0x38#8 false (args.length == 3) tag args (fun s =>
    if 16383 < numAt args 1 2 then s.answer tag 0x38#8 .badArg []
    else if s.progressReadable then
      s.answer tag 0x38#8 .ok (s.rm.unreadReport (natAt args 0) (numAt args 1 2))
    else s.answer tag 0x38#8 .badState []) s

/-! ### Start-up and resume (R43, R57 to R59) -/

/-- The values of a header taken (R43). -/
def RouteManager.takeHeader (r : RouteManager) (h : RouteHeader) : RouteManager :=
  { r with meterCount := h.meterCount, digest := h.digest, firstSerial := h.firstSerial, openDay := h.openDay }

/-- No header was found, or it could not be read (R43). -/
def State.routeEmpty (s : State) : State :=
  (s.setRoute { s.rm with meterCount := 0, digest := 0#32, firstSerial := 0, openDay := none16 }).startupOver .empty

/-- Sector 1 has been read (R43). -/
def State.headerRead (s : State) : State :=
  match s.store.latestHeader with
  | none => s.routeEmpty
  | some h =>
    let t := s.setRoute (s.rm.takeHeader h)
    if h.state = .opened then { t with startup := .rebuild 16 }.request .startup (dirRead 16)
    else t.startupOver h.state

/-- ROUTE_HEADER_READ_DONE (R43). -/
def execRouteHeaderReadDone (s : State) : Host.Outcome State Fault Refusal :=
  let t := s.settled
  live s (if t.startup = .headerRead then
      if t.startFailed then (t.takeFailed .startup).routeEmpty.pump
      else if t.startInFlight then t.endOp.headerRead.pump
      else s
    else s)

/-- The directory read of a resume has ended (R57). -/
def State.rebuilt (s : State) : State :=
  let t := s.reportDamaged lastDirSector
  if t.directoryWhole then t.buildTables.replayNext t.journal.tail 1 0 0
  else { t with startup := .resumeClose }.request .startup (t.headerOp (t.rm.header .closed))

/-- RESUME_REBUILD_DONE (R57). -/
def execResumeRebuildDone (s : State) : Host.Outcome State Fault Refusal :=
  let t := s.settled
  live s (match t.startup with
    | .rebuild left =>
      if t.startFailed then (t.takeFailed .startup).resumeClosed.pump
      else if t.startInFlight && left == 1 then t.endOp.rebuilt.pump
      else s
    | _ => s)

/-- The resume ends with the route OPEN (R59). -/
def State.resumed (replayed skipped : Nat) (s : State) : State :=
  let r := { s.rm with segments := segmentTable s.rm.status, built := true }
  let done := r.allDone && r.segments.toList.any (·.done)
  (((s.setRoute { r with routeDone := done }).startupOver .opened).raise .routeResumed
    (BitVec.ofNat 32 (replayed - skipped)))

/-- JOURNAL_REPLAY_DONE (R57, R59): the replay stands at the head next slot, or a read of it was
answered failed. A store that fails when the last read has ended no longer closes the route (DESIGN CHOICE: log 45). -/
def execJournalReplayDone (s : State) : Host.Outcome State Fault Refusal :=
  let t := s.settled
  live s (match t.startup with
    | .replay _ _ replayed skipped =>
      if t.startFailed then (t.takeFailed .startup).resumeClosed.pump
      else if t.port.outstanding .startup then s
      else (t.resumed replayed skipped).pump
    | _ => s)

end Sys2Proof.Machine
end

