-- ==== Sys2Proof/Machine/Resets.lean ====
section
/-! DEFINITION. The resets, loss of power, and the start-up path up to the journal scan: R133, R135, R149 to R152,
R186, R187, and each chapter's reset values. -/

namespace Sys2Proof.Machine

/-! ### Resets and power -/

/-- The operations the port has begun and not ended. -/
def StorePort.begun (p : StorePort) : List StoreOp :=
  (p.active.toList ++ p.suspended.toList).map (·.op) ++ p.finishing

/-- The programs and erases begun: those the store carries on with after a reset (R133). -/
def StorePort.unfinished (p : StorePort) : List StoreOp := p.begun.filter (fun op => op.isErase || op.isProgram)

/-- Every block at its reset value (R1, R13, R27 to R39, R43, R63, R78, R110, R111, R149, R156, R187). What no
reset touches is kept: the queue, the store's contents, the level of each RXC line. -/
def State.afresh (s : State) : State :=
  { State.reset with
    pending := s.pending, freeIndex := s.freeIndex, store := s.store,
    ports := tableMap (fun x => { Port.reset with carrier := x.carrier }) s.ports }

/-- A loss of power cuts short what the store is doing; the bytes touched are in no defined state (R132, log 8). An
operation whose request still waits has not touched the store, the first erase of a CONFIG SAVE or a ROUTE CLEAR
included (DESIGN CHOICE: log 48). -/
def State.cutPower (s : State) : State :=
  { s.cutOps true s.port.begun with powered := false, port := .idle }

/-- LOSS_OF_POWER (R147). -/
def execLossOfPower (s : State) : Host.Outcome State Fault Refusal := live s s.cutPower

/-- POWER_ON_RESET (R187): what was still in flight is cut short, and every block takes its reset value. -/
def execPowerOnReset (s : State) : Host.Outcome State Fault Refusal := .next s.cutPower.afresh

/-- The journal at its reset value, but for the counts of the last scan, which are kept until the next one
(R152). -/
def Journal.rescan (j : Journal) : Journal := { Journal.reset with torn := j.torn, uncertain := j.uncertain }

/-- The line reset (R187, R133): a program or erase in flight goes on in the store; one that still waits is dropped
with its request, the erase of sector 0 of a CONFIG SAVE included (DESIGN CHOICE: log 48). -/
def State.lineReset (s : State) : State :=
  { s.afresh with journal := s.journal.rescan, port := { StorePort.idle with finishing := s.port.unfinished } }

/-- LINE_RESET (R187). -/
def execLineReset (s : State) : Host.Outcome State Fault Refusal := live s s.lineReset

/-- The command reset (R186, R133): the link keeps its rate, and a FAILED store stays FAILED and is not waited
for. -/
def State.commandReset (s : State) : State :=
  let t := { s.lineReset with tl := { Trunk.reset with rate := s.tl.rate } }
  if s.storeFailed then
    { t with storeFailed := true, startup := .configLoad }.request .startup (.read 0 sectorSize)
  else t

/-- The reply to an accepted RESET is in transmission (R186). -/
def State.resetReplySending (s : State) : Bool :=
  match s.tl.tx with
  | some t => t.kind == .reply true
  | none => false

/-- COMMAND_RESET (R186): the end of the transmission of the RESET reply (log 4). -/
def execCommandReset (s : State) : Host.Outcome State Fault Refusal :=
  live s (if s.resetReplySending then s.commandReset else s)

/-! ### The store ready wait (R133) -/

/-- The image load begins (R135). -/
def State.beginLoad (s : State) : State :=
  { s with startup := .configLoad }.request .startup (.read 0 sectorSize)

/-- STORE_READY (R133): the store has finished what it carried on with. -/
def execStoreReady (s : State) : Host.Outcome State Fault Refusal :=
  live s (if s.startup = .readyWait then
      ({ s with store := s.port.finishing.foldl (fun m (op : StoreOp) => op.apply m) s.store,
                port := { s.port with finishing := [] } }).beginLoad.pump
    else s)

/-- The ready wait has lasted its limit; the run clock counts from the reset (R133, R27). -/
def State.readyOverdue (s : State) : Bool := s.startup == .readyWait && eraseLimit ≤ s.tb.runClock.toNat

/-- STORE_READY_TIMEOUT (R133): the store becomes FAILED. -/
def execStoreReadyTimeout (s : State) : Host.Outcome State Fault Refusal :=
  live s (if s.readyOverdue then
      let t := (s.raise .storeFault 2#32).cutOps false s.port.finishing
      ({ t with storeFailed := true, port := { t.port with finishing := [] } }).beginLoad.pump
    else s)

/-! ### The configuration image (R135) -/

/-- Entry `n` of a list of settings. -/
def settingAt {α : Type} (l : List α) (n : Fin 8) (d : α) : α := l.getD n.val d

/-- A port handed its settings (R1). -/
def Port.take (x : Port) (set : PortSettings) : Port :=
  ({ x with settings := set, heldHalf := none } : Port).startChecker

/-- A channel handed its settings. -/
def Channel.take (c : Channel) (set : ChannelSettings) : Channel :=
  { c with source := set.source, mask := set.mask, threshold := set.threshold }

/-- Every block is handed its settings (R135). -/
def State.handOver (t : Settings) (s : State) : State :=
  { s with
    ports := Vector.ofFn (fun n => (s.ports[n]).take (settingAt t.ports n .default)),
    channels := Vector.ofFn (fun n => (s.channels[n]).take (settingAt t.channels n ⟨some n, 0#8, 16⟩)),
    families := Vector.ofFn (fun n => settingAt t.families n .invalid),
    tb := s.tb.setMode t.pulse t.window,
    rules := Vector.ofFn (fun n => t.rules.getD n.val ⟨0, 0, 0⟩),
    cl := { s.cl with ranges := Vector.ofFn (fun n => settingAt t.ranges n .invalid), policy := t.policy,
                      utilities := t.utilities },
    mc := { s.mc with hold := t.hold, quiet := t.quiet },
    tl := { s.tl with mask := t.mask } }

/-- Every framer placed by R14 at the handover (R135). -/
def State.placeFramers (s : State) : State := eight.foldl (fun t c => t.placeFramer c) s

/-- Sector 0 has been read (R135): a good image is handed over, or CONFIG_DEFAULTED rises. -/
def State.imageRead (s : State) : State :=
  let bs := s.store.bytes 0 imageLength
  if goodImage bs then (s.handOver (settingsOf bs)).placeFramers
  else s.raise .configDefaulted (if s.store.blank 0 sectorSize then 0#32 else 1#32)

/-- The scan begins (R150): the journal's sectors are read (log 7). -/
def State.beginScan (s : State) : State :=
  { s with startup := .scan }.request .startup
    (.read (journalFirst * sectorSize) (journalSectors * sectorSize))

/-- CONFIG_LOAD_DONE (R135). -/
def execConfigLoadDone (s : State) : Host.Outcome State Fault Refusal :=
  let t := s.settled
  live s (if t.startup = .configLoad then
      if t.startFailed then ((t.takeFailed .startup).raise .configDefaulted 2#32).beginScan.pump
      else if t.startInFlight then t.endOp.imageRead.beginScan.pump
      else s
    else s)

/-! ### The journal scan (R150 to R152) -/

/-- The header of lowest sequence, or of highest. -/
def bestHeader (lowest : Bool) : List (Nat × Nat × Nat) → Option (Nat × Nat × Nat)
  | [] => none
  | h :: hs =>
    match bestHeader lowest hs with
    | none => some h
    | some g => if (if lowest then g.2.1 < h.2.1 else h.2.1 < g.2.1) then some g else some h

/-- The record slots of a sector that are not erased, ascending (R151). -/
def Memory.usedSlots (m : Memory) (sec : Nat) : List Nat :=
  (m.occupied (sec * sectorSize) sectorSlots).filter (fun i => 1 ≤ i)

/-- Tail and head as the headers give them, with every other pointer still unset (R150). -/
def Journal.placed (j : Journal) (tail head : Nat) : Journal :=
  { j with tail := tail, head := head, ahead := 494 - (ringOffset tail head + 1) }

/-- The slots of the journal that are not erased, tail first, with their judgement (R151). -/
def State.journalSlots (s : State) : List (Nat × Nat × JournalSlot) :=
  (s.journal.span.filter (fun sec => !s.isHole sec)).flatMap (fun sec =>
    (s.store.usedSlots sec).map (fun i => (sec, i, judgeJournal (s.store.slot sec i))))

/-- The records of the journal: sector, slot and bytes. -/
def validRecords (l : List (Nat × Nat × JournalSlot)) : List (Nat × Nat × List Byte) :=
  l.filterMap (fun p => match p.2.2 with | .valid bs => some (p.1, p.2.1, bs) | _ => none)

/-- The record of lowest serial among those not uploaded (R152). -/
def firstUnmarked : List (Nat × Nat × List Byte) → Option (Nat × Nat × List Byte)
  | [] => none
  | r :: rs =>
    match firstUnmarked rs with
    | none => if uploaded r.2.2 then none else some r
    | some q => if uploaded r.2.2 ∨ recSerial q.2.2 < recSerial r.2.2 then some q else some r

/-- The next serial the scan finds (R151). -/
def scanNext (records : List (Nat × Nat × List Byte)) (headFirst : Nat) : Nat :=
  records.foldl (fun m r => max m (recSerial r.2.2 + 1)) headFirst

/-- Pointers, counts, marks and state as the scan sets them (R151, R152). -/
def State.scanJournal (tail head headFirst : Nat) (s : State) : State :=
  let t := s.setJournal (s.journal.placed tail head)
  let slots := t.journalSlots
  let records := validRecords slots
  let headNext := ((s.store.usedSlots head).getLast?.map (· + 1)).getD 1
  let next := scanNext records headFirst
  let (done, cur) :=
    match firstUnmarked records with
    | some r => (recSerial r.2.2 - 1, (r.1, r.2.1))
    | none => (next - 1, (head, headNext))
  t.setJournal { t.journal with
    state := if headNext = 2048 ∧ t.journal.ahead = 0 then .full else .ready
    headNext := headNext, nextSerial := next, markTarget := done, markDone := done, marking := none,
    cursorSector := cur.1, cursorSlot := cur.2, torn := slots.length - records.length,
    uncertain := records.countP (fun r => uncertainMark r.2.2) }

/-- The upload engine takes its values from the scan (R156). -/
def State.scanUpload (s : State) : State :=
  s.setUpload { s.ue with
    sector := s.journal.tail, slot := 1, lastAck := s.journal.markDone, ceiling := s.journal.markDone }

/-- The tests and the event that close a scan (R152, R142); JOURNAL_LOW comes before JOURNAL_FULL (DESIGN CHOICE:
log 40). -/
def State.scanTests (s : State) : State :=
  let t := s.testReclaim.testLow
  if t.journal.state = .full then t.raise .journalFull (BitVec.ofNat 32 t.journal.head) else t

/-- The scan's reads have ended (R150 to R152). -/
def State.scanned (s : State) : State :=
  match bestHeader true s.store.validHeaders, bestHeader false s.store.validHeaders with
  | some t, some h => (s.scanJournal t.1 h.1 h.2.2).scanUpload.scanTests
  | _, _ => s

/-- The route manager reads sector 1 (R149, R43). -/
def State.beginHeaderRead (s : State) : State :=
  { s with startup := .headerRead }.request .startup (.read (headerSector * sectorSize) sectorSize)

/-- The scan of a failed store: FAULT, and the pointers of R149; the last acknowledged serial and the sent ceiling
are 0 (R156). -/
def State.scanFault (s : State) : State :=
  (s.setJournal { s.journal.rescan with state := .fault }).setUpload { s.ue with lastAck := 0, ceiling := 0 }

/-- JOURNAL_SCAN_DONE (R149, R152). -/
def execJournalScanDone (s : State) : Host.Outcome State Fault Refusal :=
  let t := s.settled
  live s (if t.startup = .scan then
      if t.startFailed then (t.takeFailed .startup).scanFault.beginHeaderRead.pump
      else if t.startInFlight then t.endOp.scanned.beginHeaderRead.pump
      else s
    else s)

end Sys2Proof.Machine
end

