-- ==== Sys2Proof/Machine/Link.lean ====
section
/-! DEFINITION. The trunk link and command unit: chapter 9, R171 to R187. -/

namespace Sys2Proof.Machine

/-- The trunk link replaced. -/
def State.setTrunk (t : Trunk) (s : State) : State := { s with tl := t }

/-! ### The line (R171 to R173) -/

/-- LINK_TUNED (R171): a low run gives a rate in range while the link is UNTUNED. -/
def execLinkTuned (rate : Nat) (s : State) : Host.Outcome State Fault Refusal :=
  live s (if s.tl.rate.isNone && 9600 ≤ rate && rate ≤ 2000000 then
      (s.setTrunk { s.tl with rate := some rate, rx := none }).pump
    else s)

/-- A frame abandoned by a break is dealt with by its kind (R179); an upload frame is the rewind's affair. -/
def State.abandon (k : TxKind) (s : State) : State :=
  match k with
  | .reply _ => s.bump .replyLost
  | .notice => (s.setTrunk { s.tl with overrun := true }).bump .noticeDrop
  | .reading id => s.dropLive id
  | .upload _ _ => s

/-- The frame in transmission, if any, is abandoned. -/
def State.abandonTx (s : State) : State :=
  match s.tl.tx with
  | some x => (s.setTrunk { s.tl with tx := none }).abandon x.kind
  | none => s

/-- A break on a tuned link (R172, R168, R186). -/
def State.break (s : State) : State :=
  let t := (s.bump .linkBreaks).breakUpload.abandonTx
  let t := t.setTrunk { t.tl with rate := none, rx := none }
  if s.resetReplySending then t.commandReset else t

/-- LINK_BREAK (R172). -/
def execLinkBreak (s : State) : Host.Outcome State Fault Refusal :=
  live s (if s.tl.rate.isSome then s.break.pump else s)

/-- LINK_FRAMING_ERROR (R173). -/
def execLinkFramingError (s : State) : Host.Outcome State Fault Refusal :=
  live s (if s.tl.rate.isSome then (s.setTrunk { s.tl with rx := none }).bump .linkFraming else s)

/-! ### Frame assembly and the inbound buffer (R174, R175) -/

/-- A complete command frame reaches the inbound buffer (R175). -/
def State.bufferFrame (f : CmdFrame) (s : State) : State :=
  if s.tl.inbound.length < inboundRoom then s.setTrunk { s.tl with inbound := s.tl.inbound ++ [f] }
  else s.bump .cmdOverrun

/-- Is the frame whose bytes after A5H are these complete: its last CRC byte taken (R174)? -/
def frameComplete (bs : List Byte) : Bool := 2 ≤ bs.length && bs.length == numAt bs 0 2 + 6

/-- The body length of the partial frame is out of range, at its second byte (R174). -/
def badLength (bs : List Byte) : Bool := bs.length == 2 && (numAt bs 0 2 == 0 || maxBody < numAt bs 0 2)

/-- The CRC of a complete frame agrees (R174). -/
def frameCrcOk (bs : List Byte) : Bool :=
  slice bs (numAt bs 0 2 + 4) 2 == crcBytes (crcK1 (bs.take (numAt bs 0 2 + 4)))

/-- A complete frame is judged (R174): a command frame with a CRC that agrees goes to the buffer, every other is
discarded and counted. -/
def State.endFrame (bs : List Byte) (s : State) : State :=
  if frameCrcOk bs && bs.getD 2 0#8 == 0x01#8 then s.bufferFrame ⟨bs.getD 3 0#8, slice bs 4 (numAt bs 0 2)⟩
  else s.bump .linkDiscard

/-- An accepted character reaches frame assembly (R174). -/
def State.takeByte (b : Byte) (s : State) : State :=
  match s.tl.rx with
  | none => if b = 0xA5#8 then s.setTrunk { s.tl with rx := some [] } else s
  | some bs =>
    let bs := bs ++ [b]
    if badLength bs then (s.setTrunk { s.tl with rx := none }).bump .linkDiscard
    else if frameComplete bs then (s.setTrunk { s.tl with rx := none }).endFrame bs
    else s.setTrunk { s.tl with rx := some bs }

/-- CHARACTER_ACCEPTED (R174). -/
def execCharacterAccepted (b : Byte) (s : State) : Host.Outcome State Fault Refusal :=
  live s (if s.tl.rate.isSome then s.takeByte b else s)

/-- The byte is the last CRC byte of the partial frame (R174). -/
def State.frameDue (b : Byte) (s : State) : Bool :=
  s.tl.rate.isSome && match s.tl.rx with
    | some bs => !badLength (bs ++ [b]) && frameComplete (bs ++ [b])
    | none => false

/-- LINK_FRAME_RECEIVED (R174): the character that completes a frame (log 4). -/
def execLinkFrameReceived (b : Byte) (s : State) : Host.Outcome State Fault Refusal :=
  live s (if s.frameDue b then s.takeByte b else s)

/-! ### The command unit (R176, R177) -/

/-- UNKNOWN_COMMAND (R176): a code that names no command, answered whether or not the unit is held. -/
def execUnknownCommand (tag code : Byte) (args : List Byte) (s : State) : Host.Outcome State Fault Refusal :=
  live s (if s.canTake ⟨tag, code :: args⟩ && !commandCodes.contains code then
      s.takeFrame.answer tag code .unknownCommand []
    else s)

/-- LONG_OP_REPLY (R177): the reply of an ended long operation enters the empty reply path. -/
def execLongOpReply (s : State) : Host.Outcome State Fault Refusal :=
  live s (match s.tl.longOp, s.tl.reply with
    | some ⟨_, tag, _, some body⟩, none =>
      s.setTrunk { s.tl with reply := some ⟨tag, body, false⟩, longOp := none }
    | _, _ => s)

/-! ### The outbound scheduler (R179) -/

/-- The frame the scheduler begins, with what it leaves behind: the first of the reply, the oldest notice, the
oldest reading frame and the ready upload frame (R179, R180). -/
def State.nextFrame (s : State) : Option (Transmission × Trunk) :=
  let t := s.tl
  match t.reply with
  | some r => some (⟨.reply r.isReset, frameBytes 0x02#8 r.tag r.body⟩, { t with reply := none })
  | none =>
    match t.notices with
    | n :: rest =>
      some (⟨.notice, frameBytes 0x03#8 t.noticeSeq (noticeBody t.overrun n)⟩,
        { t with notices := rest, overrun := false, noticeSeq := t.noticeSeq + 1 })
    | [] =>
      match t.live with
      | f :: rest =>
        some (⟨.reading f.reading.meterId, frameBytes 0x04#8 t.readingSeq (readingBody f)⟩,
          { t with live := rest, readingSeq := t.readingSeq + 1 })
      | [] =>
        s.ue.ready.map (fun rs =>
          (⟨.upload rs true, frameBytes 0x05#8 t.uploadSeq (uploadBody rs)⟩, { t with uploadSeq := t.uploadSeq + 1 }))

/-- TRANSMIT_BEGIN (R179). -/
def execTransmitBegin (s : State) : Host.Outcome State Fault Refusal :=
  live s (if s.tl.rate.isSome && s.tl.tx.isNone then
      match s.nextFrame with
      | some (x, t) => s.setTrunk { t with tx := some x }
      | none => s
    else s)

/-- The end of a transmission, by kind (R179, R160, R186). -/
def State.endTx (k : TxKind) (s : State) : State :=
  match k with
  | .reply true => s.commandReset
  | .upload f owned => (s.uploadSent f owned).pump
  | _ => s

/-- TRANSMIT_END (R179). -/
def execTransmitEnd (s : State) : Host.Outcome State Fault Refusal :=
  live s (match s.tl.tx with
    | some x => (s.setTrunk { s.tl with tx := none }).endTx x.kind
    | none => s)

/-! ### Status, counters, events, reset (R183 to R186) -/

/-- What STATUS reports (R185; DEDUCED: log 12, the one byte of the revision among it; log 15). -/
def State.statusReport (s : State) : List Byte :=
  beBytes 2 partCode ++ [byteOf revision, byteOf s.rm.state.code] ++ beBytes 2 s.rm.meterCount
    ++ [byteOf s.journal.state.code, boolByte s.storeFailed, byteOf s.ue.state.code] ++ optBytes 4 s.tl.rate
    ++ [boolByte s.tb.timeValid, byteOf (pulseStatusCode s.tb.present)]
    ++ beBytes 2 s.tl.flags.toNat ++ beBytes 2 s.tl.mask.toNat
    ++ [byteOf s.tl.inbound.length, byteOf s.tl.notices.length, byteOf s.tl.live.length]
    ++ match s.tl.longOp with
      | some l => [boolByte true, l.code]
      | none => [boolByte false]

/-- STATUS (R185). -/
def execStatus (tag : Byte) (args : List Byte) (s : State) : Host.Outcome State Fault Refusal :=
  live s <| runCommand 0x90#8 true (args.length == 0) tag args (fun s =>
    s.answer tag 0x90#8 .ok s.statusReport) s

/-- COUNTERS READ (R184). -/
def execCountersRead (tag : Byte) (args : List Byte) (s : State) : Host.Outcome State Fault Refusal :=
  live s <| runCommand 0x91#8 true (args.length == 0) tag args (fun s =>
    s.answer tag 0x91#8 .ok (s.counters.toList.flatMap (beBytes 4))) s

/-- COUNTERS CLEAR (R184). -/
def execCountersClear (tag : Byte) (args : List Byte) (s : State) : Host.Outcome State Fault Refusal :=
  live s <| runCommand 0x92#8 false (args.length == 0) tag args (fun s =>
    ({ s with counters := Vector.replicate 88 0 }).answer tag 0x92#8 .ok []) s

/-- A 16-bit mask argument. -/
def maskArg (args : List Byte) : BitVec 16 := BitVec.ofNat 16 (numAt args 0 2)

/-- EVENTS CLEAR (R183). -/
def execEventsClear (tag : Byte) (args : List Byte) (s : State) : Host.Outcome State Fault Refusal :=
  live s <| runCommand 0x93#8 true (args.length == 2) tag args (fun s =>
    let flags := s.tl.flags &&& ~~~ maskArg args
    (s.setTrunk { s.tl with flags := flags }).answer tag 0x93#8 .ok (beBytes 2 flags.toNat)) s

/-- EVENT MASK (R183). -/
def execEventMask (tag : Byte) (args : List Byte) (s : State) : Host.Outcome State Fault Refusal :=
  live s <| runCommand 0x94#8 false (args.length == 2) tag args (State.unlessScanning tag 0x94#8 fun s =>
    (s.setTrunk { s.tl with mask := maskArg args }).answer tag 0x94#8 .ok (beBytes 2 (maskArg args).toNat)) s

/-- RESET accepted (R186): its reply enters the reply path, and no further frame is taken. -/
def State.acceptReset (tag : Byte) (s : State) : State :=
  s.setTrunk { s.tl with reply := some ⟨tag, [0x95#8, ReplyCode.ok.code], true⟩, resetArmed := true }

/-- RESET (R186). -/
def execReset (tag : Byte) (args : List Byte) (s : State) : Host.Outcome State Fault Refusal :=
  live s <| runCommand 0x95#8 false (args.length == 0) tag args (State.acceptReset tag) s

end Sys2Proof.Machine
end

