-- ==== Sys2Proof/Machine/Dispatch.lean ====
section
/-! DEFINITION. The effect of each command on everything but the queue, one arm per constructor. -/

namespace Sys2Proof.Machine

def exec (i : Instr) (s : State) : Host.Outcome State Fault Refusal :=
  match i with
  | .powerOnReset => Sys2Proof.Machine.execPowerOnReset s
  | .lineReset => Sys2Proof.Machine.execLineReset s
  | .commandReset => Sys2Proof.Machine.execCommandReset s
  | .storeReady => Sys2Proof.Machine.execStoreReady s
  | .storeReadyTimeout => Sys2Proof.Machine.execStoreReadyTimeout s
  | .configLoadDone => Sys2Proof.Machine.execConfigLoadDone s
  | .journalScanDone => Sys2Proof.Machine.execJournalScanDone s
  | .routeHeaderReadDone => Sys2Proof.Machine.execRouteHeaderReadDone s
  | .resumeRebuildDone => Sys2Proof.Machine.execResumeRebuildDone s
  | .journalReplayDone => Sys2Proof.Machine.execJournalReplayDone s
  | .rxcInactive p => Sys2Proof.Machine.execRxcInactive p s
  | .rxcActive p => Sys2Proof.Machine.execRxcActive p s
  | .pn9Locked p level => Sys2Proof.Machine.execPn9Locked p level s
  | .pn9Lost p level => Sys2Proof.Machine.execPn9Lost p level s
  | .syncMatch c smp => Sys2Proof.Machine.execSyncMatch c smp s
  | .badcodeAbort c smp => Sys2Proof.Machine.execBadcodeAbort c smp s
  | .frameBodyComplete c smp => Sys2Proof.Machine.execFrameBodyComplete c smp s
  | .noisy c cause => Sys2Proof.Machine.execNoisy c cause s
  | .noiseWindowEnd => Sys2Proof.Machine.execNoiseWindowEnd s
  | .tpiEdge => Sys2Proof.Machine.execTpiEdge s
  | .pulseLost => Sys2Proof.Machine.execPulseLost s
  | .frameTake => Sys2Proof.Machine.execFrameTake s
  | .bucketReadDone => Sys2Proof.Machine.execBucketReadDone s
  | .walkCompleteFound w => Sys2Proof.Machine.execWalkCompleteFound w s
  | .walkCompleteNotFound w => Sys2Proof.Machine.execWalkCompleteNotFound w s
  | .walkCompleteFailed w => Sys2Proof.Machine.execWalkCompleteFailed w s
  | .mergeExpiry e => Sys2Proof.Machine.execMergeExpiry e s
  | .flushMergeCommit => Sys2Proof.Machine.execFlushMergeCommit s
  | .flushMergeDone => Sys2Proof.Machine.execFlushMergeDone s
  | .appendProgramDone => Sys2Proof.Machine.execAppendProgramDone s
  | .journalSectorOpened => Sys2Proof.Machine.execJournalSectorOpened s
  | .reclaimEraseDone => Sys2Proof.Machine.execReclaimEraseDone s
  | .markSlotReadDone => Sys2Proof.Machine.execMarkSlotReadDone s
  | .markProgramDone => Sys2Proof.Machine.execMarkProgramDone s
  | .programTimeout => Sys2Proof.Machine.execProgramTimeout s
  | .eraseTimeout => Sys2Proof.Machine.execEraseTimeout s
  | .uploadReadDone => Sys2Proof.Machine.execUploadReadDone s
  | .uploadTimeout => Sys2Proof.Machine.execUploadTimeout s
  | .linkTuned rate => Sys2Proof.Machine.execLinkTuned rate s
  | .linkBreak => Sys2Proof.Machine.execLinkBreak s
  | .linkFramingError => Sys2Proof.Machine.execLinkFramingError s
  | .linkFrameReceived b => Sys2Proof.Machine.execLinkFrameReceived b s
  | .unknownCommand tag code args => Sys2Proof.Machine.execUnknownCommand tag code args s
  | .longOpReply => Sys2Proof.Machine.execLongOpReply s
  | .transmitBegin => Sys2Proof.Machine.execTransmitBegin s
  | .transmitEnd => Sys2Proof.Machine.execTransmitEnd s
  | .portSet tag args => Sys2Proof.Machine.execPortSet tag args s
  | .mapSet tag args => Sys2Proof.Machine.execMapSet tag args s
  | .familySet tag args => Sys2Proof.Machine.execFamilySet tag args s
  | .channelSet tag args => Sys2Proof.Machine.execChannelSet tag args s
  | .checkRead tag args => Sys2Proof.Machine.execCheckRead tag args s
  | .timeSet tag args => Sys2Proof.Machine.execTimeSet tag args s
  | .timeRead tag args => Sys2Proof.Machine.execTimeRead tag args s
  | .pulseMode tag args => Sys2Proof.Machine.execPulseMode tag args s
  | .routeClear tag args => Sys2Proof.Machine.execRouteClear tag args s
  | .routeClearDone => Sys2Proof.Machine.execRouteClearDone s
  | .routeLoad tag args => Sys2Proof.Machine.execRouteLoad tag args s
  | .routeLoadStoreOpDone => Sys2Proof.Machine.execRouteLoadStoreOpDone s
  | .routeFinish tag args => Sys2Proof.Machine.execRouteFinish tag args s
  | .routeFinishReadDone => Sys2Proof.Machine.execRouteFinishReadDone s
  | .routeHeaderWriteDone => Sys2Proof.Machine.execRouteHeaderWriteDone s
  | .routeDigest tag args => Sys2Proof.Machine.execRouteDigest tag args s
  | .routeDigestDone => Sys2Proof.Machine.execRouteDigestDone s
  | .routeOpen tag args => Sys2Proof.Machine.execRouteOpen tag args s
  | .routeOpenReadDone => Sys2Proof.Machine.execRouteOpenReadDone s
  | .routeClose tag args => Sys2Proof.Machine.execRouteClose tag args s
  | .routeCloseWalksEnded => Sys2Proof.Machine.execRouteCloseWalksEnded s
  | .routeCloseDone => Sys2Proof.Machine.execRouteCloseDone s
  | .routeQuery tag args => Sys2Proof.Machine.execRouteQuery tag args s
  | .routeQueryReadDone => Sys2Proof.Machine.execRouteQueryReadDone s
  | .segmentRead tag args => Sys2Proof.Machine.execSegmentRead tag args s
  | .unreadList tag args => Sys2Proof.Machine.execUnreadList tag args s
  | .cacheFlush tag args => Sys2Proof.Machine.execCacheFlush tag args s
  | .cacheProbe tag args => Sys2Proof.Machine.execCacheProbe tag args s
  | .rangeSet tag args => Sys2Proof.Machine.execRangeSet tag args s
  | .rangeClear tag args => Sys2Proof.Machine.execRangeClear tag args s
  | .foreignPolicy tag args => Sys2Proof.Machine.execForeignPolicy tag args s
  | .utilitySet tag args => Sys2Proof.Machine.execUtilitySet tag args s
  | .mergeSet tag args => Sys2Proof.Machine.execMergeSet tag args s
  | .flushMerge tag args => Sys2Proof.Machine.execFlushMerge tag args s
  | .ruleSet tag args => Sys2Proof.Machine.execRuleSet tag args s
  | .ruleRead tag args => Sys2Proof.Machine.execRuleRead tag args s
  | .configSave tag args => Sys2Proof.Machine.execConfigSave tag args s
  | .configSaveDone => Sys2Proof.Machine.execConfigSaveDone s
  | .journalStatus tag args => Sys2Proof.Machine.execJournalStatus tag args s
  | .journalErase tag args => Sys2Proof.Machine.execJournalErase tag args s
  | .journalEraseDone => Sys2Proof.Machine.execJournalEraseDone s
  | .uploadStart tag args => Sys2Proof.Machine.execUploadStart tag args s
  | .uploadStop tag args => Sys2Proof.Machine.execUploadStop tag args s
  | .uploadAck tag args => Sys2Proof.Machine.execUploadAck tag args s
  | .status tag args => Sys2Proof.Machine.execStatus tag args s
  | .countersRead tag args => Sys2Proof.Machine.execCountersRead tag args s
  | .countersClear tag args => Sys2Proof.Machine.execCountersClear tag args s
  | .eventsClear tag args => Sys2Proof.Machine.execEventsClear tag args s
  | .eventMask tag args => Sys2Proof.Machine.execEventMask tag args s
  | .reset tag args => Sys2Proof.Machine.execReset tag args s
  | .itemDelivered p smp => Sys2Proof.Machine.execItemDelivered p smp s
  | .checkerBit p level => Sys2Proof.Machine.execCheckerBit p level s
  | .runClockMillisecond => Sys2Proof.Machine.execRunClockMillisecond s
  | .characterAccepted b => Sys2Proof.Machine.execCharacterAccepted b s
  | .lossOfPower => Sys2Proof.Machine.execLossOfPower s

end Sys2Proof.Machine
end

