-- ==== Sys2Proof/Machine/Step.lean ====
section
/-! DEFINITION. One step: the command at the front of the queue, or, on an empty queue, the end of at most one
store operation that has no row of its own. -/

namespace Sys2Proof.Machine

/-- What the block does with no command waiting (log 2): while powered, the operation in flight ends where its
end has no row of its own; otherwise nothing happens. -/
def State.idle (s : State) : State := if s.powered then s.advance?.getD s else s

/-- One step. -/
def step (s : State) : Host.Outcome State Fault Refusal :=
  match s.pending with
  | c :: rest => exec c { s with pending := rest }
  | [] => .next s.idle

/-- The state with the command a word spells at the front of its queue. -/
def State.withFetchWord (s : State) (nbits w : Nat) : State :=
  match decodeTableWord nbits w with
  | some c => { s with pending := c :: s.pending }
  | none => s

end Sys2Proof.Machine
end

