-- ==== Sys2Proof/Safety.lean ====
section
/-! DEFINITION. What a safe state is, in the terms the statements use: the bounds the manual gives the part's
queues, counters and windows, and when a command frame is taken. -/

namespace Sys2Proof.Machine

/-! ### Bounds that every step keeps -/

/-- The store is in its one canonical form (log 1). -/
abbrev State.storeOk (s : State) : Prop := s.store.wf

/-- The queues stay within their rooms: inbound buffer 2 (R175), notice queue 16 (R180), live queue 64 (R181),
append queue 64 (R139), the slots of each channel 2 (R23). -/
def State.queuesOk (s : State) : Prop :=
  s.tl.inbound.length ≤ 2 ∧ s.tl.notices.length ≤ 16 ∧ s.tl.live.length ≤ 64 ∧ s.journal.queue.length ≤ 64
    ∧ ∀ c : Fin 8, s.channels[c].slots.length ≤ 2

/-- Every counter lies in its range (introduction, Counters). -/
def State.countersOk (s : State) : Prop := ∀ i : Fin 88, s.counters[i] ≤ 4294967295

/-- A family entry's fields lie in the widths of the configuration image (section 9.8); an invalid one holds zeros
(R11). -/
def Family.fits (x : Family) : Prop :=
  if x.valid then
    x.syncLen < 256 ∧ x.tolerance < 256 ∧ x.bodyLen < 256 ∧ x.idOffset < 256 ∧ x.idLen < 256 ∧ x.valueOffset < 256
      ∧ x.valueLen < 256 ∧ x.indOffset < 256
  else x = .invalid

/-- A range entry's fields lie in the widths of the configuration image (section 9.8), FFH being ANY; an invalid one
holds zeros (R75). -/
def RangeEntry.fits (x : RangeEntry) : Prop :=
  if x.valid then x.k < 256 ∧ x.utility < 256 ∧ x.rule < 256 ∧ ∀ f, x.family = some f → f < 255 else x = .invalid

/-- A rule entry's fields lie in the widths of the configuration image (section 9.8). -/
def Rule.fits (x : Rule) : Prop := x.ceiling < 65536 ∧ x.tolerance < 256 ∧ x.stagnant < 256

/-- Every setting lies in the width that its field of the configuration image has (section 9.8). The ranges of the
setting commands lie in these widths; a good image can hold more (log 17). -/
def State.settingsOk (s : State) : Prop :=
  (∀ p : Fin 8, s.ports[p].settings.bitRate < 2 ^ 32)
    ∧ (∀ c : Fin 8, s.channels[c].threshold < 256)
    ∧ (∀ f : Fin 8, s.families[f].fits)
    ∧ s.tb.window < 256
    ∧ (∀ n : Fin 8, s.cl.ranges[n].fits)
    ∧ (∀ n : Fin 16, s.rules[n].fits)
    ∧ s.mc.hold < 65536 ∧ s.mc.quiet < 65536

/-- The upload reads the port has outstanding. -/
def StorePort.uploads (p : StorePort) : Nat :=
  p.waiting.countP (·.client == .upload) + p.active.toList.countP (·.client == .upload)
    + p.suspended.toList.countP (·.client == .upload)

/-- The upload window never passes eight frames (R161): window and ready frame together hold at most eight; a
frame in transmission that the engine owns is its ready frame; and at most one upload read is outstanding, only
while there is no ready frame and the window has room. -/
def State.windowOk (s : State) : Prop :=
  s.ue.window.length + s.ue.ready.toList.length ≤ 8
    ∧ (∀ f b, s.tl.tx = some ⟨.upload f true, b⟩ → s.ue.ready ≠ none)
    ∧ (s.port.uploads = 0 ∨ (s.port.uploads = 1 ∧ s.ue.ready = none ∧ s.ue.window.length < 8))

/-- The last acknowledged serial equals the mark target and is never above the sent ceiling; mark done, and the
serial whose mark is being programmed, are never above the mark target (R145, R161). -/
def State.ackOk (s : State) : Prop :=
  s.ue.lastAck = s.journal.markTarget ∧ s.ue.lastAck ≤ s.ue.ceiling ∧ s.journal.markDone ≤ s.journal.markTarget
    ∧ ∀ n, s.journal.marking = some n → n ≤ s.journal.markTarget

/-- The number of valid route cache entries. -/
def Classifier.cacheUsed (c : Classifier) : Nat := c.cache.toList.countP Option.isSome

/-- The ages of the n valid cache entries are 0 to n − 1, each once, and no two have one meter ID (R71, R72); no two
pending walks have one meter ID, and none has the meter ID of a cache entry (R66, R79). -/
def State.cacheOk (s : State) : Prop :=
  (∀ (i : Fin 64) (e : CacheEntry), s.cl.cache[i] = some e → e.age < s.cl.cacheUsed)
    ∧ (∀ (i j : Fin 64) (e f : CacheEntry), s.cl.cache[i] = some e → s.cl.cache[j] = some f → i ≠ j →
        e.age ≠ f.age ∧ e.meterId ≠ f.meterId)
    ∧ (∀ (v w : Fin 4) (k l : Walk), s.cl.walks[v] = some k → s.cl.walks[w] = some l → v ≠ w →
        k.meterId ≠ l.meterId)
    ∧ ∀ (i : Fin 64) (w : Fin 4) (e : CacheEntry) (k : Walk), s.cl.cache[i] = some e → s.cl.walks[w] = some k →
        e.meterId ≠ k.meterId

/-- A safe state. -/
def State.safe (s : State) : Prop :=
  s.storeOk ∧ s.queuesOk ∧ s.countersOk ∧ s.windowOk ∧ s.ackOk ∧ s.cacheOk ∧ s.settingsOk

/-! ### Taking a command (R176) -/

/-- The command unit can take this frame now: the frame is the oldest of the inbound buffer (log 5), and nothing of
R176 or R186 holds it back. -/
def State.takes (tag code : Byte) (args : List Byte) (s : State) : Prop :=
  s.powered = true ∧ s.canTake ⟨tag, code :: args⟩ = true

/-- The command unit takes this frame now, and no long operation holds the unit. -/
def State.accepts (tag code : Byte) (args : List Byte) (s : State) : Prop :=
  s.takes tag code args ∧ s.tl.longOp = none

/-- The same for a setting command, which the journal scan holds off (R135). -/
def State.acceptsSetting (tag code : Byte) (args : List Byte) (s : State) : Prop :=
  s.accepts tag code args ∧ s.journal.state ≠ .scanning

/-- The trunk link after a frame is taken and answered: the frame has left the inbound buffer, and the reply
stands in the reply path (R176, R178). -/
def Trunk.replyTo (t : Trunk) (tag code : Byte) (rc : ReplyCode) (results : List Byte) : Trunk :=
  { t with inbound := t.inbound.tail, reply := some ⟨tag, code :: rc.code :: results, false⟩ }

/-- The trunk link after a frame is taken whose long operation starts its work `w` (R177). -/
def Trunk.holdFor (t : Trunk) (tag code : Byte) (w : Work) : Trunk :=
  { t with inbound := t.inbound.tail, longOp := some ⟨code, tag, w, none⟩ }

/-- The state after a frame is taken and answered, with nothing else changed. -/
def State.replied (tag code : Byte) (rc : ReplyCode) (results : List Byte) (s : State) : State :=
  { s with tl := s.tl.replyTo tag code rc results }

/-- What the command index and the byte layouts say of a command of the link (sections 9.7 and 9.8): its code; its
tag and arguments; whether it executes while a long operation holds the unit (R177); whether its body has the
length the layouts give; whether it is one of the setting commands of R135. -/
structure CommandForm where
  code : Byte
  tag : Byte
  args : List Byte
  heldToo : Bool
  lengthOk : Bool
  setting : Bool
deriving DecidableEq, Repr

end Sys2Proof.Machine

namespace Sys2Proof

/-- The form of a command of the link; `none` for every other row and for an unknown command. -/
def Instr.form? : Instr → Option Machine.CommandForm
  | .portSet t a => some ⟨0x10#8, t, a, false, a.length == 8, true⟩
  | .mapSet t a => some ⟨0x11#8, t, a, false, a.length == 2, true⟩
  | .familySet t a => some ⟨0x12#8, t, a, false, a.length == 17, true⟩
  | .channelSet t a => some ⟨0x13#8, t, a, false, a.length == 3, true⟩
  | .checkRead t a => some ⟨0x14#8, t, a, false, a.length == 1, false⟩
  | .timeSet t a => some ⟨0x20#8, t, a, false, a.length == 6, false⟩
  | .timeRead t a => some ⟨0x21#8, t, a, true, a.length == 0, false⟩
  | .pulseMode t a => some ⟨0x22#8, t, a, false, a.length == 2, true⟩
  | .routeClear t a => some ⟨0x30#8, t, a, false, a.length == 0, false⟩
  | .routeLoad t a =>
    some ⟨0x31#8, t, a, false, a.length == 1 + 32 * Machine.natAt a 0 && 1 ≤ Machine.natAt a 0 && Machine.natAt a 0 ≤ 30,
      false⟩
  | .routeFinish t a => some ⟨0x32#8, t, a, false, a.length == 0, false⟩
  | .routeDigest t a => some ⟨0x33#8, t, a, false, a.length == 0, false⟩
  | .routeOpen t a => some ⟨0x34#8, t, a, false, a.length == 0, false⟩
  | .routeClose t a => some ⟨0x35#8, t, a, false, a.length == 0, false⟩
  | .routeQuery t a => some ⟨0x36#8, t, a, false, a.length == 4, false⟩
  | .segmentRead t a => some ⟨0x37#8, t, a, false, a.length == 1, false⟩
  | .unreadList t a => some ⟨0x38#8, t, a, false, a.length == 3, false⟩
  | .cacheFlush t a => some ⟨0x40#8, t, a, false, a.length == 0, false⟩
  | .cacheProbe t a => some ⟨0x41#8, t, a, false, a.length == 1, false⟩
  | .rangeSet t a => some ⟨0x42#8, t, a, false, a.length == 11, true⟩
  | .rangeClear t a => some ⟨0x43#8, t, a, false, a.length == 1, true⟩
  | .foreignPolicy t a => some ⟨0x44#8, t, a, false, a.length == 1, true⟩
  | .utilitySet t a => some ⟨0x45#8, t, a, false, a.length == Machine.natAt a 0 + 1, true⟩
  | .mergeSet t a => some ⟨0x50#8, t, a, false, a.length == 4, true⟩
  | .flushMerge t a => some ⟨0x51#8, t, a, false, a.length == 0, false⟩
  | .ruleSet t a => some ⟨0x60#8, t, a, false, a.length == 5, true⟩
  | .ruleRead t a => some ⟨0x61#8, t, a, false, a.length == 1, false⟩
  | .configSave t a => some ⟨0x70#8, t, a, false, a.length == 0, true⟩
  | .journalStatus t a => some ⟨0x71#8, t, a, false, a.length == 0, false⟩
  | .journalErase t a => some ⟨0x72#8, t, a, false, a.length == 0, false⟩
  | .uploadStart t a => some ⟨0x80#8, t, a, false, a.length == 0, false⟩
  | .uploadStop t a => some ⟨0x81#8, t, a, true, a.length == 0, false⟩
  | .uploadAck t a => some ⟨0x82#8, t, a, true, a.length == 4, false⟩
  | .status t a => some ⟨0x90#8, t, a, true, a.length == 0, false⟩
  | .countersRead t a => some ⟨0x91#8, t, a, true, a.length == 0, false⟩
  | .countersClear t a => some ⟨0x92#8, t, a, false, a.length == 0, false⟩
  | .eventsClear t a => some ⟨0x93#8, t, a, true, a.length == 2, false⟩
  | .eventMask t a => some ⟨0x94#8, t, a, false, a.length == 2, true⟩
  | .reset t a => some ⟨0x95#8, t, a, false, a.length == 0, false⟩
  | _ => none

end Sys2Proof

namespace Sys2Proof.Machine

/-! ### Resets -/

/-- Every block but the bulk store stands at its reset value, before the configuration image is handed over
(each chapter's table of reset values). No port is in CHECK mode then, and its checker in SEARCH with counts 0 is the
model's choice (log 47). -/
def State.blocksReset (s : State) : Prop :=
  (∀ p : Fin 8, s.ports[p].settings = ⟨.off, false, 4800, false⟩ ∧ s.ports[p].heldHalf = none
        ∧ s.ports[p].checker.phase = .search ∧ s.ports[p].checker.errors = 0 ∧ s.ports[p].checker.bits = 0)
    ∧ (∀ c : Fin 8, s.channels[c] = ⟨some c, 0#8, 16, .off, [], false, 0⟩)
    ∧ (∀ f : Fin 8, s.families[f].valid = false)
    ∧ s.tb = ⟨0#32, 0#32, 0#32, 0, false, .off, 20, false, none, none, 0⟩
    ∧ s.rm.state = .resuming ∧ s.rm.built = false ∧ s.rm.status = [] ∧ s.rm.routeDone = false
    ∧ (∀ g : Fin 256, s.rm.segments[g] = ⟨0, 0, 0, 0, false⟩)
    ∧ s.cl.lastServed = 7 ∧ s.cl.stalled = false ∧ s.cl.held = none ∧ s.cl.stopped = false
    ∧ (∀ i : Fin 64, s.cl.cache[i] = none) ∧ (∀ r : Fin 8, s.cl.ranges[r].valid = false)
    ∧ (∀ w : Fin 4, s.cl.walks[w] = none) ∧ (∀ b : Fin 16, s.cl.pool[b] = none)
    ∧ s.cl.policy = .drop ∧ s.cl.utilities = 0x000F#16
    ∧ (∀ e : Fin 32, s.mc.table[e] = none) ∧ s.mc.hold = 1500 ∧ s.mc.quiet = 900
    ∧ (∀ r : Fin 16, s.rules[r] = ⟨0, 0, 0⟩)
    ∧ s.journal.state = .scanning ∧ s.journal.queue = [] ∧ s.journal.discarded = 0
    ∧ s.journal.discardedRange = none
    ∧ s.ue.state = .idle ∧ s.ue.ready = none ∧ s.ue.window = [] ∧ s.ue.lastAck = 0 ∧ s.ue.ceiling = 0
    ∧ s.ue.expiry = none ∧ s.ue.streak = 0 ∧ s.ue.gathered = []
    ∧ s.tl.rx = none ∧ s.tl.inbound = [] ∧ s.tl.reply = none ∧ s.tl.notices = [] ∧ s.tl.live = []
    ∧ s.tl.overrun = false ∧ s.tl.flags = 0#16 ∧ s.tl.mask = 0xFFFF#16 ∧ s.tl.tx = none ∧ s.tl.longOp = none
    ∧ s.tl.resetArmed = false ∧ s.tl.noticeSeq = 0#8 ∧ s.tl.readingSeq = 0#8 ∧ s.tl.uploadSeq = 0#8
    ∧ ∀ i : Fin 88, s.counters[i] = 0

/-- A store operation works on this address. -/
def StoreOp.touches (op : StoreOp) (a : Nat) : Prop :=
  match op with
  | .read _ _ => False
  | .program b bs => b ≤ a ∧ a < b + bs.length
  | .erase sec => sec * 65536 ≤ a ∧ a < sec * 65536 + 65536

/-- What the rules say of the store `m` that a loss of power leaves when it cuts the one operation `op`. A route record
is a damaged slot (R40), and so is a route header (R42), and the first erase of a ROUTE CLEAR leaves no valid header
(R44); the image is not good (R134, R136); a record of the journal is torn (R137), a mark uncertain (R145), and the
header of a sector being opened not valid (R141); of a journal sector being erased a slot is valid only where it held
the same record before, but for its mark (R147), and the header of a sector ahead is not valid (R141), where the span is
known (log 8). -/
def State.cutLeaves (s : State) (op : StoreOp) (m : Memory) : Prop :=
  (∀ (sec slot : Nat) (bs : List Byte), slot < 2048 → bs.length = 32 → op = .program (sec * 65536 + slot * 32) bs →
    (1 ≤ sec → sec ≤ 17 → judgeDir (m.slot sec slot) = .damaged)
      ∧ (18 ≤ sec → 1 ≤ slot → judgeJournal (m.slot sec slot) = .torn)
      ∧ (18 ≤ sec → slot = 0 → ∀ q f, judgeHeader (m.slot sec slot) ≠ .valid q f))
    ∧ (∀ (a : Nat) (b : Byte), 65536 ≤ a → op = .program a [b] → m.read a ≠ 0#8 ∧ m.read a ≠ 0xFF#8)
    ∧ (op = .erase 0 ∨ (∃ bs, op = .program 0 bs ∧ bs.length = 256) ∨ (∃ bs, op = .program 256 bs ∧ bs.length = 123) →
      goodImage (m.bytes 0 379) = false)
    ∧ (∀ (code tag : Byte) (n : Nat) (reply : Option (List Byte)), op = .erase 1 →
      s.tl.longOp = some ⟨code, tag, .clear n, reply⟩ → m.latestHeader = none)
    ∧ ∀ sec : Nat, 18 ≤ sec → sec ≤ 511 → op = .erase sec →
      (∀ slot : Nat, 1 ≤ slot → slot < 2048 → ∀ bs, judgeJournal (m.slot sec slot) = .valid bs →
        ∃ old, judgeJournal (s.store.slot sec slot) = .valid old ∧ bs.take 29 = old.take 29)
      ∧ ∀ q f : Nat, judgeHeader (m.slot sec 0) = .valid q f →
        (s.journal.state = .scanning ∨ s.journal.inSpan sec = true) ∧ judgeHeader (s.store.slot sec 0) = .valid q f

/-! ### Work in progress -/

/-- A long operation holds the command unit with the work `w`, its reply not yet ready (R177). -/
def State.working (code tag : Byte) (w : Work) (s : State) : Prop :=
  s.powered = true ∧ s.tl.longOp = some ⟨code, tag, w, none⟩

/-- The trunk link with the work of its long operation moved on. -/
def Trunk.workOn (t : Trunk) (code tag : Byte) (w : Work) : Trunk := { t with longOp := some ⟨code, tag, w, none⟩ }

/-- The trunk link with its long operation ended and its reply waiting for the reply path (R177). -/
def Trunk.ended (t : Trunk) (code tag : Byte) (rc : ReplyCode) (results : List Byte) : Trunk :=
  { t with longOp := some ⟨code, tag, .ended, some (code :: rc.code :: results)⟩ }

/-- The client's operation holds the port. -/
def State.inPort (c : Client) (op : StoreOp) (s : State) : Prop :=
  (∃ since spent, s.port.active = some ⟨c, op, since, spent⟩) ∧ c ∉ s.port.failed

/-- The client's request was answered failed, and nothing is in flight (R132, R133). -/
def State.unanswered (c : Client) (s : State) : Prop := s.port.active = none ∧ c ∈ s.port.failed

/-- The port is free, or the operation in it ends by a row of its own: it is not one of the start-up path or of a long
operation, and of an opening it is the header program (log 2). -/
def State.ownRow (s : State) : Prop :=
  ∀ a : ActiveOp, s.port.active = some a →
    a.client ≠ .startup ∧ a.client ≠ .longOp ∧ (a.client = .opening → a.op.isProgram = true)

/-- The port once its operation has ended. -/
def StorePort.freed (p : StorePort) : StorePort := { p with active := none }

/-- The port once a requester has taken its answer of failure. -/
def StorePort.told (p : StorePort) (c : Client) : StorePort := { p with failed := p.failed.erase c }

/-- The start-up path is at the phase, with the part powered. -/
def State.startsAt (ph : StartPhase) (s : State) : Prop := s.powered = true ∧ s.startup = ph

end Sys2Proof.Machine
end

