-- ==== Sys2Proof/Certificates/Slice0/Obligations.lean ====
section
/-! DEFINITION. What is claimed of the model, one definition for each statement of OBLIGATIONS.json. -/

open Sys2Proof Sys2Proof.Machine

/-! ### The machine as a whole -/

/-- A step with a command at the front of the queue is `exec` of that command on the state with the queue's rest. The
queue is the model's form of what comes from outside (log 6). -/
def Obligations.StepRunsFrontCommand : Prop :=
  ∀ (c : Instr) (rest : List Instr) (s : State),
    step { s with pending := c :: rest } = exec c { s with pending := rest }

/-- Every command answers a next state, and none touches the queue of commands. -/
def Obligations.ExecAnswersNextAndKeepsQueue : Prop :=
  ∀ (c : Instr) (s : State), ∃ t : State, exec c s = .next t ∧ t.pending = s.pending

/-- R176, R177, R135: how every command of the link is taken before its owning rule acts. The model's reading: the
length is judged before the scan, so that a setting command of the wrong length is BAD_ARG also while the journal is
SCANNING (log 16), and UTILITY SET is BUSY during a ROUTE CLOSE too, R87's BAD_STATE being given by the owning rule in
step 3 of R176, which a held unit does not reach (log 41).
That a command row is a frame of the inbound buffer is log 5. -/
def Obligations.CommandFramesTakenBusyOrMalformed : Prop :=
  ∀ (c : Instr) (f : CommandForm) (s : State), c.form? = some f → s.powered = true →
    (s.canTake ⟨f.tag, f.code :: f.args⟩ = false → exec c s = .next s) ∧
    (s.takes f.tag f.code f.args → s.tl.longOp ≠ none → f.heldToo = false →
      exec c s = .next (s.replied f.tag f.code .busy [])) ∧
    (s.takes f.tag f.code f.args → (s.tl.longOp = none ∨ f.heldToo = true) →
      f.lengthOk = false → exec c s = .next (s.replied f.tag f.code .badArg [])) ∧
    (s.accepts f.tag f.code f.args → f.lengthOk = true → f.setting = true → s.journal.state = .scanning →
      exec c s = .next (s.replied f.tag f.code .badState []))

/-- Every step keeps the bulk store in its one canonical form. The form is the model's (log 1). -/
def Obligations.StepKeepsStoreForm : Prop :=
  ∀ s t : State, s.storeOk → step s = .next t → t.storeOk

/-- R23, R139, R175, R180, R181: every step keeps the slots and the queues within their rooms. -/
def Obligations.StepKeepsQueueBounds : Prop :=
  ∀ s t : State, s.queuesOk → step s = .next t → t.queuesOk

/-- Every step keeps every counter in 0 to 4,294,967,295 (introduction, Counters), and every setting in the width that
the configuration image gives it (section 9.8). -/
def Obligations.StepKeepsCountersInRange : Prop :=
  (∀ s t : State, s.countersOk → step s = .next t → t.countersOk) ∧
  ∀ s t : State, s.settingsOk → step s = .next t → t.settingsOk

/-- R161: every step keeps the upload window and the ready frame together at eight frames at most. -/
def Obligations.StepKeepsUploadWindow : Prop :=
  ∀ s t : State, s.windowOk → step s = .next t → t.windowOk

/-- R161, R162, R144, R145: every step keeps the last acknowledged serial equal to the mark target and at or below the
sent ceiling, and mark done, with the serial whose mark is being programmed, at or below the mark target. -/
def Obligations.StepKeepsAcknowledgedSerial : Prop :=
  ∀ s t : State, s.ackOk → step s = .next t → t.ackOk

/-- The state right after reset is safe. That its store has nothing listed, so reads FFH everywhere, is the model's
choice (log 1). -/
def Obligations.ResetIsSafe : Prop := State.reset.safe

/-! ### Receiver ports, channels, framers (chapter 1) -/

/-- R2 to R5: what ITEM_DELIVERED makes of a sample of the port's line. A Manchester port that has moved its alignment
begins the pair with the half it holds. The sample is the model's form of the line (log 21). -/
def Obligations.SampledItemsFollowThePortMode : Prop :=
  ∀ (p : Fin 8) (smp : Sample) (s : State), s.powered = true →
    let x := s.ports[p]
    let first := x.heldHalf.getD (smp.first ^^ x.settings.invert)
    let second := smp.second ^^ x.settings.invert
    let holding (held : Option Bool) : State := { s with ports := s.ports.set p { x with heldHalf := held } }
    exec (.itemDelivered p smp) s = .next
      (if x.settings.carrierQualify = true ∧ x.carrier = false then s
       else match x.settings.mode with
        | .nrz => (holding none).deliver p (.bit (smp.first ^^ x.settings.invert))
        | .man =>
          if first = second then (holding (some second)).deliver p .violation
          else (holding none).deliver p (.bit first)
        | .off => s
        | .check => s)

/-- R5: an item reaches every channel mapped to the port and no other, each acting by its own framer, and touches
nothing beside channels, counters, event flags and notices. The order of the channels is the model's (log 35). -/
def Obligations.DeliveryReachesTheMappedChannels : Prop :=
  ∀ (p : Fin 8) (it : Item) (s : State),
    let t := s.deliver p it
    (∀ c : Fin 8, t.channels[c] =
      if s.channels[c].source = some p then (s.frameItem c it).channels[c] else s.channels[c]) ∧
    t = { s with channels := t.channels, counters := t.counters,
                 tl := { s.tl with flags := t.tl.flags, notices := t.tl.notices, overrun := t.tl.overrun } }

/-- R14 to R17: a framer in OFF takes nothing; a framer in HUNT shifts a bit in and matches the lowest-numbered
effective family, exactly while NOISY; a violation or a carrier loss clears its window; a framer in BODY collects. The
mismatches of a family are the bits in which the last L bits received differ from its pattern, L being its sync length.
-/
def Obligations.FramerTakesItems : Prop :=
  ∀ (c : Fin 8) (s : State),
    let ch := s.channels[c]
    let framed (f : Framer) : State := { s with channels := s.channels.set c { ch with framer := f } }
    (ch.framer = .off → ∀ it : Item, s.frameItem c it = s) ∧
    (∀ (w : Word) (n : Nat), ch.framer = .hunt w n →
      s.frameItem c .violation = framed (.hunt 0#32 0) ∧ s.frameItem c .loss = framed (.hunt 0#32 0) ∧
      ∀ b : Bool,
        let w' := (w <<< 1) ||| (BitVec.ofBool b).zeroExtend 32
        let mismatches (f : Fin 8) : Nat :=
          (List.range s.families[f].syncLen).countP (fun i => w'.getLsbD i != s.families[f].pattern.getLsbD i)
        let hits (f : Fin 8) : Prop :=
          ch.mask.getLsbD f.val = true ∧ s.families[f].valid = true ∧ s.families[f].syncLen ≤ n + 1
            ∧ mismatches f ≤ (if ch.noisy then 0 else s.families[f].tolerance)
        (∀ f : Fin 8, hits f → (∀ g : Fin 8, g < f → ¬ hits g) →
          s.frameItem c (.bit b) = framed (.body f (mismatches f) [] 0)) ∧
        ((∀ f : Fin 8, ¬ hits f) → s.frameItem c (.bit b) = framed (.hunt w' (n + 1)))) ∧
    (∀ (f : Fin 8) (m v : Nat) (bits : List Bool), ch.framer = .body f m bits v →
      bits.length + 1 < 8 * s.families[f].bodyLen →
      (∀ b : Bool, s.frameItem c (.bit b) = framed (.body f m (bits ++ [b]) v)) ∧
      (v < 7 → s.frameItem c .violation = framed (.body f m (bits ++ [false]) (v + 1))))

/-- R17 to R21, R23, R24: what ends a frame. With the last body bit, a body whose CRC agrees and whose value decodes is
a frame record in the slots, or a SLOT_OVERFLOW; any other is a CRCERR or a BADVALUE. An eighth violation is a BADCODE
and a carrier loss a CUT. Each error counts at the noise monitor. First what R17, R19 and R20 say of the body: its
bytes, when the CRC agrees, and the value it decodes to. -/
def Obligations.FrameEndsInRecordOrError : Prop :=
  -- eight bits to the byte, the first the most significant
  (∀ bits : List Bool, (bytesOfBits bits).length = bits.length / 8 ∧
    ∀ i k : Nat, i < bits.length / 8 → k < 8 →
      ((bytesOfBits bits).getD i 0#8).getMsbD k = bits.getD (8 * i + k) false) ∧
  -- the CRC, with its check figures, and the value field
  (crcK1 [0x31#8, 0x32#8, 0x33#8, 0x34#8, 0x35#8, 0x36#8, 0x37#8, 0x38#8, 0x39#8] = 0x29B1#16 ∧
    crcK2 [0x31#8, 0x32#8, 0x33#8, 0x34#8, 0x35#8, 0x36#8, 0x37#8, 0x38#8, 0x39#8] = 0xC2B7#16) ∧
  (∀ (fam : Family) (body : List Byte),
    let data := body.take (fam.bodyLen - 2)
    let given := beNat ((body.drop (fam.bodyLen - 2)).take 2)
    let field := (body.drop fam.valueOffset).take fam.valueLen
    (fam.crc = .none → fam.crcOk body = true) ∧
    (fam.crc = .k1 → (fam.crcOk body = true ↔ given = (crcK1 data).toNat)) ∧
    (fam.crc = .k2 → (fam.crcOk body = true ↔ given = (crcK2 data).toNat)) ∧
    (fam.encoding = .bin → fam.value? body = some (field.foldl (fun v b => 256 * v + b.toNat) 0)) ∧
    (fam.encoding = .bcd →
      ((∃ b ∈ field, 9 < b.toNat / 16 ∨ 9 < b.toNat % 16) → fam.value? body = none) ∧
      ((∀ b ∈ field, b.toNat / 16 ≤ 9 ∧ b.toNat % 16 ≤ 9) → fam.value? body =
        some ((field.flatMap (fun b => [b.toNat / 16, b.toNat % 16])).foldl (fun v d => 10 * v + d) 0)))) ∧
  ∀ (c f : Fin 8) (m v : Nat) (bits : List Bool) (s : State), s.channels[c].framer = .body f m bits v →
    let ch := s.channels[c]
    let fam := s.families[f]
    let n := min 255 (ch.windowCount + 1)
    let failed (k : Counter) : State :=
      let t := ({ s with channels := s.channels.set c { ch with
        framer := s.freshFramer c, windowCount := n, noisy := ch.noisy || decide (ch.threshold ≤ n) } }).bump k
      if ch.noisy = false ∧ ch.threshold ≤ n then t.raise .noisy (BitVec.ofNat 32 c.val) else t
    let ended (bits : List Bool) (viol : Nat) : State :=
      let body := bytesOfBits bits
      if fam.crcOk body then
        match fam.value? body with
        | none => failed (.badValue c)
        | some value =>
          let rec_ : FrameRecord :=
            { channel := c, family := f, meterId := BitVec.ofNat 32 (beNat (slice body fam.idOffset fam.idLen)),
              value := value, indicators := body.getD fam.indOffset 0#8 &&& fam.indMask,
              quality := 16 * m + min viol 15, seconds := s.tb.todSeconds, timeValid := s.tb.timeValid }
          if ch.slots.length < 2 then
            ({ s with channels := s.channels.set c { ch with
                framer := s.freshFramer c, slots := ch.slots ++ [rec_] } }).bump (.frames c)
          else
            ((({ s with channels := s.channels.set c { ch with framer := s.freshFramer c } }).bump (.frames c)).bump
              (.slotOverflow c)).raise .slotOverflow (BitVec.ofNat 32 c.val)
      else failed (.crcErr c)
    (8 * fam.bodyLen = bits.length + 1 →
      (∀ b : Bool, s.frameItem c (.bit b) = ended (bits ++ [b]) v) ∧
      (v < 7 → s.frameItem c .violation = ended (bits ++ [false]) (v + 1))) ∧
    (7 ≤ v → s.frameItem c .violation = failed (.badCode c)) ∧
    s.frameItem c .loss = failed (.cut c)

/-- R15, R17, R19: SYNC_MATCH, FRAME_BODY_COMPLETE and BADCODE_ABORT are the item that brings them about on the named
channel, taken whole by the port (log 4). -/
def Obligations.FramerRowsAreTheirItems : Prop :=
  ∀ (c p : Fin 8) (smp : Sample) (it : Item) (held : Option Bool) (s : State), s.powered = true →
    s.channels[c].source = some p → s.ports[p].item smp = some (it, held) →
    (∀ (w : Word) (n : Nat) (b : Bool) (f : Fin 8), s.channels[c].framer = .hunt w n → it = .bit b →
      s.syncFamily c (pushBit w b) (n + 1) = some f →
      ∃ t : State, exec (.syncMatch c smp) s = .next t ∧ exec (.itemDelivered p smp) s = .next t
        ∧ t.channels[c].framer = .body f (s.families[f].mismatches (pushBit w b)) [] 0) ∧
    (∀ (f : Fin 8) (m v : Nat) (bits : List Bool), s.channels[c].framer = .body f m bits v →
      (8 * s.families[f].bodyLen = bits.length + 1 → (it = .violation → v < 7) → it ≠ .loss →
        ∃ t : State, exec (.frameBodyComplete c smp) s = .next t ∧ exec (.itemDelivered p smp) s = .next t
          ∧ t.channels[c].framer = s.freshFramer c) ∧
      (7 ≤ v → it = .violation →
        ∃ t : State, exec (.badcodeAbort c smp) s = .next t ∧ exec (.itemDelivered p smp) s = .next t
          ∧ t.channels[c].framer = s.freshFramer c
          ∧ t.channels[c].windowCount = min 255 (s.channels[c].windowCount + 1)))

/-- R4, R17 to R20, R24: the carrier rows, and NOISY as the error that brings a quiet channel's count to N: the carrier
loss in BODY, the eighth violation, or the last body bit of a CRCERR or a BADVALUE (log 4). -/
def Obligations.CarrierAndNoiseRows : Prop :=
  ∀ s : State, s.powered = true →
    (∀ p : Fin 8,
      let x := s.ports[p]
      let lost : State := { s with ports := s.ports.set p { x with carrier := false } }
      exec (.rxcInactive p) s = .next
        (if x.carrier = true ∧ x.settings.carrierQualify = true
            ∧ (x.settings.mode = .nrz ∨ x.settings.mode = .man) then lost.deliver p .loss else lost)
      ∧ exec (.rxcActive p) s = .next { s with ports := s.ports.set p { x with
          carrier := true,
          heldHalf := if x.settings.carrierQualify = true ∧ x.carrier = false then none else x.heldHalf } }) ∧
    (∀ (c p : Fin 8) (cause : NoiseCause) (f : Fin 8) (m v : Nat) (bits : List Bool),
      s.channels[c].source = some p → s.channels[c].framer = .body f m bits v →
      s.channels[c].noisy = false → s.channels[c].threshold ≤ min 255 (s.channels[c].windowCount + 1) →
      (match cause with
        | .carrierLoss => s.ports[p].carrier = true ∧ s.ports[p].settings.carrierQualify = true
            ∧ (s.ports[p].settings.mode = .nrz ∨ s.ports[p].settings.mode = .man)
        | .item smp => ∃ (it : Item) (held : Option Bool), s.ports[p].item smp = some (it, held) ∧
            (it = .violation ∧ 7 ≤ v ∨
              ∃ b : Bool, (it = .bit b ∨ it = .violation ∧ b = false ∧ v < 7)
                ∧ 8 * s.families[f].bodyLen ≤ bits.length + 1
                ∧ (s.families[f].crcOk (bytesOfBits (bits ++ [b])) = false
                  ∨ s.families[f].value? (bytesOfBits (bits ++ [b])) = none))) →
      ∃ t : State, exec (.noisy c cause) s = .next t
        ∧ exec (match cause with | .item smp => .itemDelivered p smp | .carrierLoss => .rxcInactive p) s = .next t
        ∧ t.channels[c] = { s.channels[c] with
            framer := s.freshFramer c, noisy := true, windowCount := min 255 (s.channels[c].windowCount + 1) }
        ∧ t.tl.flags.getLsbD 3 = true)

/-- R6 to R8: the PN9 checker of a port in CHECK mode whose carrier, if qualified, is there; and CHECK READ, which
answers state and counts and zeroes the counts. PN9_LOCKED and PN9_LOST are bits of the checker (log 4). -/
def Obligations.CheckerFollowsTheSequence : Prop :=
  (∀ (p : Fin 8) (level : Bool) (s : State), s.powered = true →
     let x := s.ports[p]
     let k := x.checker
     let b := level ^^ x.settings.invert
     let said := k.register.getLsbD 4 ^^ k.register.getLsbD 8
     let taken := (k.register <<< 1) ||| (BitVec.ofBool b).zeroExtend 9
     let predicted := (k.register <<< 1) ||| (BitVec.ofBool said).zeroExtend 9
     let with_ (k' : Checker) : State := { s with ports := s.ports.set p { x with checker := k' } }
     let row := exec (.checkerBit p level) s
     (x.settings.mode ≠ .check ∨ (x.settings.carrierQualify = true ∧ x.carrier = false) → row = .next s) ∧
     (x.settings.mode = .check → (x.settings.carrierQualify = false ∨ x.carrier = true) →
       (k.phase ≠ .locked → k.filled < 9 → row = .next (with_ { k with register := taken, filled := k.filled + 1 })) ∧
       (k.phase ≠ .locked → 9 ≤ k.filled →
         (b ≠ said → row = .next (with_ { k with register := taken, run := 0 })) ∧
         (b = said → k.register = 0#9 → k.run < 32 → row = .next (with_ { k with register := taken })) ∧
         (b = said → k.register ≠ 0#9 → k.run < 31 →
           row = .next (with_ { k with register := taken, run := k.run + 1 })) ∧
         (b = said → k.register ≠ 0#9 → k.run = 31 →
           let t := with_ { k with register := taken, run := 32, phase := .locked, outcomes := [] }
           row = .next t ∧ exec (.pn9Locked p level) s = .next t)) ∧
       (k.phase = .locked →
         let kept := (decide (b ≠ said) :: k.outcomes).take 64
         let errors := if b ≠ said then min 16777215 (k.errors + 1) else k.errors
         let bits := min 16777215 (k.bits + 1)
         (kept.count true < 16 → row = .next (with_ { k with
           register := predicted, errors := errors, bits := bits, outcomes := kept })) ∧
         (16 ≤ kept.count true →
           let t := with_ { phase := .lost, register := 0#9, filled := 0, run := 0, errors := errors, bits := bits,
                            outcomes := [] }
           row = .next t ∧ exec (.pn9Lost p level) s = .next t)))) ∧
  (∀ (tag a : Byte) (s : State), s.accepts tag 0x14#8 [a] →
     (7 < a.toNat → exec (.checkRead tag [a]) s = .next (s.replied tag 0x14#8 .badArg [])) ∧
     ∀ p : Fin 8, p.val = a.toNat →
       let k := s.ports[p].checker
       exec (.checkRead tag [a]) s = .next
         (if s.ports[p].settings.mode = .check then
           ({ s with ports := s.ports.set p { s.ports[p] with checker := { k with errors := 0, bits := 0 } } }).replied
             tag 0x14#8 .ok (byteOf k.phase.code :: beBytes 4 k.errors ++ beBytes 4 k.bits)
         else s.replied tag 0x14#8 .badState []))

/-- R9, R10, R22, R26: PORT SET, MAP SET and CHANNEL SET, with the framers they act on. A command that acts on a
channel aborts a frame in BODY with RECONF and places the framer by R14, in HUNT with an empty window or in OFF;
nothing else of the channel changes. The model's choice: BAD_ARG for a yes or no above 1 (log 16), the reply widths
(log 12). -/
def Obligations.PortAndChannelSettings : Prop :=
  (∀ (tag : Byte) (args : List Byte) (s : State),
     (args.length = 8 → s.acceptsSetting tag 0x10#8 args →
       let rate := numAt args 3 4
       (7 < natAt args 0 ∨ 3 < natAt args 1 ∨ 1 < natAt args 2 ∨ 1 < natAt args 7 ∨ rate < 1000 ∨ 100000 < rate →
         exec (.portSet tag args) s = .next (s.replied tag 0x10#8 .badArg [])) ∧
       (∀ (p : Fin 8) (mode : PortMode), p.val = natAt args 0 → mode.code = natAt args 1 → natAt args 2 ≤ 1 →
         natAt args 7 ≤ 1 → 1000 ≤ rate → rate ≤ 100000 →
         let set : PortSettings := ⟨mode, natAt args 2 == 1, rate, natAt args 7 == 1⟩
         let x : Port := { s.ports[p] with
           settings := set, heldHalf := none, checker := if mode = .check then .start else s.ports[p].checker }
         let u : State := { s with ports := s.ports.set p x }
         ∃ t : State, exec (.portSet tag args) s = .next (t.replied tag 0x10#8 .ok
               ([byteOf mode.code, boolByte set.invert] ++ beBytes 4 rate ++ [boolByte set.carrierQualify])) ∧
           t = { u with channels := t.channels, counters := t.counters } ∧
           (∀ c : Fin 8, t.channels[c] =
             if s.channels[c].source = some p then { s.channels[c] with framer := u.freshFramer c }
             else s.channels[c]) ∧
           let aborted (c : Fin 8) : Prop := s.channels[c].source = some p ∧
             ∃ (f : Fin 8) (m v : Nat) (bits : List Bool), s.channels[c].framer = .body f m bits v
           (∀ c : Fin 8, aborted c → t.count (.reconf c) = min 4294967295 (s.count (.reconf c) + 1)) ∧
           ∀ k : Counter, (∀ c : Fin 8, k = .reconf c → ¬ aborted c) → t.count k = s.count k)) ∧
     (args.length = 2 → s.acceptsSetting tag 0x11#8 args →
       (7 < natAt args 0 ∨ (7 < natAt args 1 ∧ natAt args 1 < 255) →
         exec (.mapSet tag args) s = .next (s.replied tag 0x11#8 .badArg [])) ∧
       (∀ c : Fin 8, c.val = natAt args 0 → (natAt args 1 ≤ 7 ∨ natAt args 1 = 255) →
         let u : State := { s with channels := s.channels.set c { s.channels[c] with
           source := if h : natAt args 1 < 8 then some ⟨natAt args 1, h⟩ else none } }
         exec (.mapSet tag args) s = .next ((u.reconf c).replied tag 0x11#8 .ok []))) ∧
     (args.length = 3 → s.acceptsSetting tag 0x13#8 args →
       (7 < natAt args 0 ∨ natAt args 2 = 0 →
         exec (.channelSet tag args) s = .next (s.replied tag 0x13#8 .badArg [])) ∧
       (∀ c : Fin 8, c.val = natAt args 0 → natAt args 2 ≠ 0 →
         let mask := args.getD 1 0#8
         let u : State := { s with channels := s.channels.set c { s.channels[c] with
           mask := mask, threshold := natAt args 2 } }
         let t := if mask = s.channels[c].mask then u else u.reconf c
         exec (.channelSet tag args) s = .next (t.replied tag 0x13#8 .ok
           [mask, byteOf (natAt args 2), byteOf t.channels[c].framer.code, boolByte s.channels[c].noisy,
             byteOf s.channels[c].windowCount, byteOf s.channels[c].slots.length])))) ∧
  (∀ (c : Fin 8) (s : State),
     let t : State := { s with channels := s.channels.set c { s.channels[c] with framer := s.freshFramer c } }
     (s.reconf c = match s.channels[c].framer with
       | .body _ _ _ _ => t.bump (.reconf c)
       | _ => t) ∧
     (s.freshFramer c = .hunt 0#32 0 ↔
       (∃ p : Fin 8, s.channels[c].source = some p
         ∧ (s.ports[p].settings.mode = .nrz ∨ s.ports[p].settings.mode = .man))
       ∧ ∃ f : Fin 8, s.channels[c].mask.getLsbD f.val = true ∧ s.families[f].valid = true) ∧
     (s.freshFramer c = .hunt 0#32 0 ∨ s.freshFramer c = .off))

/-- R11, R12, R14: FAMILY SET. The model's choice: BAD_ARG for a valid byte above 1 (log 16). -/
def Obligations.FamilySetReplacesTheEntry : Prop :=
  ∀ (tag : Byte) (args : List Byte) (s : State), args.length = 17 → s.acceptsSetting tag 0x12#8 args →
    let B := natAt args 8
    let data := if natAt args 16 = 0 then B else B - 2
    let bad : Prop := 7 < natAt args 0 ∨ 1 < natAt args 1 ∨ (natAt args 1 = 1 ∧
      (natAt args 2 < 16 ∨ 32 < natAt args 2 ∨ 3 < natAt args 7 ∨ B < 6 ∨ 30 < B
        ∨ natAt args 10 < 2 ∨ 4 < natAt args 10 ∨ natAt args 12 = 0 ∨ 4 < natAt args 12 ∨ 1 < natAt args 13
        ∨ 2 < natAt args 16 ∨ data < natAt args 9 + natAt args 10 ∨ data < natAt args 11 + natAt args 12
        ∨ data ≤ natAt args 14))
    (bad → exec (.familySet tag args) s = .next (s.replied tag 0x12#8 .badArg [])) ∧
    (¬ bad → ∀ f : Fin 8, f.val = natAt args 0 →
      ((∃ (c g : Fin 8) (m v : Nat) (bits : List Bool), s.channels[c].framer = .body g m bits v ∧ g = f) →
        exec (.familySet tag args) s = .next (s.replied tag 0x12#8 .badState [])) ∧
      ((∀ (c g : Fin 8) (m v : Nat) (bits : List Bool), s.channels[c].framer = .body g m bits v → g ≠ f) →
        ∃ (fam : Family) (t : State), exec (.familySet tag args) s = .next (t.replied tag 0x12#8 .ok [])
          ∧ t = { s with families := s.families.set f fam, channels := t.channels, counters := t.counters }
          ∧ ((∀ (c g : Fin 8) (m v : Nat) (bits : List Bool), s.channels[c].framer = .body g m bits v →
              t.framerRuns c = true) → t.counters = s.counters)
          ∧ (natAt args 1 = 0 → fam = .invalid)
          ∧ (natAt args 1 = 1 → fam.valid = true ∧ fam.syncLen = natAt args 2
              ∧ fam.pattern = BitVec.ofNat 32 (numAt args 3 4 % 2 ^ natAt args 2) ∧ fam.tolerance = natAt args 7
              ∧ fam.bodyLen = B ∧ fam.idOffset = natAt args 9 ∧ fam.idLen = natAt args 10
              ∧ fam.valueOffset = natAt args 11 ∧ fam.valueLen = natAt args 12
              ∧ fam.encoding.code = natAt args 13 ∧ fam.indOffset = natAt args 14
              ∧ fam.indMask = args.getD 15 0#8 ∧ fam.crc.code = natAt args 16)
          ∧ ∀ c : Fin 8,
            (s.channels[c].framer = .off → t.channels[c] = { s.channels[c] with framer := t.freshFramer c }) ∧
            (∀ (w : Word) (n : Nat), s.channels[c].framer = .hunt w n →
              t.channels[c] = { s.channels[c] with framer := if t.framerRuns c then .hunt w n else .off }) ∧
            (∀ (g : Fin 8) (m v : Nat) (bits : List Bool), s.channels[c].framer = .body g m bits v →
              t.framerRuns c = true → t.channels[c] = s.channels[c])))

/-! ### The time base (chapter 2) -/

/-- R24, R25, R27 to R29: the end of a millisecond, which ends a run-clock second and the noise windows where the run
clock reaches a multiple of 1,000 ms. NOISE_WINDOW_END is that millisecond (log 4). -/
def Obligations.MillisecondMovesTheClocks : Prop :=
  ∀ s : State, s.powered = true →
    let wraps := 999 ≤ s.tb.todMs
    let tb : TimeBase := { s.tb with
      runClock := s.tb.runClock + 1,
      todMs := if wraps then 0 else s.tb.todMs + 1,
      todSeconds := if wraps then s.tb.todSeconds + 1 else s.tb.todSeconds }
    ((s.tb.runClock + 1).toNat % 1000 ≠ 0 → exec .runClockMillisecond s = .next { s with tb := tb }) ∧
    ((s.tb.runClock + 1).toNat % 1000 = 0 → ∃ t : State,
      exec .runClockMillisecond s = .next t ∧ exec .noiseWindowEnd s = .next t
      ∧ t = { s with tb := { tb with runSeconds := s.tb.runSeconds + 1 }, channels := t.channels }
      ∧ ∀ c : Fin 8, t.channels[c] = { s.channels[c] with
          windowCount := 0,
          noisy := s.channels[c].noisy && !decide (s.channels[c].windowCount < max 1 (s.channels[c].threshold / 2)) })

/-- R33 to R38: a rising edge on TPI; and PULSE_LOST, once the loss expiry is reached while the pulse is PRESENT. -/
def Obligations.PulseEdgesAndTheirLoss : Prop :=
  (∀ s : State, s.powered = true →
     let glitch : Prop := s.tb.present = true ∧ ∃ l, s.tb.lastEdge = some l ∧ (s.tb.runClock - l).toNat < 500
     let e : Int := if s.tb.todMs < 500 then (s.tb.todMs : Int) else (s.tb.todMs : Int) - 1000
     let t : State := { s with tb := { s.tb with
       lastEdge := some s.tb.runClock, lossExpiry := some (s.tb.runClock + 1500), present := true, snapshot := e } }
     let aligned (mode : PulseMode) : State :=
       let u : State := { t with tb := { t.tb with
         todMs := 0, todSeconds := if e < 0 then s.tb.todSeconds + 1 else s.tb.todSeconds, mode := mode } }
       if e = 0 then u else u.raise .timeStep (BitVec.ofInt 32 e)
     (s.tb.mode = .off → exec .tpiEdge s = .next s) ∧
     (s.tb.mode ≠ .off → glitch → exec .tpiEdge s = .next (s.bump .tpiGlitch)) ∧
     (¬ glitch →
       (s.tb.mode = .monitor → exec .tpiEdge s = .next
         (if s.tb.window < e.natAbs then t.raise .phaseOut (BitVec.ofInt 32 e) else t)) ∧
       (s.tb.mode = .continuous → exec .tpiEdge s = .next (if s.tb.window < e.natAbs then aligned .continuous else t)) ∧
       (s.tb.mode = .once → exec .tpiEdge s = .next (aligned .monitor)))) ∧
  (∀ (s : State) (e : Word), s.powered = true → s.tb.present = true → s.tb.lossExpiry = some e →
     (s.tb.runClock - e).toNat < 2 ^ 31 →
     ∃ t : State,
       exec .pulseLost s = .next t
       ∧ t = ({ s with tb := { s.tb with present := false, lossExpiry := none } }).raise .pulseLost 0#32
       ∧ exec .pulseLost t = .next t)

/-- R31, R32, R39: TIME SET, TIME READ and PULSE MODE. The reply widths are read by log 12. -/
def Obligations.TimeBaseCommands : Prop :=
  (∀ (tag : Byte) (args : List Byte) (s : State),
     (args.length = 6 → s.accepts tag 0x20#8 args →
       (999 < numAt args 4 2 → exec (.timeSet tag args) s = .next (s.replied tag 0x20#8 .badArg [])) ∧
       (numAt args 4 2 ≤ 999 → exec (.timeSet tag args) s = .next
         (({ s with tb := { s.tb with todSeconds := BitVec.ofNat 32 (numAt args 0 4), todMs := numAt args 4 2,
                                      timeValid := true } }).replied tag 0x20#8 .ok
           (beBytes 4 (numAt args 0 4) ++ beBytes 2 (numAt args 4 2) ++ beBytes 4 s.tb.runClock.toNat)))) ∧
     (s.takes tag 0x21#8 [] → exec (.timeRead tag []) s = .next (s.replied tag 0x21#8 .ok
       (beBytes 4 s.tb.runClock.toNat ++ beBytes 4 s.tb.todSeconds.toNat ++ beBytes 2 s.tb.todMs
         ++ [boolByte s.tb.timeValid, byteOf s.tb.mode.code, byteOf s.tb.window, if s.tb.present then 0#8 else 1#8]
         ++ signedBytes 2 s.tb.snapshot)))) ∧
  (∀ (tag m w : Byte) (s : State), s.acceptsSetting tag 0x22#8 [m, w] →
     (3 < m.toNat ∨ 250 < w.toNat → exec (.pulseMode tag [m, w]) s = .next (s.replied tag 0x22#8 .badArg [])) ∧
     (∀ mode : PulseMode, mode.code = m.toNat → w.toNat ≤ 250 →
       let tb : TimeBase :=
         if mode = .off ∨ s.tb.mode = .off then
           { s.tb with mode := mode, window := w.toNat, present := false, lastEdge := none, lossExpiry := none }
         else { s.tb with mode := mode, window := w.toNat }
       exec (.pulseMode tag [m, w]) s = .next (({ s with tb := tb }).replied tag 0x22#8 .ok
         ([m, w, if tb.present then 0#8 else 1#8] ++ signedBytes 2 s.tb.snapshot))))

/-! ### The route (chapter 3) -/

/-- R44: ROUTE CLEAR drops the tables and begins its erases; ROUTE_CLEAR_DONE is the last of the seventeen, or the
failure of the store. A step on an empty queue ends each of the sixteen before it (log 2). One erase for each sector,
and the failed answer taken at the row, are the model's choice (log 7, log 19). -/
def Obligations.RouteClearErasesTheDirectory : Prop :=
  ∀ (tag : Byte) (s : State),
    (s.accepts tag 0x30#8 [] →
      exec (.routeClear tag []) s = .next
        (if s.rm.state = .opened ∨ s.rm.state = .resuming then s.replied tag 0x30#8 .badState []
         else
          (({ s with
              tl := s.tl.holdFor tag 0x30#8 (.clear 17),
              rm := { s.rm with
                meterCount := 0, digest := 0#32, firstSerial := 0, openDay := 65535, built := false, status := [],
                segments := Vector.replicate 256 .empty, routeDone := false } }).request .longOp (.erase 1)).pump)) ∧
    (∀ n : Nat, 1 < n → n ≤ 17 → s.working 0x30#8 tag (.clear n) → s.inPort .longOp (.erase (18 - n)) →
      s.pending = [] →
      step s = .next (({ s with
        store := s.store.clear ((18 - n) * 65536) 65536, port := s.port.freed,
        tl := s.tl.workOn 0x30#8 tag (.clear (n - 1)) }).request .longOp (.erase (19 - n))).pump) ∧
    (s.working 0x30#8 tag (.clear 1) → s.inPort .longOp (.erase 17) →
      exec .routeClearDone s = .next ({ s with
        store := s.store.clear (17 * 65536) 65536, port := s.port.freed, rm := { s.rm with state := .loading },
        tl := s.tl.ended 0x30#8 tag .ok [] }).pump) ∧
    (∀ n : Nat, s.working 0x30#8 tag (.clear n) → s.unanswered .longOp →
      exec .routeClearDone s = .next ({ s with
        port := s.port.told .longOp, rm := { s.rm with state := .empty },
        tl := s.tl.ended 0x30#8 tag .storeFault [] }).pump)

/-- R45, R46: ROUTE LOAD in LOADING, and the ends of its probe reads and programs. What each refusal carries is read
by log 12; the model's choice: the failed answer taken at the row (log 19), and a first record that fails check 1 or 2
answered as a long operation that ends at once (log 38). -/
def Obligations.RouteLoadTakesRecordsInOrder : Prop :=
  ∀ (tag : Byte) (s : State),
    -- the next record, or the end of the command
    (∀ (rest : List (List Byte)) (written position : Nat) (w : Work), s.working 0x31#8 tag w →
      let counts := byteOf written :: beBytes 2 s.rm.meterCount
      let failed (rc : ReplyCode) : State := { s with tl := s.tl.ended 0x31#8 tag rc (counts ++ [byteOf position]) }
      s.loadNext rest written position = match rest with
        | [] => { s with tl := s.tl.ended 0x31#8 tag .ok counts }
        | r :: _ =>
          if ¬ (natAt r 4 ≤ 7 ∧ natAt r 5 ≤ 15 ∧ natAt r 7 ≤ 3 ∧ natAt r 8 ≤ 15 ∧ 4 ≤ natAt r 9 ∧ natAt r 9 ≤ 9
              ∧ numAt r 10 4 < 10 ^ natAt r 9) then
            failed .badArg
          else if 16384 ≤ s.rm.meterCount then
            failed .dirFull
          else
            ({ s with tl := s.tl.workOn 0x31#8 tag (.load rest written position 1) }).request .longOp
              (.read (bucketAddr (homeBucket (BitVec.ofNat 32 (numAt r 0 4)))) 256)) ∧
    -- the command
    (∀ args : List Byte, args.length = 1 + 32 * natAt args 0 → 1 ≤ natAt args 0 → natAt args 0 ≤ 30 →
      s.accepts tag 0x31#8 args →
      let rest := (List.range (natAt args 0)).map (fun i => slice args (1 + 32 * i) 32)
      exec (.routeLoad tag args) s = .next
        (if s.rm.state = .loading then
          (({ s with tl := s.tl.holdFor tag 0x31#8 (.load rest 0 1 1) }).loadNext rest 0 1).pump
         else s.replied tag 0x31#8 .badState [])) ∧
    -- the end of an operation
    (∀ (r : List Byte) (rest : List (List Byte)) (written position n : Nat),
      s.working 0x31#8 tag (.load (r :: rest) written position n) →
      (∀ (a : Nat) (bs : List Byte), s.inPort .longOp (.program a bs) →
        exec .routeLoadStoreOpDone s = .next (({ s with
          store := (StoreOp.program a bs).apply s.store, port := s.port.freed,
          rm := { s.rm with meterCount := s.rm.meterCount + 1 } }).loadNext rest (written + 1) (position + 1)).pump) ∧
      (∀ a len : Nat, s.inPort .longOp (.read a len) →
        let id : Word := BitVec.ofNat 32 (numAt r 0 4)
        let b := probeBucket id n
        let x := s.store.examine id b 8
        let t := ({ s with port := s.port.freed }).bump .dirCrc x.2
        let failed (rc : ReplyCode) : State :=
          { t with tl := s.tl.ended 0x31#8 tag rc (byteOf written :: beBytes 2 s.rm.meterCount ++ [byteOf position]) }
        exec .routeLoadStoreOpDone s = .next (match x.1 with
          | some (.found _) => failed .duplicate
          | some (.absent slot) => t.request .longOp (.program (bucketAddr b + slot * 32)
              (routeRecordBytes { routeRecordOf r with index := s.rm.meterCount }))
          | none =>
            if n < 4 then
              ({ t with tl := s.tl.workOn 0x31#8 tag (.load (r :: rest) written position (n + 1)) }).request .longOp
                (.read (bucketAddr (probeBucket id (n + 1))) 256)
            else failed .dirFull).pump) ∧
      (s.unanswered .longOp → exec .routeLoadStoreOpDone s = .next ({ s with
        port := s.port.told .longOp,
        tl := s.tl.ended 0x31#8 tag .storeFault (byteOf written :: beBytes 2 s.rm.meterCount) }).pump))

/-- R41: the home bucket and the bucket's place, and what an examination of a bucket's slots comes to: the first slot
that is erased or holds a valid record of the ID ends it, and the damaged slots before that are counted. -/
def Obligations.ProbeFollowsTheSlots : Prop :=
  ∀ (m : Memory) (id : Word) (b : Nat),
    let judged (k : Nat) : DirSlot := judgeDir (m.bytes (131072 + 256 * b + 32 * k) 32)
    let passes (k : Nat) : Prop := judged k = .damaged ∨ ∃ r : RouteRecord, judged k = .valid r ∧ r.meterId ≠ id
    let damagedBefore (k : Nat) : Nat := (List.range k).countP (fun j => decide (judged j = .damaged))
    homeBucket id = id.toNat * 2654435769 % 2 ^ 32 / 2 ^ 20 ∧ homeBucket id < 4096 ∧
    (∀ k : Nat, k < 8 → judged k = .erased → (∀ j, j < k → passes j) →
      m.examine id b 8 = (some (.absent k), damagedBefore k)) ∧
    (∀ (k : Nat) (r : RouteRecord), k < 8 → judged k = .valid r → r.meterId = id → (∀ j, j < k → passes j) →
      m.examine id b 8 = (some (.found r), damagedBefore k)) ∧
    ((∀ k : Nat, k < 8 → passes k) → m.examine id b 8 = (none, damagedBefore 8))

/-- R47, R48: ROUTE FINISH and ROUTE DIGEST, their commands and the ends of their reads. A refused finish carries the
valid records, the damaged slots and the valid records of each segment, laid out as log 13 says. What the records, the
damaged buckets and the digest of a store are, RouteOpenBuildsTheTables says. The model's choice: one read for each
sector (log 7), its end a step on an empty queue but for the last (log 2), the digest held before the header is written
(log 28), the failed answer taken at the row (log 19). -/
def Obligations.FinishAndDigestReadTheDirectory : Prop :=
  ∀ (tag : Byte) (s : State),
    (s.accepts tag 0x32#8 [] → exec (.routeFinish tag []) s = .next
      (if s.rm.state = .loading then
        (({ s with tl := s.tl.holdFor tag 0x32#8 (.finishRead 16) }).request .longOp (.read 131072 65536)).pump
       else s.replied tag 0x32#8 .badState [])) ∧
    (s.accepts tag 0x33#8 [] → exec (.routeDigest tag []) s = .next
      (if s.rm.state = .ready ∨ s.rm.state = .opened ∨ s.rm.state = .closed then
        (({ s with tl := s.tl.holdFor tag 0x33#8 (.digest 16) }).request .longOp (.read 131072 65536)).pump
       else s.replied tag 0x33#8 .badState [])) ∧
    (∀ n a len : Nat, 1 < n → n ≤ 16 → s.inPort .longOp (.read a len) → s.pending = [] →
      let next : StoreOp := .read ((19 - n) * 65536) 65536
      (s.working 0x32#8 tag (.finishRead n) → step s = .next (({ s with
        port := s.port.freed, tl := s.tl.workOn 0x32#8 tag (.finishRead (n - 1)) }).request .longOp next).pump) ∧
      (s.working 0x33#8 tag (.digest n) → step s = .next (({ s with
        port := s.port.freed, tl := s.tl.workOn 0x33#8 tag (.digest (n - 1)) }).request .longOp next).pump)) ∧
    (∀ a len : Nat, s.working 0x32#8 tag (.finishRead 1) → s.inPort .longOp (.read a len) →
      let records := s.store.routeRecords
      let damaged := s.store.damagedBuckets
      let t : State := { s with port := s.port.freed }
      let w := Work.finishHeader
        ((List.finRange 256).countP (fun seg => records.any (fun r => r.attrs.segment == seg)))
      let sealing : State :=
        { t with rm := { s.rm with digest := s.store.digest }, tl := s.tl.workOn 0x32#8 tag w }
      let whole : Prop := s.rm.meterCount ≠ 0 ∧ damaged = [] ∧ records.length = s.rm.meterCount
        ∧ ∀ i, i < s.rm.meterCount → ∃ r ∈ records, r.index = i
      (¬ whole → exec .routeFinishReadDone s = .next ({ t with
        tl := s.tl.ended 0x32#8 tag .badState (beBytes 2 records.length ++ beBytes 2 damaged.length
          ++ (List.range 256).flatMap (fun g =>
            beBytes 2 (records.countP (fun r : RouteRecord => r.attrs.segment.val == g)))) }).pump) ∧
      (whole → exec .routeFinishReadDone s = .next (sealing.request .longOp
        (sealing.headerOp ⟨.ready, s.rm.meterCount, s.store.digest, 0, 65535⟩)).pump)) ∧
    (∀ a len : Nat, s.working 0x33#8 tag (.digest 1) → s.inPort .longOp (.read a len) →
      exec .routeDigestDone s = .next ({ s with
        port := s.port.freed,
        tl := s.tl.ended 0x33#8 tag .ok (beBytes 4 s.store.digest.toNat ++ beBytes 4 s.rm.digest.toNat) }).pump) ∧
    (∀ n : Nat, s.working 0x32#8 tag (.finishRead n) → s.unanswered .longOp →
      exec .routeFinishReadDone s = .next ({ s with
        port := s.port.told .longOp, tl := s.tl.ended 0x32#8 tag .storeFault [] }).pump) ∧
    (∀ n : Nat, s.working 0x33#8 tag (.digest n) → s.unanswered .longOp →
      exec .routeDigestDone s = .next ({ s with
        port := s.port.told .longOp, tl := s.tl.ended 0x33#8 tag .storeFault (beBytes 4 s.rm.digest.toNat) }).pump)

/-- R40, R47, R49, R50: ROUTE OPEN and the end of its read: the tables built afresh from the records, or the refusal.
First what R40 says of a slot, and what the records, the damaged buckets and the digest of a store in canonical form
are: the slots of sectors 2 to 17 judged valid and damaged, and the CRC-32 of the 1,048,576 bytes. The end of each
sector's read counts the damaged slots of the sector and raises DIR_CRC for them. The model's choice: one read for each
sector (log 7), its end a step on an empty queue but for the last (log 2), the failed answer taken at the row (log 19).
-/
def Obligations.RouteOpenBuildsTheTables : Prop :=
  (∀ bs : List Byte, bs.length = 32 →
    let erased : Prop := ∀ b ∈ bs, b = 0xFF#8
    let agrees : Prop := beNat (bs.drop 30) = (crcK1 (bs.take 30)).toNat
    (erased → judgeDir bs = .erased) ∧ (¬ erased → agrees → judgeDir bs = .valid (routeRecordOf bs)) ∧
    (¬ erased → ¬ agrees → judgeDir bs = .damaged)) ∧
  (∀ m : Memory, m.wf →
    let judged (i : Nat) : DirSlot := judgeDir (m.bytes (131072 + 32 * i) 32)
    m.routeRecords = (List.range 32768).filterMap (fun i => match judged i with | .valid r => some r | _ => none) ∧
    m.damagedBuckets = (List.range 32768).filterMap (fun i => match judged i with | .damaged => some (i / 8) | _ => none) ∧
    m.digest = crc32 (m.bytes 131072 1048576)) ∧
  ∀ (tag : Byte) (s : State),
    let reported (sec : Nat) : State :=
      let found := s.store.damagedBuckets.filter (fun b => 2 + b / 256 == sec)
      found.foldl (fun t b => t.raise .dirCrc (BitVec.ofNat 32 b))
        (({ s with port := s.port.freed }).bump .dirCrc found.length)
    (s.accepts tag 0x34#8 [] → exec (.routeOpen tag []) s = .next
      (if s.rm.state = .ready ∨ s.rm.state = .closed then
        (({ s with tl := s.tl.holdFor tag 0x34#8 (.openRead 16) }).request .longOp (.read 131072 65536)).pump
       else s.replied tag 0x34#8 .badState [])) ∧
    (∀ n a len : Nat, 1 < n → n ≤ 16 → s.working 0x34#8 tag (.openRead n) → s.inPort .longOp (.read a len) →
      s.pending = [] →
      let t := reported (18 - n)
      step s = .next (({ t with tl := t.tl.workOn 0x34#8 tag (.openRead (n - 1)) }).request .longOp
        (.read ((19 - n) * 65536) 65536)).pump) ∧
    (∀ a len : Nat, s.working 0x34#8 tag (.openRead 1) → s.inPort .longOp (.read a len) →
      let records := s.store.routeRecords
      let damaged := s.store.damagedBuckets
      let t := reported 17
      (¬ (damaged = [] ∧ records.length = s.rm.meterCount ∧ ∀ i, i < s.rm.meterCount → ∃ r ∈ records, r.index = i) →
        exec .routeOpenReadDone s = .next ({ t with
          rm := { s.rm with built := false },
          tl := t.tl.ended 0x34#8 tag .badState (beBytes 2 damaged.length) }).pump) ∧
      (damaged = [] → records.length = s.rm.meterCount → (∀ i, i < s.rm.meterCount → ∃ r ∈ records, r.index = i) →
        let day := if s.tb.timeValid then s.tb.todSeconds.toNat / 86400 else 65535
        ∃ (status : List StatusEntry) (segments : Vector SegmentEntry 256),
          let u : State := { t with
            rm := { s.rm with status := status, segments := segments, routeDone := false, built := false },
            tl := s.tl.workOn 0x34#8 tag (.openHeader s.journal.nextSerial day) }
          exec .routeOpenReadDone s = .next (u.request .longOp
            (u.headerOp ⟨.opened, s.rm.meterCount, s.rm.digest, s.journal.nextSerial, day⟩)).pump
          ∧ status.length = s.rm.meterCount
          ∧ (∀ r ∈ records, status[r.index]? = some ⟨r.meterId, r.attrs.segment,
              if s.cl.utilities.getLsbD r.attrs.utility then .unread else .excluded, none, none⟩)
          ∧ ∀ seg : Fin 256, segments[seg] = ⟨status.countP (·.segment == seg),
              status.countP (fun e => e.segment == seg && e.status == .excluded), 0, 0, false⟩)) ∧
    (∀ n : Nat, s.working 0x34#8 tag (.openRead n) → s.unanswered .longOp →
      exec .routeOpenReadDone s = .next ({ s with
        port := s.port.told .longOp, rm := { s.rm with built := false },
        tl := s.tl.ended 0x34#8 tag .storeFault [] }).pump)

/-- R42, R47, R50, R55, R57: the latest header, where the next one goes, the erase of a full header sector, and
ROUTE_HEADER_WRITE_DONE, for each work that writes a header, and its failure. The model's choice: the digest back at 0
after a failed finish (log 28), the erase ended by a step on an empty queue (log 2), the erase of a sector whose slot
2,047 is not erased but a lower one is (log 42), the failed answer taken at the row (log 19), CLOSED entered at the end
of a close's program (log 43). -/
def Obligations.HeaderWritesMoveTheRouteState : Prop :=
  ∀ (tag : Byte) (s : State), s.startup ≠ .resumeClose →
    (s.storeOk →
      let slot (i : Nat) : List Byte := s.store.bytes (65536 + 32 * i) 32
      (∀ (i : Nat) (h : RouteHeader), i < 2048 → headerOf? (slot i) = some h →
        (∀ j, i < j → j < 2048 → headerOf? (slot j) = none) → s.store.latestHeader = some h) ∧
      ((∀ i, i < 2048 → headerOf? (slot i) = none) → s.store.latestHeader = none) ∧
      (∀ h : RouteHeader,
        ((∀ i, i < 2048 → erasedBytes (slot i) = true) → s.headerOp h = .program 65536 (headerBytes h)) ∧
        ∀ i, i < 2048 → erasedBytes (slot i) = false → (∀ j, i < j → j < 2048 → erasedBytes (slot j) = true) →
          s.headerOp h = if i = 2047 then .erase 1 else .program (65536 + 32 * (i + 1)) (headerBytes h))) ∧
    (s.inPort .longOp (.erase 1) → s.pending = [] →
      let t : State := { s with store := s.store.clear 65536 65536, port := s.port.freed }
      let written (h : RouteHeader) : Host.Outcome State Fault Refusal :=
        .next (t.request .longOp (.program 65536 (headerBytes h))).pump
      let r := s.rm
      (∀ segments : Nat, s.working 0x32#8 tag (.finishHeader segments) →
        step s = written ⟨.ready, r.meterCount, r.digest, 0, 65535⟩) ∧
      (∀ serial day : Nat, s.working 0x34#8 tag (.openHeader serial day) →
        step s = written ⟨.opened, r.meterCount, r.digest, serial, day⟩) ∧
      (s.working 0x35#8 tag .closeHeader →
        step s = written ⟨.closed, r.meterCount, r.digest, r.firstSerial, r.openDay⟩)) ∧
    (∀ (a : Nat) (bs : List Byte), s.inPort .longOp (.program a bs) →
      let t : State := { s with store := (StoreOp.program a bs).apply s.store, port := s.port.freed }
      (∀ segments : Nat, s.working 0x32#8 tag (.finishHeader segments) →
        exec .routeHeaderWriteDone s = .next ({ t with
          rm := { s.rm with state := .ready, firstSerial := 0, openDay := 65535 },
          tl := s.tl.ended 0x32#8 tag .ok
            (beBytes 2 s.rm.meterCount ++ beBytes 4 s.rm.digest.toNat ++ beBytes 2 segments) }).pump) ∧
      (∀ serial day : Nat, s.working 0x34#8 tag (.openHeader serial day) →
        exec .routeHeaderWriteDone s = .next ({ t with
          rm := { s.rm with state := .opened, built := true, firstSerial := serial, openDay := day },
          tl := s.tl.ended 0x34#8 tag .ok (beBytes 4 serial ++ beBytes 2 day ++ beBytes 2 s.rm.meterCount
            ++ beBytes 2 (s.rm.total (fun g => g.meters - g.excluded))) }).pump) ∧
      (s.working 0x35#8 tag .closeHeader →
        exec .routeHeaderWriteDone s = .next ({ t with
          rm := { s.rm with state := .closed }, tl := s.tl.workOn 0x35#8 tag (.closeEnd true) }).pump)) ∧
    (s.unanswered .longOp →
      (∀ segments : Nat, s.working 0x32#8 tag (.finishHeader segments) →
        exec .routeHeaderWriteDone s = .next ({ s with
          port := s.port.told .longOp, rm := { s.rm with digest := 0#32 },
          tl := s.tl.ended 0x32#8 tag .storeFault [] }).pump) ∧
      (∀ serial day : Nat, s.working 0x34#8 tag (.openHeader serial day) →
        exec .routeHeaderWriteDone s = .next ({ s with
          port := s.port.told .longOp, rm := { s.rm with built := false },
          tl := s.tl.ended 0x34#8 tag .storeFault [] }).pump) ∧
      (s.working 0x35#8 tag .closeHeader →
        exec .routeHeaderWriteDone s = .next ({ s with
          port := s.port.told .longOp, tl := s.tl.workOn 0x35#8 tag (.closeEnd false) }).pump))

/-- R55, R56, R107: ROUTE CLOSE stops the classifier, commits every merge entry once no walk is pending and no frame
held, in ascending order of expiry, writes the CLOSED header, empties the cache and lets the classifier resume. A store
that is FAILED by then makes the reply STORE_FAULT. The last step acts whatever holds the port: an operation with a row
of its own stays in it, any other ends first (log 2). CLOSED before the cache is emptied (log 43) and the failed answer
taken at the row (log 19) are the model's choice. -/
def Obligations.RouteCloseRunsItsSteps : Prop :=
  (∀ (n : Nat) (s : State),
    (∀ i : Fin 32, earliestEntry (fun _ => true) s.mc.table = some i →
      State.commitAll (n + 1) s = State.commitAll n (s.commit i false).1) ∧
    ((∀ i : Fin 32, s.mc.table[i] = none) → State.commitAll n s = s)) ∧
  ∀ (tag : Byte) (s : State),
    let totals (r : RouteManager) := beBytes 2 r.meterCount ++ beBytes 2 (r.total (fun g => g.meters - g.excluded))
      ++ beBytes 2 (r.total (·.read)) ++ beBytes 2 (r.total (·.flagged))
    let closed (v : State) (store : Memory) (port : StorePort) (rc : ReplyCode) : Host.Outcome State Fault Refusal :=
      .next ({ v with
        store := store, port := port, rm := { v.rm with state := .closed },
        cl := { v.cl with cache := Vector.replicate 64 none, stopped := false },
        tl := v.tl.ended 0x35#8 tag rc (totals v.rm) }).pump
    (s.accepts tag 0x35#8 [] → exec (.routeClose tag []) s = .next
      (if s.rm.state = .opened then
        { s with cl := { s.cl with stopped := true }, tl := s.tl.holdFor tag 0x35#8 .closeWalks }
       else s.replied tag 0x35#8 .badState [])) ∧
    (s.working 0x35#8 tag .closeWalks → (∀ w : Fin 4, s.cl.walks[w] = none) → s.cl.held = none →
      let u := State.commitAll 32 s
      let t : State := { u with tl := u.tl.workOn 0x35#8 tag .closeHeader }
      exec .routeCloseWalksEnded s = .next
          (t.request .longOp (t.headerOp ⟨.closed, s.rm.meterCount, s.rm.digest, s.rm.firstSerial, s.rm.openDay⟩)).pump
        ∧ (∀ e : Fin 32, t.mc.table[e] = none) ∧ t.rm.state = s.rm.state ∧ t.store = s.store ∧ t.port = s.port
        ∧ t.cl = s.cl) ∧
    (s.ownRow → s.settled = s) ∧
    (∀ stored : Bool, s.settled.working 0x35#8 tag (.closeEnd stored) →
      exec .routeCloseDone s = closed s.settled s.settled.store s.settled.port
        (if stored = true ∧ s.settled.storeFailed = false then .ok else .storeFault)) ∧
    (s.working 0x35#8 tag .closeHeader →
      (∀ (a : Nat) (bs : List Byte), s.inPort .longOp (.program a bs) →
        exec .routeCloseDone s = closed s ((StoreOp.program a bs).apply s.store) s.port.freed
          (if s.storeFailed then .storeFault else .ok)) ∧
      (s.unanswered .longOp → exec .routeCloseDone s = closed s s.store (s.port.told .longOp) .storeFault))

/-- R60: ROUTE QUERY and the ends of its bucket reads. A record without a status entry is the model's choice (log
29), and so are the directory bucket as the detail of DIR_CRC (log 46) and the answer of failure taken at the row (log
19). -/
def Obligations.RouteQueryProbesAndReports : Prop :=
  ∀ (tag : Byte) (s : State),
    (∀ args : List Byte, args.length = 4 → s.accepts tag 0x36#8 args →
      let id : Word := BitVec.ofNat 32 (numAt args 0 4)
      exec (.routeQuery tag args) s = .next
        (if s.rm.state = .opened ∨ (s.rm.state = .closed ∧ s.rm.built = true) then
          (({ s with tl := s.tl.holdFor tag 0x36#8 (.query id 1) }).request .query
            (.read (bucketAddr (homeBucket id)) 256)).pump
         else s.replied tag 0x36#8 .badState [])) ∧
    (∀ (id : Word) (n a len : Nat), s.working 0x36#8 tag (.query id n) → s.inPort .query (.read a len) →
      let b := probeBucket id n
      let x := s.store.examine id b 8
      let u := ({ s with port := s.port.freed }).bump .dirCrc x.2
      let t := if 0 < x.2 then u.raise .dirCrc (BitVec.ofNat 32 b) else u
      let done (rc : ReplyCode) (rs : List Byte) : State := { t with tl := t.tl.ended 0x36#8 tag rc rs }
      let orNone (v : Option Nat) : List Byte := match v with
        | some x => beBytes 4 x
        | none => [0xFF#8, 0xFF#8, 0xFF#8, 0xFF#8]
      exec .routeQueryReadDone s = .next (match x.1 with
        | some (.found r) =>
          let a := r.attrs
          let e : StatusEntry := (s.rm.status[r.index]?).getD ⟨r.meterId, a.segment, .unread, none, none⟩
          done .ok (beBytes 2 r.index
            ++ [byteOf a.family, byteOf a.utility, byteOf a.segment.val, byteOf a.cls.code, byteOf a.rule, byteOf a.digits]
            ++ beBytes 4 a.prior ++ beBytes 2 a.priorDay
            ++ [byteOf e.status.code] ++ orNone e.lastValue ++ orNone (e.lastCommit.map (fun w : Word => w.toNat)))
        | some (.absent _) => done .unknown []
        | none =>
          if n < 4 then
            ({ t with tl := t.tl.workOn 0x36#8 tag (.query id (n + 1)) }).request .query
              (.read (bucketAddr (probeBucket id (n + 1))) 256)
          else done .unknown []).pump) ∧
    (∀ (id : Word) (n : Nat), s.working 0x36#8 tag (.query id n) → s.unanswered .query →
      exec .routeQueryReadDone s = .next ({ s with
        port := s.port.told .query, tl := s.tl.ended 0x36#8 tag .storeFault [] }).pump)

/-- R61: SEGMENT READ. -/
def Obligations.SegmentReadAnswersTheCounts : Prop :=
  ∀ (tag a : Byte) (s : State), s.accepts tag 0x37#8 [a] →
    let g := s.rm.segments[a.toFin]
    exec (.segmentRead tag [a]) s = .next
      (if s.rm.state = .opened ∨ (s.rm.state = .closed ∧ s.rm.built = true) then
        s.replied tag 0x37#8 .ok (beBytes 2 g.meters ++ beBytes 2 g.excluded ++ beBytes 2 g.read ++ beBytes 2 g.flagged
          ++ [boolByte g.done, byteOf s.rm.state.code] ++ beBytes 2 s.rm.meterCount ++ beBytes 4 s.rm.firstSerial
          ++ beBytes 2 s.rm.openDay ++ [boolByte s.rm.routeDone])
       else s.replied tag 0x37#8 .badState [])

/-- R62: UNREAD LIST reports exactly the first hundred of the segment's entries, from the start index on, that are
UNREAD or UNSTORED, and where to go on. One count byte stands before the list (log 12). -/
def Obligations.UnreadListReportsInOrder : Prop :=
  ∀ (tag a b c : Byte) (s : State), s.accepts tag 0x38#8 [a, b, c] →
    let start := b.toNat * 256 + c.toNat
    (16383 < start → exec (.unreadList tag [a, b, c]) s = .next (s.replied tag 0x38#8 .badArg [])) ∧
    (start ≤ 16383 → ¬ (s.rm.state = .opened ∨ (s.rm.state = .closed ∧ s.rm.built = true)) →
      exec (.unreadList tag [a, b, c]) s = .next (s.replied tag 0x38#8 .badState [])) ∧
    (start ≤ 16383 → (s.rm.state = .opened ∨ (s.rm.state = .closed ∧ s.rm.built = true)) →
      ∃ list : List (StatusEntry × Nat), ∃ next : Option Nat,
        exec (.unreadList tag [a, b, c]) s = .next (s.replied tag 0x38#8 .ok
          (byteOf list.length :: list.flatMap (fun p => beBytes 4 p.1.meterId.toNat ++ beBytes 2 p.2)
            ++ (match next with | some n => beBytes 2 n | none => [0xFF#8, 0xFF#8])))
        ∧ list.length ≤ 100 ∧ list.Pairwise (fun p q => p.2 < q.2)
        ∧ (∀ p ∈ list, s.rm.status[p.2]? = some p.1)
        ∧ (∀ n, next = some n ↔
            list.length = 100 ∧ list.getLast?.map (fun p => p.2 + 1) = some n ∧ n < s.rm.meterCount)
        ∧ ∀ (i : Nat) (e : StatusEntry), s.rm.status[i]? = some e →
          ((e, i) ∈ list ↔ start ≤ i ∧ i < s.rm.meterCount ∧ (∀ n, next = some n → i < n) ∧ e.segment.val = a.toNat
            ∧ (e.status = .unread ∨ e.status = .unstored)))

/-- R52 to R54, R105, R180: a status change moves the counts of the entry's segment; the segment becomes done when its
read count reaches an active count that is not 0, and the route when every such segment is done. A COMPLETION notice is
queued where its bit of the event mask is set, 14 for a segment and 15 for the route; a full notice queue drops it. -/
def Obligations.StatusChangesMoveTheSegment : Prop :=
  (∀ (route : Bool) (n : Notice) (s : State),
    let bit : Nat := if route then 15 else 14
    let t := s.queueCompletion route n
    (s.tl.mask.getLsbD bit = false → t = s) ∧
    (s.tl.mask.getLsbD bit = true → s.tl.notices.length < 16 →
      t = { s with tl := { s.tl with notices := s.tl.notices ++ [n] } }) ∧
    (s.tl.mask.getLsbD bit = true → 16 ≤ s.tl.notices.length →
      t = ({ s with tl := { s.tl with overrun := true } }).bump .noticeDrop)) ∧
  ∀ (seg : Fin 256) (before after : MeterStatus) (s : State),
    let g := s.rm.segments[seg]
    let move (read flagged : Nat) : SegmentEntry := { g with read := g.read + read, flagged := g.flagged + flagged }
    let reached (g' : SegmentEntry) : Prop :=
      g'.read = g'.meters - g'.excluded ∧ g'.meters - g'.excluded ≠ 0 ∧ g'.done = false
    let put (g' : SegmentEntry) : State := { s with rm := { s.rm with segments := s.rm.segments.set seg g' } }
    let t := s.moveSegment seg before after
    (before = after → t = s) ∧
    (∀ g' : SegmentEntry, before ≠ after →
      g' = (match before, after with
        | .unread, .read | .unstored, .read => move 1 0
        | .unread, .flagged | .unstored, .flagged => move 1 1
        | .read, .flagged => move 0 1
        | _, _ => g) →
      (before = .unread ∧ (after = .read ∨ after = .flagged ∨ after = .unstored)
        ∨ before = .unstored ∧ (after = .read ∨ after = .flagged) ∨ before = .read ∧ after = .flagged) →
      (¬ reached g' → t = put g') ∧
      (reached g' →
        let u := (put { g' with done := true }).queueCompletion false
          (.completion false seg.val g.meters g.excluded g'.read g'.flagged)
        let all : Prop := ∀ i : Fin 256, u.rm.segments[i].meters - u.rm.segments[i].excluded = 0
          ∨ u.rm.segments[i].done = true
        (¬ (all ∧ s.rm.routeDone = false) → t = u) ∧
        (all → s.rm.routeDone = false →
          t = ({ u with rm := { u.rm with routeDone := true } }).queueCompletion true
            (.completion true 0 s.rm.meterCount (u.rm.total (fun g => g.meters - g.excluded)) (u.rm.total (·.read))
              (u.rm.total (·.flagged))))))

/-- R43, R57 to R59: the start-up path from the route header on: no header or a failed store leaves the route EMPTY, a
READY or CLOSED header is taken, an OPEN one begins the resume, whose rebuild counts damaged slots sector by sector,
whose replay takes the journal slot by slot, and which ends in OPEN or in CLOSED. The model's choice: sector and slot
reads (log 7), ended by a step on an empty queue but for the last (log 2), the failed answer taken at the row (log 19),
CLOSED where the store fails during the header write of a resume (log 37), OPEN where it fails when the last read of the
replay has ended (log 45). What the records and the damaged buckets of a store are, RouteOpenBuildsTheTables says. -/
def Obligations.StartUpTakesTheRouteHeader : Prop :=
  ∀ s : State,
    let freed : State := { s with port := s.port.freed }
    let told : State := { s with port := s.port.told .startup }
    let closed (t : State) : State := { t with startup := .over, rm := { t.rm with
      state := .closed, built := false, status := [], segments := Vector.replicate 256 .empty, routeDone := false } }
    let reported (sec : Nat) : State :=
      let found := s.store.damagedBuckets.filter (fun b => 2 + b / 256 == sec)
      found.foldl (fun t b => t.raise .dirCrc (BitVec.ofNat 32 b)) (freed.bump .dirCrc found.length)
    let shut : RouteHeader := ⟨.closed, s.rm.meterCount, s.rm.digest, s.rm.firstSerial, s.rm.openDay⟩
    (s.startsAt .headerRead →
      let empty (t : State) : State := { t with startup := .over, rm := { t.rm with
        state := .empty, meterCount := 0, digest := 0#32, firstSerial := 0, openDay := 65535 } }
      (s.unanswered .startup → exec .routeHeaderReadDone s = .next (empty told).pump) ∧
      (∀ a len : Nat, s.inPort .startup (.read a len) →
        (s.store.latestHeader = none → exec .routeHeaderReadDone s = .next (empty freed).pump) ∧
        (∀ h : RouteHeader, s.store.latestHeader = some h →
          let rm : RouteManager := { s.rm with
            meterCount := h.meterCount, digest := h.digest, firstSerial := h.firstSerial, openDay := h.openDay }
          exec .routeHeaderReadDone s = .next (if h.state = .opened then
              (({ freed with rm := rm, startup := .rebuild 16 }).request .startup (.read 131072 65536)).pump
            else ({ freed with rm := { rm with state := h.state }, startup := .over }).pump)))) ∧
    -- the rebuild
    (∀ n : Nat, s.startsAt (.rebuild n) → s.unanswered .startup → exec .resumeRebuildDone s = .next (closed told).pump) ∧
    (∀ n a len : Nat, 1 < n → n ≤ 16 → s.startsAt (.rebuild n) → s.inPort .startup (.read a len) → s.pending = [] →
      step s = .next (({ reported (18 - n) with startup := .rebuild (n - 1) }).request .startup
        (.read ((19 - n) * 65536) 65536)).pump) ∧
    (s.startsAt (.rebuild 1) → ∀ a len : Nat, s.inPort .startup (.read a len) →
      let t := reported 17
      exec .resumeRebuildDone s = .next (if t.directoryWhole then (t.buildTables.replayNext t.journal.tail 1 0 0).pump
        else (({ t with startup := .resumeClose }).request .startup (t.headerOp shut)).pump)) ∧
    -- the replay
    (∀ sec slot replayed skipped : Nat,
      let at_ := if s.journal.inSpan sec then s.skipHoles 494 (sec, slot) else s.skipHoles 494 (s.journal.tail, 1)
      let t : State := { s with startup := .replay at_.1 at_.2 replayed skipped }
      s.replayNext sec slot replayed skipped =
        if s.journal.outside at_.1 at_.2 then t else t.request .startup (.read (at_.1 * 65536 + at_.2 * 32) 32)) ∧
    (∀ sec slot replayed skipped a len : Nat, s.startsAt (.replay sec slot replayed skipped) →
      s.inPort .startup (.read a len) → s.pending = [] →
      let on (t : State) (r k : Nat) : Host.Outcome State Fault Refusal :=
        .next (t.replayNext (s.journal.after sec slot).1 (s.journal.after sec slot).2 r k).pump
      let read := judgeJournal (s.store.bytes (sec * 65536 + slot * 32) 32)
      ((∀ bs : List Byte, read ≠ .valid bs) → step s = on freed replayed skipped) ∧
      (∀ bs : List Byte, read = .valid bs →
        (recSerial bs < s.rm.firstSerial ∨ recIndex bs = 65535 → step s = on freed replayed skipped) ∧
        (s.rm.firstSerial ≤ recSerial bs → recIndex bs ≠ 65535 →
          let fits (e : StatusEntry) : Prop := s.rm.status[recIndex bs]? = some e ∧ recIndex bs < s.rm.meterCount
            ∧ e.meterId = recMeter bs ∧ e.status ≠ .excluded
          (∀ e : StatusEntry, fits e →
            let e' : StatusEntry := { e with
              status := if recFlags bs &&& 0x003F#16 ≠ 0#16 ∨ e.status = .flagged then .flagged else .read,
              lastValue := some (recValue bs), lastCommit := none }
            step s = on { freed with rm := { s.rm with status := s.rm.status.set (recIndex bs) e' } }
              (replayed + 1) skipped) ∧
          ((∀ e : StatusEntry, ¬ fits e) → step s = on (freed.bump .replaySkip) (replayed + 1) (skipped + 1))))) ∧
    (s.ownRow → s.settled = s) ∧
    (let v := s.settled
     ∀ sec slot replayed skipped : Nat, v.startsAt (.replay sec slot replayed skipped) →
      let failed : Prop := Client.startup ∈ v.port.failed
      (failed → exec .journalReplayDone s = .next (closed { v with port := v.port.told .startup }).pump) ∧
      (¬ failed → v.port.outstanding .startup = true → exec .journalReplayDone s = .next s) ∧
      (¬ failed → v.port.outstanding .startup = false →
        ∃ segments : Vector SegmentEntry 256,
          let done : Bool := (segments.toList.all (fun g => g.meters - g.excluded == 0 || g.done))
            && segments.toList.any (·.done)
          exec .journalReplayDone s = .next ((({ v with startup := .over, rm := { v.rm with
              state := .opened, built := true, segments := segments, routeDone := done } }).raise .routeResumed
            (BitVec.ofNat 32 (replayed - skipped)))).pump
          ∧ ∀ seg : Fin 256,
            let mine := v.rm.status.filter (fun e => e.segment == seg)
            let excluded := mine.countP (fun e => e.status == .excluded)
            let read := mine.countP (fun e => e.status == .read || e.status == .flagged)
            segments[seg] = ⟨mine.length, excluded, read, mine.countP (fun e => e.status == .flagged),
              decide (read = mine.length - excluded ∧ mine.length - excluded ≠ 0)⟩)) ∧
    -- the CLOSED header of a resume that cannot go on
    (s.startsAt .resumeClose →
      (s.unanswered .startup → exec .routeHeaderWriteDone s = .next (closed told).pump) ∧
      (s.inPort .startup (.erase 1) → s.pending = [] →
        step s = .next (({ freed with store := s.store.clear 65536 65536 }).request .startup
          (.program 65536 (headerBytes shut))).pump) ∧
      (∀ (a : Nat) (bs : List Byte), s.inPort .startup (.program a bs) →
        exec .routeHeaderWriteDone s = .next
          (closed { freed with store := (StoreOp.program a bs).apply s.store }).pump))

/-! ### Lookup, route cache and walks (chapter 4) -/

/-- R63, R64, R82: FRAME_TAKE. The free classifier decides the frame of an ended stall first, then, unless ROUTE CLOSE
has stopped it, the oldest record of the first channel after the one served last that holds one. The model's
choice: no frame is decided while a walk in DONE waits (log 36). -/
def Obligations.FrameTakeServesTheChannelsInTurn : Prop :=
  ∀ s : State, s.powered = true →
    let free : Prop := s.cl.stalled = false ∧ s.rm.state ≠ .resuming
      ∧ ∀ (w : Fin 4) (k : Walk), s.cl.walks[w] = some k → k.outcome = none
    (¬ free → exec .frameTake s = .next s) ∧
    (free →
      (∀ fr : FrameRecord, s.cl.held = some fr →
        exec .frameTake s = .next (({ s with cl := { s.cl with held := none } }).classify fr).pump) ∧
      (s.cl.held = none → (s.cl.stopped = true ∨ ∀ c : Fin 8, s.channels[c].slots = []) →
        exec .frameTake s = .next s.pump) ∧
      (s.cl.held = none → s.cl.stopped = false →
        ∀ (i : Fin 8) (fr : FrameRecord) (rest : List FrameRecord),
          (∀ j : Fin 8, j < i → s.channels[s.cl.lastServed + 1 + j].slots = []) →
          s.channels[s.cl.lastServed + 1 + i].slots = fr :: rest →
          let c := s.cl.lastServed + 1 + i
          exec .frameTake s = .next (({ s with
            channels := s.channels.set c { s.channels[c] with slots := rest },
            cl := { s.cl with lastServed := c } }).classify fr).pump))

/-- R66, R67, R69, R70, R79, R81, R82: how a frame is decided. The free hold buffer a walk's first frame takes is the
model's choice (log 30). -/
def Obligations.ClassifierDecidesByTheFirstThatApplies : Prop :=
  ∀ (fr : FrameRecord) (s : State),
    let id := fr.meterId
    let inRange (n : Fin 8) (mode : RangeMode) : Prop := s.cl.ranges[n].valid = true ∧ s.cl.ranges[n].mode = mode
      ∧ id.toNat / 2 ^ s.cl.ranges[n].k * 2 ^ s.cl.ranges[n].k = s.cl.ranges[n].base.toNat
    let attrs (n : Fin 8) : RangeAttrs :=
      ⟨s.cl.ranges[n].family, s.cl.ranges[n].utility, s.cl.ranges[n].cls, s.cl.ranges[n].rule⟩
    let handed (t : State) (src : Source) : State := t.handOn fr src
    let foreign (t : State) : State :=
      if s.cl.policy = .drop then t.bump .foreignDrop else t.receive fr .foreign false
    -- the route is not OPEN
    (s.rm.state ≠ .opened →
      (∀ n : Fin 8, (inRange n .direct ∨ inRange n .fallback) →
        (∀ m : Fin 8, m < n → ¬ (inRange m .direct ∨ inRange m .fallback)) →
        s.classify fr = handed s (.range n (attrs n))) ∧
      ((∀ n : Fin 8, ¬ (inRange n .direct ∨ inRange n .fallback)) → s.classify fr = foreign s)) ∧
    -- the route is OPEN
    (s.rm.state = .opened →
      (∀ n : Fin 8, inRange n .direct → (∀ m : Fin 8, m < n → ¬ inRange m .direct) →
        s.classify fr = handed s (.range n (attrs n))) ∧
      ((∀ n : Fin 8, ¬ inRange n .direct) →
        (∀ (i : Fin 64) (e : CacheEntry), s.cl.cache[i] = some e → e.meterId = id →
          (∀ j : Fin 64, ∀ e' : CacheEntry, s.cl.cache[j] = some e' → e'.meterId = id → i ≤ j) →
          (∀ (n : Nat) (a : RouteAttrs), e.kind = .route n a →
            s.classify fr = handed (s.cacheHit i e) (.route n a)) ∧
          (e.kind = .foreign →
            (∀ n : Fin 8, inRange n .fallback → (∀ m : Fin 8, m < n → ¬ inRange m .fallback) →
              s.classify fr = handed (s.cacheHit i e) (.range n (attrs n))) ∧
            ((∀ n : Fin 8, ¬ inRange n .fallback) → s.classify fr = foreign (s.cacheHit i e)))) ∧
        ((∀ (i : Fin 64) (e : CacheEntry), s.cl.cache[i] = some e → e.meterId ≠ id) →
          (∀ (w : Fin 4) (k : Walk), s.cl.walks[w] = some k → k.meterId = id →
            (∀ v : Fin 4, v < w → ∀ k', s.cl.walks[v] = some k' → k'.meterId ≠ id) →
            (∀ b : Fin 16, s.cl.pool[b] = none → (∀ b' : Fin 16, b' < b → s.cl.pool[b'] ≠ none) →
              k.waiting.length < 8 →
              s.classify fr = { s with cl := { s.cl with
                pool := s.cl.pool.set b (some fr),
                walks := s.cl.walks.set w (some { k with waiting := k.waiting ++ [b] }) } }) ∧
            ((8 ≤ k.waiting.length ∨ ∀ b : Fin 16, s.cl.pool[b] ≠ none) → s.classify fr = s.bump .joinDrop)) ∧
          ((∀ (w : Fin 4) (k : Walk), s.cl.walks[w] = some k → k.meterId ≠ id) →
            (∀ (w : Fin 4) (b : Fin 16), s.cl.walks[w] = none → (∀ v : Fin 4, v < w → s.cl.walks[v] ≠ none) →
              s.cl.pool[b] = none → (∀ b' : Fin 16, b' < b → s.cl.pool[b'] ≠ none) →
              s.classify fr = ((({ s with cl := { s.cl with
                pool := s.cl.pool.set b (some fr),
                walks := s.cl.walks.set w (some ⟨id, homeBucket id, 1, none, [b]⟩) } }).bump .walks).request
                  (.walk w) (.read (bucketAddr (homeBucket id)) 256))) ∧
            (((∀ w : Fin 4, s.cl.walks[w] ≠ none) ∨ ∀ b : Fin 16, s.cl.pool[b] ≠ none) →
              s.classify fr = ({ s with cl := { s.cl with stalled := true, held := some fr } }).bump .stalls))))) ∧
    -- the utility check
    (∀ (n : Fin 8) (a : RangeAttrs), s.handOn fr (.range n a) =
      if s.cl.utilities.getLsbD a.utility then s.receive fr (.range n a) false else s.bump .withheld) ∧
    (∀ (i : Nat) (a : RouteAttrs), s.handOn fr (.route i a) =
      if s.cl.utilities.getLsbD a.utility = true ∧ (∀ e, s.rm.status[i]? = some e → e.status ≠ .excluded) then
        s.receive fr (.route i a) false
      else s.bump .withheld)

/-- R80: BUCKET_READ_DONE examines the bucket of the walk whose read ends. That the detail of DIR_CRC is the directory
bucket, and not the walk's own bucket number, is the model's choice (log 46). -/
def Obligations.BucketReadMovesTheWalk : Prop :=
  ∀ (w : Fin 4) (k : Walk) (a len : Nat) (s : State), s.powered = true → s.cl.walks[w] = some k →
    s.inPort (.walk w) (.read a len) →
    let b := probeBucket k.meterId k.bucketNo
    let x := s.store.examine k.meterId b 8
    let u := ({ s with port := s.port.freed }).bump .dirCrc x.2
    let t := if 0 < x.2 then u.raise .dirCrc (BitVec.ofNat 32 b) else u
    let walk (k' : Walk) : State := { t with cl := { s.cl with walks := s.cl.walks.set w (some k') } }
    exec .bucketReadDone s = .next (match x.1 with
      | some (.found r) => walk { k with outcome := some (.found r) }
      | some (.absent _) => walk { k with outcome := some .notFound }
      | none =>
        if k.bucketNo < 4 then
          (walk { k with bucketNo := k.bucketNo + 1 }).request (.walk w)
            (.read (bucketAddr (probeBucket k.meterId (k.bucketNo + 1))) 256)
        else walk { k with outcome := some .notFound }).pump

/-- R82 to R85: the three completions of a walk, each frame in parked order. -/
def Obligations.WalkCompletionsHandTheFramesOn : Prop :=
  ∀ (w : Fin 4) (k : Walk) (s : State), s.powered = true → s.cl.walks[w] = some k →
    let frames := k.waiting.filterMap (fun b => s.cl.pool[b])
    let freed (t : State) : State := { t with cl := { t.cl with
      pool := Vector.ofFn (fun b => if b ∈ k.waiting then none else t.cl.pool[b]),
      walks := t.cl.walks.set w none, stalled := false } }
    (∀ r : RouteRecord, k.outcome = some (.found r) → exec (.walkCompleteFound w) s = .next
      (freed (frames.foldl (fun t fr => t.handOn fr (.route r.index r.attrs))
        (s.cacheInsert k.meterId (.route r.index r.attrs)))).pump) ∧
    (k.outcome = some .notFound → exec (.walkCompleteNotFound w) s = .next
      (freed (frames.foldl (fun t fr => t.fallbackFrame fr) (s.cacheInsert k.meterId .foreign))).pump) ∧
    (k.outcome = some .failed → exec (.walkCompleteFailed w) s = .next
      (freed (frames.foldl (fun t fr =>
        if t.cl.policy = .drop then t.bump .foreignDrop else t.receive fr .foreign true) (s.bump .walkFailed))).pump)

/-- R71, R72, R79, R88: a hit makes its entry the youngest; an insertion takes the lowest invalid entry, or the one of
age 63; the ages of the valid entries stay 0 to one less than their number, each once; and every step keeps the ages so,
no two entries with one meter ID, no two pending walks with one meter ID, and no walk for a meter ID of the cache. A hit
and an insertion are counted, and change nothing else but the cache. -/
def Obligations.CacheAgesStayAnOrder : Prop :=
  (∀ s t : State, s.cacheOk → step s = .next t → t.cacheOk) ∧
  ∀ s : State,
    let aged (c : Vector (Option CacheEntry) 64) : Prop := ∀ a : Nat,
      c.toList.countP (fun x => x.any (·.age == a)) = if a < c.toList.countP Option.isSome then 1 else 0
    let only (t : State) (k : Counter) : Prop :=
      t = ({ s with cl := { s.cl with cache := t.cl.cache } }).bump k
    (∀ (i : Fin 64) (e : CacheEntry), only (s.cacheHit i e) .cacheHits) ∧
    (∀ (id : Word) (kind : CacheKind), only (s.cacheInsert id kind) .cacheInserts) ∧
    (∀ (i : Fin 64) (e : CacheEntry), s.cl.cache[i] = some e → aged s.cl.cache →
      (s.cacheHit i e).cl.cache[i] = some { e with age := 0 } ∧ aged (s.cacheHit i e).cl.cache
      ∧ ∀ j : Fin 64, j ≠ i → (s.cacheHit i e).cl.cache[j] =
          (s.cl.cache[j]).map (fun x => if x.age < e.age then { x with age := x.age + 1 } else x)) ∧
    (∀ (id : Word) (kind : CacheKind), aged s.cl.cache →
      aged (s.cacheInsert id kind).cl.cache
      ∧ ∃ i : Fin 64, (s.cacheInsert id kind).cl.cache[i] = some ⟨kind, id, 0⟩
        ∧ ((s.cl.cache[i] = none ∧ ∀ j : Fin 64, j < i → s.cl.cache[j] ≠ none)
            ∨ ((∀ j : Fin 64, s.cl.cache[j] ≠ none) ∧ ∃ e, s.cl.cache[i] = some e ∧ e.age = 63))
        ∧ ∀ j : Fin 64, j ≠ i → (s.cacheInsert id kind).cl.cache[j] =
            (s.cl.cache[j]).map (fun x => { x with age := x.age + 1 }))

/-- R73, R74: CACHE FLUSH empties the cache and answers how many entries were valid; CACHE PROBE reports one entry and
changes no age. The layout of the probe's reply, with the attributes in the order of the table of section 4.2 and no
fields in place of those an invalid or FOREIGN entry lacks, is the model's reading (log 12). -/
def Obligations.CacheCommands : Prop :=
  (∀ (tag : Byte) (s : State), s.accepts tag 0x40#8 [] →
     exec (.cacheFlush tag []) s = .next
       (({ s with cl := { s.cl with cache := Vector.replicate 64 none } }).replied tag 0x40#8 .ok
         [byteOf (s.cl.cache.toList.countP Option.isSome)])) ∧
  (∀ (tag a : Byte) (s : State), s.accepts tag 0x41#8 [a] →
     (63 < a.toNat → exec (.cacheProbe tag [a]) s = .next (s.replied tag 0x41#8 .badArg [])) ∧
     (∀ i : Fin 64, i.val = a.toNat → exec (.cacheProbe tag [a]) s = .next (s.replied tag 0x41#8 .ok
       (match s.cl.cache[i] with
         | none => [0#8]
         | some ⟨.route n a, id, age⟩ => [1#8, 0#8] ++ beBytes 4 id.toNat ++ [byteOf age] ++ beBytes 2 n
             ++ [byteOf a.family, byteOf a.utility, byteOf a.segment.val, byteOf a.cls.code, byteOf a.rule, byteOf a.digits]
             ++ beBytes 4 a.prior ++ beBytes 2 a.priorDay
         | some ⟨.foreign, id, age⟩ => [1#8, 1#8] ++ beBytes 4 id.toNat ++ [byteOf age]))))

/-- R68, R76, R77, R87, R96: the settings of the classifier, and MERGE SET. The layout of the RANGE SET reply is read by
log 12; UTILITY SET judging its list before the route state is the model's choice (log 39). While a ROUTE CLOSE
holds the unit the answer is BUSY, as CommandFramesTakenBusyOrMalformed says (log 41). -/
def Obligations.ClassifierAndMergeSettings : Prop :=
  (∀ (tag : Byte) (args : List Byte) (s : State),
     (args.length = 11 → s.acceptsSetting tag 0x42#8 args →
       let base := numAt args 1 4
       let k := natAt args 5
       let fam := natAt args 10
       let bad : Prop := 7 < natAt args 0 ∨ k < 6 ∨ 16 < k ∨ base % 2 ^ k ≠ 0 ∨ 1 < natAt args 6 ∨ 15 < natAt args 7
         ∨ 3 < natAt args 8 ∨ 15 < natAt args 9 ∨ (7 < fam ∧ fam < 255)
       (bad → exec (.rangeSet tag args) s = .next (s.replied tag 0x42#8 .badArg [])) ∧
       (∀ (n : Fin 8) (mode : RangeMode) (cls : RoutingClass), ¬ bad → n.val = natAt args 0 → mode.code = natAt args 6 →
         cls.code = natAt args 8 →
         let r : RangeEntry := ⟨true, BitVec.ofNat 32 base, k, mode, natAt args 7, cls, natAt args 9,
           if fam = 255 then none else some fam⟩
         let clash : Prop := ∃ m : Fin 8, m ≠ n ∧ s.cl.ranges[m].valid = true
           ∧ (r.holds s.cl.ranges[m].base = true ∨ s.cl.ranges[m].holds r.base = true)
         (clash → exec (.rangeSet tag args) s = .next (s.replied tag 0x42#8 .overlap [])) ∧
         (¬ clash → exec (.rangeSet tag args) s = .next
           (({ s with cl := { s.cl with ranges := s.cl.ranges.set n r } }).replied tag 0x42#8 .ok
             (1#8 :: beBytes 4 base
               ++ [byteOf k, byteOf mode.code, byteOf r.utility, byteOf cls.code, byteOf r.rule, byteOf fam]))))) ∧
     (args.length = 1 → s.acceptsSetting tag 0x43#8 args →
       (7 < natAt args 0 → exec (.rangeClear tag args) s = .next (s.replied tag 0x43#8 .badArg [])) ∧
       (∀ n : Fin 8, n.val = natAt args 0 → exec (.rangeClear tag args) s = .next
         (({ s with cl := { s.cl with ranges := s.cl.ranges.set n .invalid } }).replied tag 0x43#8 .ok []))) ∧
     (args.length = 1 → s.acceptsSetting tag 0x44#8 args →
       (3 < natAt args 0 → exec (.foreignPolicy tag args) s = .next (s.replied tag 0x44#8 .badArg [])) ∧
       (∀ p : ForeignPolicy, p.code = natAt args 0 → exec (.foreignPolicy tag args) s = .next
         (({ s with cl := { s.cl with policy := p } }).replied tag 0x44#8 .ok [byteOf p.code]))) ∧
     (∀ codes : List Byte, args = byteOf codes.length :: codes → codes.length < 256 → s.acceptsSetting tag 0x45#8 args →
       let bad : Prop := 4 < codes.length ∨ ∃ c ∈ codes, 15 < c.toNat
       let held := ((List.range 16).filter (fun n => codes.any (fun c => c.toNat == n))).map byteOf
       (bad → exec (.utilitySet tag args) s = .next (s.replied tag 0x45#8 .badArg [])) ∧
       (¬ bad → (s.rm.state = .opened ∨ s.rm.state = .resuming) →
         exec (.utilitySet tag args) s = .next (s.replied tag 0x45#8 .badState [])) ∧
       (¬ bad → s.rm.state ≠ .opened → s.rm.state ≠ .resuming → ∃ u : BitVec 16,
         (∀ n, n < 16 → u.getLsbD n = codes.any (fun c => c.toNat == n)) ∧
         exec (.utilitySet tag args) s = .next
           (({ s with cl := { s.cl with utilities := u } }).replied tag 0x45#8 .ok (byteOf held.length :: held))))) ∧
  (∀ (tag a b c d : Byte) (s : State), s.acceptsSetting tag 0x50#8 [a, b, c, d] →
     let hold := a.toNat * 256 + b.toNat
     let quiet := c.toNat * 256 + d.toNat
     (hold < 100 ∨ 10000 < hold →
       exec (.mergeSet tag [a, b, c, d]) s = .next (s.replied tag 0x50#8 .badArg [])) ∧
     (100 ≤ hold → hold ≤ 10000 → exec (.mergeSet tag [a, b, c, d]) s = .next
       (({ s with mc := { s.mc with hold := hold, quiet := quiet } }).replied tag 0x50#8 .ok [a, b, c, d])))

/-! ### Merge and commit (chapter 5) -/

/-- R90 to R94: a reception merges into its meter's entry, or makes a new one in the lowest-numbered free entry, after
a forced commit where none is free. -/
def Obligations.ReceptionsMergeOrMakeEntries : Prop :=
  ∀ (fr : FrameRecord) (src : Source) (noDir : Bool) (s : State),
    let t := s.bump .receptions
    let fresh : MergeEntry :=
      { meterId := fr.meterId, source := src, noDir := noDir, firstFamily := fr.family,
        families := 1#8 <<< fr.family.val, idClash := false, kept := fr.value, unsteady := false,
        firstSeconds := fr.seconds, firstValid := fr.timeValid, expiry := s.tb.runClock + BitVec.ofNat 32 s.mc.hold,
        count := 1, best := fr.quality, channels := 1#8 <<< fr.channel.val, indicators := fr.indicators, flush := false }
    (∀ (i : Fin 32) (e : MergeEntry), s.mc.table[i] = some e → e.meterId = fr.meterId →
      (∀ j : Fin 32, j < i → ∀ e', s.mc.table[j] = some e' → e'.meterId ≠ fr.meterId) →
      let M : Nat := match e.source with
        | .route _ a => 10 ^ a.digits
        | _ => 10 ^ 9
      let F := (fr.value % M + M - e.kept % M) % M
      let back : Bool := decide (0 < F ∧ M - F < F)
      s.receive fr src noDir = { t with mc := { s.mc with table := s.mc.table.set i (some { e with
        count := min 255 (e.count + 1), channels := e.channels ||| (1#8 <<< fr.channel.val),
        families := e.families ||| (1#8 <<< fr.family.val), idClash := e.idClash || fr.family != e.firstFamily,
        best := min e.best fr.quality, indicators := e.indicators ||| fr.indicators,
        kept := if back then e.kept else fr.value, unsteady := e.unsteady || back }) } }) ∧
    ((∀ (j : Fin 32) (e : MergeEntry), s.mc.table[j] = some e → e.meterId ≠ fr.meterId) →
      (∀ i : Fin 32, s.mc.table[i] = none → (∀ j : Fin 32, j < i → s.mc.table[j] ≠ none) →
        s.receive fr src noDir = { t with mc := { s.mc with table := s.mc.table.set i (some fresh) } }) ∧
      ((∀ j : Fin 32, s.mc.table[j] ≠ none) → ∀ i : Fin 32, earliestEntry (fun _ => true) s.mc.table = some i →
        let u := ((t.commit i false).1).bump .forcedCommits
        s.receive fr src noDir = { u with mc := { s.mc with table := s.mc.table.set i (some fresh) } }))

/-- R92: among entries whose expiries lie within half the clock's range of one another, the entry chosen is the
lowest-numbered of those that no other is earlier than. -/
def Obligations.EarliestEntryIsChosen : Prop :=
  ∀ (p : MergeEntry → Bool) (t : Vector (Option MergeEntry) 32) (now : Word),
    (∀ (i : Fin 32) (e : MergeEntry), t[i] = some e → (e.expiry - now + 10000#32).toNat ≤ 20000) →
    (earliestEntry p t = none ↔ ∀ (i : Fin 32) (e : MergeEntry), t[i] = some e → p e = false) ∧
    (∀ i : Fin 32, earliestEntry p t = some i → ∃ e : MergeEntry, t[i] = some e ∧ p e = true
      ∧ ∀ (j : Fin 32) (e' : MergeEntry), t[j] = some e' → p e' = true →
        (e.expiry - now + 10000#32).toNat ≤ (e'.expiry - now + 10000#32).toNat
        ∧ (e'.expiry = e.expiry → i ≤ j))

/-- R95, R97 to R108, R139, R181: MERGE_EXPIRY, and a commit: what it hands the screen, FOREIGN naming no rule as one of
zeros; a REPEAT leaves only its count; any other is a reading, journaled, sent live by its class, and written to the
status entry and the segment; what it counts for a flush, a refused offer as an offer (log 14); and what a live queue
does with a reading frame, full or not. That a ROUTE source without a status entry writes no status and makes a reading
of kind NEW is the model's choice (log 31): R98 gives a kind only for an entry UNREAD, READ, FLAGGED or UNSTORED. -/
def Obligations.CommitMakesAReading : Prop :=
  (∀ (i : Fin 32) (e : MergeEntry) (flush : Bool) (s : State), s.mc.table[i] = some e →
    let x := s.screenInput e
    let o := screen x
    let flags := o.flags ||| (if e.noDir then 0x2000#16 else 0#16)
    let alarm : Bool := decide (flags &&& 0x003F#16 ≠ 0#16)
    let cls : RoutingClass := match e.source with
      | .route _ a => a.cls
      | .range _ a => a.cls
      | .foreign => match s.cl.policy with
        | .drop => .drop
        | .live => .live
        | .store => .store
        | .both => .both
    let offers : Bool := alarm || cls == .store || cls == .both
    let taken : Bool := decide (s.journal.queue.length < 64 ∧ s.journal.state = .ready ∧ s.storeFailed = false)
    let unstored : Bool := offers && !taken
    let freed : State := { s with mc := { s.mc with table := s.mc.table.set i none } }
    let t := (s.commit i flush).1
    let read (st : StatusEntry) : Prop := st.status = .read ∨ st.status = .flagged
    let repeated : Prop := ∃ (n : Nat) (a : RouteAttrs) (st : StatusEntry) (last : Word), e.source = .route n a
      ∧ s.rm.status[n]? = some st ∧ read st ∧ st.lastCommit = some last
      ∧ (s.tb.runSeconds - last).toNat < s.mc.quiet ∧ (alarm = false ∨ st.status = .flagged)
    (s.powered = true → (s.tb.runClock - e.expiry).toNat < 2 ^ 31 →
      exec (.mergeExpiry i) s = .next ((s.commit i false).1).pump) ∧
    (2 ^ 31 ≤ (s.tb.runClock - e.expiry).toNat → exec (.mergeExpiry i) s = .next s) ∧
    -- what the screen is handed
    (x.value = e.kept ∧ x.seconds = e.firstSeconds ∧ x.timeValid = e.firstValid ∧ x.seen = e.families
      ∧ x.clash = e.idClash ∧ x.indicators = e.indicators ∧ x.unsteady = e.unsteady
      ∧ (match e.source with
        | .route _ a => x.modulus = 10 ^ a.digits ∧ x.prior = some (a.prior, a.priorDay) ∧ x.expected = some a.family
            ∧ ∀ n : Fin 16, n.val = a.rule → x.rule = s.rules[n]
        | .range _ a => x.modulus = 10 ^ 9 ∧ x.prior = none ∧ x.expected = a.family
            ∧ ∀ n : Fin 16, n.val = a.rule → x.rule = s.rules[n]
        | .foreign => x.modulus = 10 ^ 9 ∧ x.prior = none ∧ x.expected = none ∧ x.rule = ⟨0, 0, 0⟩)
      ∧ (∀ (n : Nat) (a : RouteAttrs) (st : StatusEntry), e.source = .route n a → s.rm.status[n]? = some st → read st →
          x.last = st.lastValue)
      ∧ ((¬ ∃ (n : Nat) (a : RouteAttrs) (st : StatusEntry), e.source = .route n a ∧ s.rm.status[n]? = some st
          ∧ read st) → x.last = none)) ∧
    (repeated → s.commit i flush = (freed.bump .repeats, ⟨true, false, false⟩)) ∧
    (¬ repeated → (s.commit i flush).2 = ⟨false, offers, unstored⟩) ∧
    (¬ repeated →
      let r := s.readingOf e o
      let reason : Word :=
        if 64 ≤ s.journal.queue.length then 0#32 else if s.journal.state = .full then 1#32 else 2#32
      let journaled : State :=
        if unstored then ((freed.bump .readings).bump .unstored).raise .appendBacklog reason
        else if offers then { freed.bump .readings with journal := { s.journal with
          nextSerial := s.journal.nextSerial + 1,
          queue := s.journal.queue ++ [⟨{ r with serial := s.journal.nextSerial }, flush⟩] } }
        else freed.bump .readings
      let sent (u : State) : State :=
        if alarm || cls == .live || cls == .both || unstored then
          u.offerLive ⟨{ r with serial := if offers && taken then s.journal.nextSerial else 0 }, unstored⟩
        else u
      ((∀ (n : Nat) (a : RouteAttrs), e.source = .route n a → s.rm.status[n]? = none) → t = sent journaled) ∧
      (∀ (n : Nat) (a : RouteAttrs) (st : StatusEntry), e.source = .route n a → s.rm.status[n]? = some st →
        st.status ≠ .excluded →
        let after : MeterStatus :=
          if st.status = .unread ∨ st.status = .unstored then
            (if unstored then .unstored else if alarm then .flagged else .read)
          else if alarm then .flagged else st.status
        let entry : StatusEntry :=
          { st with status := after, lastValue := some o.value, lastCommit := some s.tb.runSeconds }
        t = (sent { journaled with rm := { s.rm with status := s.rm.status.set n entry } }).moveSegment
          st.segment st.status after) ∧
      r.meterId = e.meterId ∧ r.family = e.firstFamily.val ∧ r.value = o.value ∧ r.flags = flags
      ∧ r.seconds = (if e.firstValid then e.firstSeconds else 0#32) ∧ r.rate = o.rate.getD 0 ∧ r.count = e.count
      ∧ r.best = e.best ∧ r.channels = e.channels
      ∧ (match e.source with
        | .route n a => r.routeIndex = n ∧ r.source = 0 ∧ r.segment = a.segment.val ∧ r.rule = a.rule
            ∧ r.utility = a.utility ∧ ((∃ st, s.rm.status[n]? = some st ∧ read st) → r.kind = .reread)
            ∧ ((¬ ∃ st, s.rm.status[n]? = some st ∧ read st) → r.kind = .new)
        | .range _ a => r.routeIndex = 65535 ∧ r.source = 1 ∧ r.segment = 0 ∧ r.rule = a.rule ∧ r.utility = a.utility
            ∧ r.kind = .range
        | .foreign => r.routeIndex = 65535 ∧ r.source = 2 ∧ r.segment = 0 ∧ r.rule = 0 ∧ r.utility = 0
            ∧ r.kind = .foreign))) ∧
  -- the live queue
  (∀ (f : LiveFrame) (s : State),
    let alarms (g : LiveFrame) : Prop := g.reading.flags &&& 0x003F#16 ≠ 0#16
    let lost (u : State) (g : LiveFrame) : State := (u.bump .liveDrop).raise .liveDrop g.reading.meterId
    (s.tl.live.length < 64 → s.offerLive f = { s with tl := { s.tl with live := s.tl.live ++ [f] } }) ∧
    (64 ≤ s.tl.live.length →
      (¬ alarms f ∨ (∀ g ∈ s.tl.live, alarms g) → s.offerLive f = lost s f) ∧
      (alarms f → ∀ (pre post : List LiveFrame) (g : LiveFrame), s.tl.live = pre ++ g :: post → ¬ alarms g →
        (∀ h ∈ pre, alarms h) →
        s.offerLive f = lost { s with tl := { s.tl with live := pre ++ post ++ [f] } } g)))

/-- R107, R108: FLUSH MERGE marks the entries in use, commits them in the order of R92, and is answered when none is
marked and none of its records is queued. The offered count is that of log 14. -/
def Obligations.FlushCommitsTheMarkedEntries : Prop :=
  ∀ (tag : Byte) (s : State),
    (s.accepts tag 0x51#8 [] → ∃ t : State, exec (.flushMerge tag []) s = .next t
      ∧ t = { s with tl := s.tl.holdFor tag 0x51#8 (.flush 0 0 0 0 0), mc := { s.mc with table := t.mc.table } }
      ∧ ∀ i : Fin 32, t.mc.table[i] = (s.mc.table[i]).map (fun e => { e with flush := true })) ∧
    (∀ c r o p u : Nat, s.working 0x51#8 tag (.flush c r o p u) →
      (∀ i : Fin 32, earliestEntry (·.flush) s.mc.table = some i →
        let t := (s.commit i true).1
        let info := (s.commit i true).2
        exec .flushMergeCommit s = .next ({ t with tl := t.tl.workOn 0x51#8 tag (.flush (c + 1)
          (r + info.repeated.toNat) (o + info.offered.toNat) p (u + info.unstored.toNat)) }).pump) ∧
      ((∀ (i : Fin 32) (e : MergeEntry), s.mc.table[i] = some e → e.flush = false) →
        (∀ q ∈ s.journal.queue, q.flush = false) →
        exec .flushMergeDone s = .next { s with
          tl := s.tl.ended 0x51#8 tag .ok [byteOf c, byteOf r, byteOf o, byteOf p, byteOf u] }))

/-! ### Tamper screening (chapter 6) -/

/-- R115 to R128: every result of the screen, flag by flag, and the ranges of R127. There is no prior exactly when the
source gives none or its prior day is 65,535 (R119). -/
def Obligations.ScreenSetsItsFlags : Prop :=
  ∀ i : ScreenIn, 2 ≤ i.modulus →
    let o := screen i
    let M := i.modulus
    let V := i.value % M
    let forward (frm : Nat) : Nat := (V + M - frm % M) % M
    let back (frm : Nat) : Nat := if forward frm = 0 then 0 else M - forward frm
    let reversal (frm : Nat) : Prop := i.rule.tolerance < back frm ∧ back frm < forward frm
    let flag (n : Nat) : Prop := o.flags.getLsbD n = true
    let noPrior : Prop := i.prior = none ∨ ∃ p : Nat, i.prior = some (p, 65535)
    o.value = V ∧ V < M ∧
    (flag 12 ↔ M ≤ i.value) ∧ (flag 10 ↔ i.timeValid = false) ∧ (flag 3 ↔ i.indicators ≠ 0#8) ∧ ¬ flag 13 ∧
    (flag 4 ↔ i.clash = true ∨ ∃ f, i.expected = some f ∧ ∃ g : Fin 8, i.seen.getLsbD g.val = true ∧ g.val ≠ f) ∧
    (flag 5 ↔ i.unsteady = true ∨ ∃ l, i.last = some l ∧ reversal l) ∧
    (flag 9 ↔ noPrior) ∧
    (noPrior → o.delta = 0 ∧ o.rate = none ∧ o.elapsed = none
      ∧ ¬ flag 0 ∧ ¬ flag 1 ∧ ¬ flag 2 ∧ ¬ flag 8 ∧ ¬ flag 11) ∧
    (∀ p dp : Nat, i.prior = some (p, dp) → dp ≠ 65535 →
      let F := forward p
      let R := back p
      let days : Int := ((i.seconds.toNat / 86400 : Nat) : Int) - (dp : Int)
      let E := if days ≤ 0 then 1 else if 255 < days then 255 else days.toNat
      (flag 8 ↔ 0 < F ∧ R ≤ i.rule.tolerance) ∧ (flag 0 ↔ reversal p) ∧
      o.delta = (if i.rule.tolerance < R ∧ F ≤ R then F else 0) ∧ 2 * o.delta ≤ M ∧
      (i.timeValid = true →
        o.elapsed = some E ∧ 1 ≤ E ∧ E ≤ 255 ∧ o.rate = some (min (o.delta / E) 65535) ∧
        (flag 11 ↔ days ≤ 0 ∨ 255 < days) ∧
        (flag 1 ↔ 0 < i.rule.ceiling ∧ min (i.rule.ceiling * E) (M - 1) < o.delta) ∧
        (flag 2 ↔ 0 < i.rule.stagnant ∧ F = 0 ∧ i.rule.stagnant ≤ E)) ∧
      (i.timeValid = false → o.rate = none ∧ o.elapsed = none ∧ ¬ flag 1 ∧ ¬ flag 2 ∧ ¬ flag 11))

/-- R112, R113: RULE SET replaces the entry it names, and one that repeats the entry's figures changes nothing; RULE
READ answers the entry and changes nothing. -/
def Obligations.RuleCommands : Prop :=
  (∀ (tag a b c d e : Byte) (s : State), s.acceptsSetting tag 0x60#8 [a, b, c, d, e] →
     (15 < a.toNat → exec (.ruleSet tag [a, b, c, d, e]) s = .next (s.replied tag 0x60#8 .badArg [])) ∧
     (∀ r : Fin 16, r.val = a.toNat → exec (.ruleSet tag [a, b, c, d, e]) s = .next
       (({ s with rules := s.rules.set r ⟨b.toNat * 256 + c.toNat, d.toNat, e.toNat⟩ }).replied tag 0x60#8 .ok
         [b, c, d, e])) ∧
     (∀ r : Fin 16, r.val = a.toNat → s.rules[r] = ⟨b.toNat * 256 + c.toNat, d.toNat, e.toNat⟩ →
       exec (.ruleSet tag [a, b, c, d, e]) s = .next (s.replied tag 0x60#8 .ok [b, c, d, e]))) ∧
  (∀ (tag a : Byte) (s : State), s.accepts tag 0x61#8 [a] →
     (15 < a.toNat → exec (.ruleRead tag [a]) s = .next (s.replied tag 0x61#8 .badArg [])) ∧
     (∀ r : Fin 16, r.val = a.toNat →
       let u := s.rules[r]
       exec (.ruleRead tag [a]) s = .next (s.replied tag 0x61#8 .ok
         (beBytes 2 u.ceiling ++ [byteOf u.tolerance, byteOf u.stagnant]))))

/-! ### Bulk store and journal (chapter 7) -/

/-- R1, R27, R133, R147, R186, R187: the three resets and a loss of power. Every block takes its reset value; what a
reset keeps is the store but for the bytes of an operation cut short, the torn and uncertain counts of the last scan but
at power-on, and of a command reset the line rate and a FAILED store. What a cut leaves is as R40, R42, R44, R134, R137,
R141, R145 and R147 say. An unpowered part answers to nothing but POWER_ON_RESET (log 9). The values the manual does not
state are the model's choice (log 10, and log 47 for the checker of a port not in CHECK mode), as are the free bytes of
an operation cut short (log 8), the load of a FAILED store as an answer not yet taken (log 19) and COMMAND_RESET as the
end of the RESET reply (log 4). That an operation whose request still waits at a loss of power or a line reset leaves
the store alone, the first erase of a CONFIG SAVE or a ROUTE CLEAR included, is the model's choice (log 48). -/
def Obligations.ResetsAndPower : Prop :=
  ∀ s : State,
    let keeps (t : State) : Prop := t.pending = s.pending ∧ ∀ p : Fin 8, t.ports[p].carrier = s.ports[p].carrier
    let untouched (t : State) : Prop :=
      (∀ a : Nat, (∀ op ∈ s.port.begun, ¬ op.touches a) → t.store.read a = s.store.read a)
        ∧ ∀ op : StoreOp, s.port.begun = [op] → s.storeOk → s.cutLeaves op t.store
    let carrying : StorePort :=
      { waiting := [], active := none, suspended := none, failed := [],
        finishing := s.port.begun.filter (fun op => op.isErase || op.isProgram) }
    let counts (t : State) : Prop := t.journal.torn = s.journal.torn ∧ t.journal.uncertain = s.journal.uncertain
    (∃ t : State, exec .powerOnReset s = .next t ∧ t.blocksReset ∧ keeps t ∧ untouched t ∧ t.powered = true
      ∧ t.journal.torn = 0 ∧ t.journal.uncertain = 0 ∧ t.tl.rate = none ∧ t.storeFailed = false
      ∧ t.startup = .readyWait ∧ t.port = .idle) ∧
    (s.powered = false → ∀ c : Instr, c ≠ .powerOnReset → exec c s = .next s) ∧
    (s.powered = true →
      (∃ t : State, exec .lineReset s = .next t ∧ t.blocksReset ∧ keeps t ∧ counts t ∧ t.store = s.store
        ∧ t.powered = true ∧ t.tl.rate = none ∧ t.storeFailed = false ∧ t.startup = .readyWait
        ∧ t.port = carrying) ∧
      (∀ bytes : List Byte, s.tl.tx = some ⟨.reply true, bytes⟩ →
        ∃ t : State, exec .commandReset s = .next t ∧ exec .transmitEnd s = .next t ∧ t.blocksReset ∧ keeps t
          ∧ counts t ∧ t.store = s.store ∧ t.powered = true ∧ t.tl.rate = s.tl.rate ∧ t.storeFailed = s.storeFailed
          ∧ (s.storeFailed = false → t.startup = .readyWait ∧ t.port = carrying)
          ∧ (s.storeFailed = true → t.startup = .configLoad ∧ t.port = { carrying with failed := [.startup] })) ∧
      (∃ t : State, exec .lossOfPower s = .next t ∧ untouched t
        ∧ t = { s with powered := false, port := .idle, store := t.store, freeIndex := t.freeIndex }))

/-- R1, R133, R135, R134: the store ready wait and its limit, and the load of the image: a good image gives every block
its settings, starts the checkers of CHECK ports and places the framers, any other content of sector 0 or a failed store
raises CONFIG_DEFAULTED. What settings an image holds, RecordsReadBackAsWritten says. A store not ready in time is
FAILED with STORE_FAULT, detail READY, and nothing else of the part changes but what the store carried on with. The
model's choice: sector 0 and the whole journal each in one read (log 7), the free bytes of a store that is never ready
(log 8, log 32), reaching 3,000 ms as overdue (log 22), the failed answer taken at the row (log 19). -/
def Obligations.StartUpLoadsTheImage : Prop :=
  ∀ s : State,
    let loading (t : State) : State := (({ t with startup := .configLoad }).request .startup (.read 0 65536)).pump
    let scanning (t : State) : State := (({ t with startup := .scan }).request .startup (.read 1179648 32374784)).pump
    (s.startsAt .readyWait →
      exec .storeReady s = .next (loading { s with
        store := s.port.finishing.foldl (fun m op => op.apply m) s.store, port := { s.port with finishing := [] } }) ∧
      (s.tb.runClock.toNat < 3000 → exec .storeReadyTimeout s = .next s) ∧
      (3000 ≤ s.tb.runClock.toNat → ∃ t : State, exec .storeReadyTimeout s = .next (loading t)
        ∧ t = { s.raise .storeFault 2#32 with
            storeFailed := true, port := { s.port with finishing := [] }, store := t.store, freeIndex := t.freeIndex }
        ∧ t.tl.flags.getLsbD 6 = true
        ∧ (s.tl.flags.getLsbD 6 = false → s.tl.mask.getLsbD 6 = true → s.tl.notices.length < 16 →
            t.tl.notices = s.tl.notices ++ [.event 6 2#32 t.tl.flags s.tb.runClock])
        ∧ ∀ a : Nat, (∀ op ∈ s.port.finishing, ¬ op.touches a) → t.store.read a = s.store.read a)) ∧
    (s.startsAt .configLoad →
      (s.unanswered .startup →
        exec .configLoadDone s = .next (scanning (({ s with port := s.port.told .startup }).raise .configDefaulted 2#32))) ∧
      (∀ a len : Nat, s.inPort .startup (.read a len) →
        let freed : State := { s with port := s.port.freed }
        let image := s.store.bytes 0 379
        let good : Prop := numAt image 0 2 = 418 ∧ numAt image 2 2 = 379
          ∧ numAt image 375 4 = (crc32 (image.take 375)).toNat
        (¬ good → exec .configLoadDone s = .next (scanning (freed.raise .configDefaulted
          (if s.store.blank 0 65536 then 0#32 else 1#32)))) ∧
        (good → ∃ t : State, exec .configLoadDone s = .next (scanning t) ∧ t.settings = settingsOf image
          ∧ (∀ c : Fin 8, s.channels[c].framer = .off → t.channels[c].framer = t.freshFramer c)
          ∧ (∀ c : Fin 8, t.channels[c].slots = s.channels[c].slots)
          ∧ (∀ p : Fin 8, t.ports[p].heldHalf = none ∧ t.ports[p].carrier = s.ports[p].carrier
              ∧ (t.ports[p].settings.mode = .check → t.ports[p].checker.phase = .search
                ∧ t.ports[p].checker.errors = 0 ∧ t.ports[p].checker.bits = 0))
          ∧ t.tb.todSeconds = s.tb.todSeconds ∧ t.tb.runClock = s.tb.runClock ∧ t.rm = s.rm ∧ t.store = s.store
          ∧ t.port = s.port.freed ∧ t.journal = s.journal ∧ t.ue = s.ue ∧ t.counters = s.counters)))

/-- R149 to R152, R156: JOURNAL_SCAN_DONE. Tail and head are the valid headers of lowest and highest sequence, the head
next slot follows the last slot of the head that is not erased, the next serial passes every serial of the journal, and
the mark cursor stands at the record of lowest serial not uploaded; torn slots and uncertain marks are counted, and the
reclaim and low tests and the event of a journal left FULL follow, JOURNAL_LOW first (log 40). An empty journal's sector
18 is opened first. A failed store keeps the counts of the scan before. The model's choice: one read for the whole scan
(log 7), the opening's first operations ended by steps on an empty queue (log 2), the pointers of a journal in FAULT
that R149 does not state (log 10), the failed answer taken at the row (log 19). -/
def Obligations.ScanSetsThePointers : Prop :=
  ∀ s : State, s.startsAt .scan →
    let heading (t : State) : State := (({ t with startup := .headerRead }).request .startup (.read 65536 65536)).pump
    (s.unanswered .startup → exec .journalScanDone s = .next (heading { s with
      port := s.port.told .startup,
      journal := { Journal.reset with state := .fault, torn := s.journal.torn, uncertain := s.journal.uncertain },
      ue := { s.ue with lastAck := 0, ceiling := 0 } })) ∧
    (s.pending = [] →
      let header : StoreOp := .program 1179648 (sectorHeaderBytes 1 1)
      (∀ len : Nat, s.inPort .startup (.read 1179648 len) → s.store.validHeaders = [] →
        step s = .next (({ s with port := s.port.freed }).request .startup
          (if s.store.blank 1179648 65536 then header else .erase 18)).pump) ∧
      (s.inPort .startup (.erase 18) → step s = .next (({ s with
        store := s.store.clear 1179648 65536, port := s.port.freed }).request .startup header).pump)) ∧
    (∀ op : StoreOp, s.inPort .startup op → op.isErase = false → s.storeOk →
      let m := op.apply s.store
      m.validHeaders ≠ [] →
      ∃ j : Journal,
        let t : State := { s with
          store := m, port := s.port.freed, journal := j,
          ue := { s.ue with sector := j.tail, slot := 1, lastAck := j.markDone, ceiling := j.markDone } }
        let reclaiming : State := t.testReclaim
        let low : State := if j.ahead ≤ 2 ∧ j.cursorSector = j.tail
          then reclaiming.raise .journalLow (BitVec.ofNat 32 j.ahead) else reclaiming
        exec .journalScanDone s = .next (heading
          (if j.state = .full then low.raise .journalFull (BitVec.ofNat 32 j.head) else low)) ∧
        let used (sec slot : Nat) : Prop := j.inSpan sec = true ∧ t.isHole sec = false ∧ 1 ≤ slot ∧ slot ≤ 2047
        let record (sec slot : Nat) (bs : List Byte) : Prop := used sec slot ∧ judgeJournal (m.slot sec slot) = .valid bs
        let counts (n : Nat) (p : Nat → Nat → Prop) : Prop :=
          ∃ l : List (Nat × Nat), l.Nodup ∧ (∀ sec slot : Nat, (sec, slot) ∈ l ↔ p sec slot) ∧ n = l.length
        (∃ q f : Nat, (j.tail, q, f) ∈ m.validHeaders ∧ ∀ h ∈ m.validHeaders, q ≤ h.2.1) ∧
        (∃ q f : Nat, (j.head, q, f) ∈ m.validHeaders ∧ (∀ h ∈ m.validHeaders, h.2.1 ≤ q) ∧ f ≤ j.nextSerial
          ∧ (j.nextSerial = f ∨ ∃ (sec slot : Nat) (bs : List Byte), record sec slot bs
              ∧ j.nextSerial = recSerial bs + 1)) ∧
        j.ahead + j.spanLength = 494 ∧
        1 ≤ j.headNext ∧ j.headNext ≤ 2048 ∧
        (∀ slot, j.headNext ≤ slot → slot < 2048 → judgeJournal (m.slot j.head slot) = .erased) ∧
        (1 < j.headNext → judgeJournal (m.slot j.head (j.headNext - 1)) ≠ .erased) ∧
        j.state = (if j.headNext = 2048 ∧ j.ahead = 0 then JournalState.full else JournalState.ready) ∧
        (∀ (sec slot : Nat) (bs : List Byte), record sec slot bs → recSerial bs < j.nextSerial) ∧
        (∀ (sec slot : Nat) (bs : List Byte), record sec slot bs → uploaded bs = false → 0 < recSerial bs →
          j.markDone < recSerial bs) ∧
        (((∀ (sec slot : Nat) (bs : List Byte), record sec slot bs → uploaded bs = true)
            ∧ j.markDone = j.nextSerial - 1 ∧ j.cursorSector = j.head ∧ j.cursorSlot = j.headNext)
          ∨ ∃ bs : List Byte, record j.cursorSector j.cursorSlot bs ∧ uploaded bs = false
              ∧ j.markDone = recSerial bs - 1) ∧
        j.markTarget = j.markDone ∧
        counts j.torn (fun sec slot => used sec slot ∧ judgeJournal (m.slot sec slot) = .torn) ∧
        counts j.uncertain (fun sec slot => ∃ bs : List Byte, record sec slot bs ∧ recMark bs ≠ 0#8 ∧ recMark bs ≠ 0xFF#8) ∧
        j.queue = s.journal.queue ∧ j.discarded = s.journal.discarded ∧ j.discardedRange = s.journal.discardedRange)

/-- R129 to R131: which request the arbiter serves, and when it suspends and resumes an erase; and a read taken just
before the end of a reclaim erase, which is served next with no suspension counted. The order within one step is the
model's reading (log 25); that an erase counts as finished, and is not suspended, while the row that ends
its requester's work is the next command of the queue is its choice (log 34). -/
def Obligations.ArbiterServesByClass : Prop :=
  ∀ s : State,
    let serving (pre post : List StoreReq) (r : StoreReq) (suspended : Option ActiveOp) : State :=
      { s with port := { s.port with
          waiting := pre ++ post, active := some ⟨r.client, r.op, s.tb.runClock, 0⟩, suspended := suspended } }
    let firstOfClass1 (pre : List StoreReq) (r : StoreReq) : Prop := r.client.cls = 1 ∧ ∀ q ∈ pre, q.client.cls ≠ 1
    let none1 : Prop := ∀ q ∈ s.port.waiting, q.client.cls ≠ 1
    let endNext (a : ActiveOp) : Prop :=
      (a.client = .reclaim ∧ s.pending.head? = some .reclaimEraseDone) ∨
      (a.client = .opening ∧ s.pending.head? = some .journalSectorOpened) ∨
      (a.client = .longOp ∧ ∃ l : LongOp, s.tl.longOp = some l ∧
        (l.code = 0x70#8 ∧ s.pending.head? = some .configSaveDone ∨
          l.code = 0x72#8 ∧ s.pending.head? = some .journalEraseDone))
    (s.port.active = none → s.port.suspended = none →
      (s.port.waiting = [] → s.grant = s) ∧
      ∀ (pre post : List StoreReq) (r : StoreReq), s.port.waiting = pre ++ r :: post →
        (∀ q ∈ pre, r.client.cls < q.client.cls) → (∀ q ∈ post, r.client.cls ≤ q.client.cls) →
        s.grant = serving pre post r none) ∧
    (∀ a : ActiveOp, s.port.active = some a →
      (a.op.isErase = false ∨ s.port.suspended ≠ none ∨ none1 → s.grant = s) ∧
      (a.op.isErase = true → s.port.suspended = none → endNext a → s.grant = s) ∧
      (a.op.isErase = true → s.port.suspended = none → ¬ endNext a →
        ∀ (pre post : List StoreReq) (r : StoreReq), s.port.waiting = pre ++ r :: post → firstOfClass1 pre r →
          s.grant = (serving pre post r
            (some { a with spent := a.spent + (s.tb.runClock - a.since).toNat })).bump .eraseSuspends)) ∧
    (∀ e : ActiveOp, s.port.active = none → s.port.suspended = some e →
      (none1 → s.grant = { s with port := { s.port with
        active := some { e with since := s.tb.runClock }, suspended := none } }) ∧
      ∀ (pre post : List StoreReq) (r : StoreReq), s.port.waiting = pre ++ r :: post → firstOfClass1 pre r →
        s.grant = serving pre post r (some e)) ∧
    (∀ (since : Word) (spent sec : Nat) (pre post : List StoreReq) (r : StoreReq), s.powered = true →
      s.port.active = some ⟨.reclaim, .erase sec, since, spent⟩ → s.port.waiting = pre ++ r :: post →
      firstOfClass1 pre r → s.port.suspended = none →
      ∃ t : State, exec .reclaimEraseDone s = .next t ∧ t.port.active = some ⟨r.client, r.op, s.tb.runClock, 0⟩
        ∧ t.port.suspended = none ∧ t.count .eraseSuspends = s.count .eraseSuspends
        ∧ t.store = s.store.clear (sec * 65536) 65536) ∧
    (s.pump = s.beginErase.wantAppend.wantMark.wantUpload.grant) ∧
    (∀ c : Client, c.cls = (match c with
      | .walk _ | .query => 1 | .append | .opening => 2 | .mark => 3 | .reclaim => 4
      | .upload | .uploadGone => 5 | .longOp | .startup => 6))

/-- R40, R42, R129, R134, R136, R137, R188: every record and image the part writes is read back as it was written. A
completed program leaves the AND at its bytes, an erase leaves its sector FFH, each leaves every other byte, and so what
is programmed into erased bytes is read back from the store. Each record has the bytes of its layout. The image of the
settings has 379 bytes in the layout of section 9.8 and is good, and the settings, each in its width, are read back from
it. -/
def Obligations.RecordsReadBackAsWritten : Prop :=
  -- the store
  (∀ m : Memory, m.wf →
    (∀ a n : Nat, m.bytes a n = (List.range n).map (fun i => m.read (a + i))) ∧
    (∀ a len : Nat, (StoreOp.read a len).apply m = m) ∧
    (∀ (a x : Nat) (bs : List Byte), ((StoreOp.program a bs).apply m).read x =
      if a ≤ x ∧ x < a + bs.length then m.read x &&& bs.getD (x - a) 0#8 else m.read x) ∧
    (∀ sec x : Nat, (StoreOp.erase sec).apply m = m.clear (sec * 65536) 65536 ∧
      (m.clear (sec * 65536) 65536).read x =
        if sec * 65536 ≤ x ∧ x < sec * 65536 + 65536 then 0xFF#8 else m.read x) ∧
    (∀ (a : Nat) (bs : List Byte), erasedBytes (m.bytes a bs.length) = true →
      ((StoreOp.program a bs).apply m).bytes a bs.length = bs)) ∧
  -- the layouts of the records
  (let closed (bs : List Byte) : List Byte := bs ++ beBytes 2 (crcK1 bs).toNat
   (∀ r : RouteRecord, routeRecordBytes r = closed (beBytes 4 r.meterId.toNat
      ++ [byteOf r.attrs.family, byteOf r.attrs.utility, byteOf r.attrs.segment.val, byteOf r.attrs.cls.code,
          byteOf r.attrs.rule, byteOf r.attrs.digits]
      ++ beBytes 4 r.attrs.prior ++ beBytes 2 r.attrs.priorDay ++ beBytes 2 r.index ++ List.replicate 12 0#8)) ∧
   (∀ h : RouteHeader, headerBytes h = closed (byteOf h.state.code :: beBytes 2 h.meterCount
      ++ beBytes 4 h.digest.toNat ++ beBytes 4 h.firstSerial ++ beBytes 2 h.openDay ++ List.replicate 17 0#8)) ∧
   (∀ sequence serial : Nat, sectorHeaderBytes sequence serial =
      closed (beBytes 4 sequence ++ beBytes 4 serial ++ List.replicate 22 0#8)) ∧
   (∀ (r : Reading) (mark : Byte),
      let body := beBytes 4 r.serial ++ beBytes 4 r.meterId.toNat ++ beBytes 2 r.routeIndex
        ++ [byteOf (r.kind.code * 16 + r.source), byteOf r.family] ++ beBytes 4 r.value ++ beBytes 4 r.seconds.toNat
        ++ beBytes 2 r.rate ++ beBytes 2 r.flags.toNat ++ [byteOf r.count, byteOf r.best, r.channels, byteOf r.segment,
          byteOf (r.rule * 16 + r.utility)]
      recordBytes r mark = body ++ [mark] ++ beBytes 2 (crcK1 body).toNat)) ∧
  -- the configuration image
  (∀ bs : List Byte, goodImage bs = true ↔
    numAt bs 0 2 = 418 ∧ numAt bs 2 2 = 379 ∧ numAt bs 375 4 = (crc32 (bs.take 375)).toNat) ∧
  (∀ s : State,
    let image := imageBytes s.settings
    image.length = 379 ∧ goodImage image = true ∧ (s.settingsOk → settingsOf image = s.settings) ∧
    (∀ p : Fin 8, let x := s.ports[p].settings
      slice image (4 + 7 * p.val) 7 =
        [byteOf x.mode.code, boolByte x.invert] ++ beBytes 4 x.bitRate ++ [boolByte x.carrierQualify]) ∧
    (∀ c : Fin 8, let x := s.channels[c]
      slice image (60 + 3 * c.val) 3 =
        [match x.source with
          | some p => byteOf p.val
          | none => 0xFF#8, x.mask, byteOf x.threshold]) ∧
    (∀ f : Fin 8, let x := s.families[f]
      slice image (84 + 16 * f.val) 16 =
        if x.valid then
          [1#8, byteOf x.syncLen] ++ beBytes 4 x.pattern.toNat ++ [byteOf x.tolerance, byteOf x.bodyLen,
            byteOf x.idOffset, byteOf x.idLen, byteOf x.valueOffset, byteOf x.valueLen, byteOf x.encoding.code,
            byteOf x.indOffset, x.indMask, byteOf x.crc.code]
        else List.replicate 16 0#8) ∧
    slice image 212 2 = [byteOf s.tb.mode.code, byteOf s.tb.window] ∧
    (∀ n : Fin 8, let x := s.cl.ranges[n]
      slice image (214 + 11 * n.val) 11 =
        if x.valid then
          1#8 :: beBytes 4 x.base.toNat ++ [byteOf x.k, byteOf x.mode.code, byteOf x.utility, byteOf x.cls.code,
            byteOf x.rule, byteOf (x.family.getD 255)]
        else List.replicate 11 0#8) ∧
    (∀ n : Fin 16, let x := s.rules[n]
      slice image (302 + 4 * n.val) 4 = beBytes 2 x.ceiling ++ [byteOf x.tolerance, byteOf x.stagnant]) ∧
    slice image 366 9 = [byteOf s.cl.policy.code] ++ beBytes 2 s.mc.hold ++ beBytes 2 s.mc.quiet
      ++ beBytes 2 s.cl.utilities.toNat ++ beBytes 2 s.tl.mask.toNat) ∧
  -- what is read back of a record
  (∀ r : RouteRecord, r.index < 65536 → r.attrs.family < 256 → r.attrs.utility < 256 → r.attrs.rule < 256 →
    r.attrs.digits < 256 → r.attrs.prior < 2 ^ 32 → r.attrs.priorDay < 65536 →
    (routeRecordBytes r).length = 32 ∧ judgeDir (routeRecordBytes r) = .valid r) ∧
  (∀ h : RouteHeader, (h.state = .ready ∨ h.state = .opened ∨ h.state = .closed) → h.meterCount < 65536 →
    h.firstSerial < 2 ^ 32 → h.openDay < 65536 →
    (headerBytes h).length = 32 ∧ headerOf? (headerBytes h) = some h) ∧
  (∀ sequence serial : Nat, sequence < 2 ^ 32 → serial < 2 ^ 32 →
    (sectorHeaderBytes sequence serial).length = 32
      ∧ judgeHeader (sectorHeaderBytes sequence serial) = .valid sequence serial) ∧
  (∀ (r : Reading) (mark : Byte), r.serial < 2 ^ 32 → r.routeIndex < 65536 → r.value < 2 ^ 32 → r.source < 16 →
    let bs := recordBytes r mark
    bs.length = 32 ∧ judgeJournal bs = .valid bs ∧ recSerial bs = r.serial ∧ recMeter bs = r.meterId
      ∧ recIndex bs = r.routeIndex ∧ recValue bs = r.value ∧ recFlags bs = r.flags ∧ recMark bs = mark)

/-- R140 to R142, R146, R148: the program the append queue asks for, or the opening of the next sector; the end of an
append program, of each operation of an opening, of a reclaim erase, and the two tests that follow them. That a step on
an empty queue ends the read and the erase of an opening is the model's choice (log 2), as is the end of an opening that
JOURNAL ERASE overtakes (log 18). -/
def Obligations.AppendsOpeningsAndReclaims : Prop :=
  ∀ s : State, s.powered = true →
    let j := s.journal
    let next (sec : Nat) : Nat := if sec = 511 then 18 else sec + 1
    let held : Prop := ∃ (tag : Byte) (w : Work), s.tl.longOp = some ⟨0x72#8, tag, w, none⟩
    let asks (c : Client) (op : StoreOp) : State :=
      { s with port := { s.port with waiting := s.port.waiting ++ [⟨c, op⟩] } }
    (j.state ≠ .ready ∨ s.storeFailed = true ∨ held ∨ j.queue = [] → s.wantAppend = s) ∧
    (j.state = .ready → s.storeFailed = false → ¬ held → ∀ (q : QueuedRecord) (rest : List QueuedRecord),
      j.queue = q :: rest →
      (j.headNext ≤ 2047 → s.wantAppend = if s.port.outstanding .append then s
        else asks .append (.program (j.head * 65536 + j.headNext * 32) (recordBytes q.reading 0xFF#8))) ∧
      (2047 < j.headNext → s.wantAppend = if 0 < j.ahead ∧ s.port.outstanding .opening = false then
          asks .opening (.read (next j.head * 65536) 65536)
        else s)) ∧
    (s.pending = [] →
      let first := match j.queue with | q :: _ => q.reading.serial | [] => j.nextSerial
      (∀ a len q f : Nat, s.inPort .opening (.read a len) → judgeHeader (s.store.slot j.head 0) = .valid q f →
        let freed : State := { s with port := s.port.freed }
        (held → step s = .next freed.pump) ∧
        (¬ held → step s = .next (freed.request .opening
          (if s.store.blank (next j.head * 65536) 65536 then
            .program (next j.head * 65536) (sectorHeaderBytes (q + 1) first)
          else .erase (next j.head))).pump)) ∧
      (∀ sec q f : Nat, s.inPort .opening (.erase sec) →
        let t : State := { s with store := s.store.clear (sec * 65536) 65536, port := s.port.freed }
        judgeHeader (t.store.slot j.head 0) = .valid q f →
        (held → step s = .next t.pump) ∧
        (¬ held → step s = .next (t.request .opening
          (.program (next j.head * 65536) (sectorHeaderBytes (q + 1) first))).pump))) ∧
    (∀ (a : Nat) (bs : List Byte) (q : QueuedRecord) (rest : List QueuedRecord),
      s.inPort .append (.program a bs) → j.queue = q :: rest →
      let tl : Trunk := if q.flush then (match s.tl.longOp with
          | some ⟨code, tag, .flush c r o p u, reply⟩ =>
            { s.tl with longOp := some ⟨code, tag, .flush c r o (p + 1) u, reply⟩ }
          | _ => s.tl) else s.tl
      let t := ({ s with
        store := (StoreOp.program a bs).apply s.store, port := s.port.freed, tl := tl,
        journal := { j with queue := rest, headNext := j.headNext + 1 },
        ue := { s.ue with waiting := false } }).bump .journalAppends
      (j.headNext + 1 < 2048 ∨ 0 < j.ahead → exec .appendProgramDone s = .next t.pump) ∧
      (2048 ≤ j.headNext + 1 → j.ahead = 0 →
        let full : State := { t with journal := { t.journal with state := .full } }
        let dropped : State := match rest with
          | [] => full
          | r :: rs => ({ full with journal := { full.journal with
              queue := [], discarded := j.discarded + rest.length,
              discardedRange := some ((j.discardedRange.map Prod.fst).getD r.reading.serial,
                ((r :: rs).getLast (List.cons_ne_nil r rs)).reading.serial) } }).bump .appendDiscard rest.length
        exec .appendProgramDone s = .next (dropped.raise .journalFull (BitVec.ofNat 32 j.head)).pump)) ∧
    (∀ (a : Nat) (bs : List Byte), s.inPort .opening (.program a bs) →
      let h := next j.head
      let t : State := { s with
        store := (StoreOp.program a bs).apply s.store, port := s.port.freed,
        journal := { j with
          head := h, headNext := 1, ahead := j.ahead - 1,
          cursorSector := if j.cursorSector = j.head ∧ j.cursorSlot = 2048 then h else j.cursorSector,
          cursorSlot := if j.cursorSector = j.head ∧ j.cursorSlot = 2048 then 1 else j.cursorSlot },
        ue := { s.ue with
          sector := if s.ue.sector = j.head ∧ s.ue.slot = 2048 then h else s.ue.sector,
          slot := if s.ue.sector = j.head ∧ s.ue.slot = 2048 then 1 else s.ue.slot,
          waiting := false } }
      exec .journalSectorOpened s = .next (if j.ahead - 1 ≤ 2 then t.testReclaim.testLow else t).pump) ∧
    (∀ sec : Nat, s.inPort .reclaim (.erase sec) →
      exec .reclaimEraseDone s = .next (({ s with
        store := s.store.clear (sec * 65536) 65536, port := s.port.freed,
        journal := { j with
          tail := next j.tail, ahead := j.ahead + 1,
          state := if j.state = JournalState.full then JournalState.ready else j.state } }).bump
        .reclaims).testReclaim.pump) ∧
    (s.testReclaim = if j.ahead ≤ 2 ∧ j.tail ≠ j.head ∧ (j.cursorSector ≠ j.tail ∨ s.isHole j.tail = true)
        ∧ s.port.outstanding .reclaim = false ∧ s.erasing = false ∧ s.storeFailed = false
      then s.request .reclaim (.erase j.tail) else s) ∧
    (s.testLow = if j.ahead ≤ 2 ∧ j.cursorSector = j.tail ∧ s.isHole j.tail = false
      then s.raise .journalLow (BitVec.ofNat 32 j.ahead) else s)

/-- R145: the slot the mark walk reads next, the ends of its reads and programs, and the cursor's move, holes passed
whole. That a JOURNAL ERASE holds the walk until its work has ended, and no longer, is the model's choice (log 18). -/
def Obligations.MarkWalkFollowsTheTarget : Prop :=
  ∀ s : State, s.powered = true →
    let j := s.journal
    let freed : State := { s with port := s.port.freed }
    (∀ a len : Nat, s.inPort .mark (.read a len) →
      (∀ bs : List Byte, judgeJournal (s.store.slot j.cursorSector j.cursorSlot) = .valid bs →
        (j.markTarget < recSerial bs →
          exec .markSlotReadDone s = .next ({ freed with journal := { j with markBlocked := true } }).pump) ∧
        (recSerial bs ≤ j.markTarget → uploaded bs = true →
          exec .markSlotReadDone s = .next ({ freed with journal := { j with markDone := recSerial bs } }).moveCursor.pump) ∧
        (recSerial bs ≤ j.markTarget → uploaded bs = false →
          exec .markSlotReadDone s = .next (({ freed with journal := { j with marking := some (recSerial bs) } }).request
            .mark (.program (j.cursorSector * 65536 + j.cursorSlot * 32 + 29) [0#8])).pump)) ∧
      ((∀ bs : List Byte, judgeJournal (s.store.slot j.cursorSector j.cursorSlot) ≠ .valid bs) →
        exec .markSlotReadDone s = .next freed.moveCursor.pump)) ∧
    (∀ (a n : Nat) (bs : List Byte), s.inPort .mark (.program a bs) → j.marking = some n →
      exec .markProgramDone s = .next ((({ freed with
        store := (StoreOp.program a bs).apply s.store,
        journal := { j with marking := none, markDone := n } }).bump .markPrograms).moveCursor).pump) ∧
    (let walks : Prop := s.storeFailed = false ∧ (¬ ∃ (tag : Byte) (w : Work), s.tl.longOp = some ⟨0x72#8, tag, w, none⟩)
       ∧ (j.state = .ready ∨ j.state = .full) ∧ s.port.outstanding .mark = false ∧ j.markBlocked = false
       ∧ ¬ (j.cursorSector = j.head ∧ j.cursorSlot = j.headNext)
     (¬ walks → s.wantMark = s) ∧
     (walks → s.wantMark = { s with port := { s.port with waiting := s.port.waiting ++
        [⟨.mark, .read (j.cursorSector * 65536 + j.cursorSlot * 32) 32⟩] } })) ∧
    (let cursorTo (sec slot : Nat) : State := { s with journal := { j with cursorSector := sec, cursorSlot := slot } }
     let next := if j.cursorSector = 511 then 18 else j.cursorSector + 1
     (j.cursorSlot < 2047 → (j.cursorSector = j.head ∨ s.isHole j.cursorSector = false) →
        s.moveCursor = (cursorTo j.cursorSector (j.cursorSlot + 1)).testReclaim) ∧
     (2047 ≤ j.cursorSlot → j.cursorSector = j.head → s.moveCursor = (cursorTo j.cursorSector 2048).testReclaim) ∧
     (2047 ≤ j.cursorSlot → j.cursorSector ≠ j.head → (next = j.head ∨ s.isHole next = false) →
        s.moveCursor = (cursorTo next 1).testReclaim) ∧
     -- past holes: the sectors of the ring from the cursor's own, or the one after it, up to the first that is no hole
     (let ring (k : Nat) : Nat := (j.cursorSector - 18 + k) % 494 + 18
      let first : Nat := if j.cursorSlot < 2047 then 0 else 1
      ∀ k : Nat, 18 ≤ j.cursorSector → j.cursorSector ≤ 511 → (2047 ≤ j.cursorSlot → j.cursorSector ≠ j.head) →
        1 ≤ k → k ≤ 493 → (∀ i : Nat, first ≤ i → i < k → ring i ≠ j.head ∧ s.isHole (ring i) = true) →
        (ring k = j.head ∨ s.isHole (ring k) = false) → s.moveCursor = (cursorTo (ring k) 1).testReclaim))

/-- R132, R153: a program that has used 10 ms or an erase that has used 3,000 ms of erase time fails the store: the
event rises, the journal is FAULT, its queue is discarded and counted, every walk read ends FAILED, an upload whose read
waits stalls at once (R166), and every other requester that waits for an answer is told. Only bytes the operations
touched may change; a route header cut so is not valid, and a record of the journal is torn (R42, R56, R137). The other
free bytes are the model's choice (log 8), that reaching the figure counts as overdue its reading (log 22), that the
requesters told act at their next row its choice (log 19). -/
def Obligations.TimeoutsFailTheStore : Prop :=
  ∀ (s : State) (c : Client) (op : StoreOp) (since : Word) (spent : Nat), s.powered = true →
    s.port.active = some ⟨c, op, since, spent⟩ →
    let used := spent + (s.tb.runClock - since).toNat
    let failed (t : State) (detail : Word) : Prop :=
      t.storeFailed = true ∧ t.journal.state = .fault ∧ t.journal.queue = []
      ∧ t.journal.discarded = s.journal.discarded + s.journal.queue.length
      ∧ t.journal.discardedRange = (match s.journal.queue with
          | [] => s.journal.discardedRange
          | q :: qs => some ((s.journal.discardedRange.map Prod.fst).getD q.reading.serial,
              ((q :: qs).getLast (List.cons_ne_nil q qs)).reading.serial))
      ∧ t.count .appendDiscard = (if s.journal.queue = [] then s.count .appendDiscard
          else min 4294967295 (s.count .appendDiscard + s.journal.queue.length))
      ∧ t.journal.markTarget = s.journal.markTarget ∧ t.journal.markDone = s.journal.markDone
      ∧ t.port.waiting = [] ∧ t.port.active = none ∧ t.port.suspended = none
      ∧ (∀ d : Client, (d = .query ∨ d = .longOp ∨ d = .startup) →
          (d ∈ t.port.failed ↔ d ∈ s.port.failed ∨ s.port.outstanding d = true))
      ∧ (∀ (w : Fin 4) (k : Walk), s.cl.walks[w] = some k → k.outcome = none →
          t.cl.walks[w] = some { k with outcome := some .failed })
      ∧ t.tl.flags.getLsbD 6 = true
      ∧ (s.tl.flags.getLsbD 6 = false → s.tl.mask.getLsbD 6 = true → s.tl.notices.length < 16 →
          ∃ rest : List Notice, t.tl.notices
            = s.tl.notices ++ .event 6 detail (s.tl.flags ||| 0x0040#16) s.tb.runClock :: rest)
      ∧ (s.port.outstanding .upload = false → t.ue = s.ue ∧ t.tl = (s.raise .storeFault detail).tl)
      ∧ (s.port.outstanding .upload = true →
          let r := (s.raise .storeFault detail).rewindUpload
          t.ue = { s.rewindUpload.ue with state := .stalled } ∧ t.tl = (r.raise .uploadStalled 1#32).tl
          ∧ t.tl.flags.getLsbD 10 = true)
      ∧ ∀ a : Nat, ¬ op.touches a → (∀ e : ActiveOp, s.port.suspended = some e → ¬ e.op.touches a) →
          t.store.read a = s.store.read a
    (op.isProgram = false ∨ used < 10 → exec .programTimeout s = .next s) ∧
    (op.isProgram = true → 10 ≤ used → ∃ t : State, exec .programTimeout s = .next t.pump ∧ failed t 0#32
      ∧ (s.storeOk → s.port.suspended = none → ∀ (sec slot : Nat) (bs : List Byte), slot < 2048 → bs.length = 32 →
        op = .program (sec * 65536 + slot * 32) bs →
        (sec = 1 → headerOf? (t.store.slot sec slot) = none) ∧
        (18 ≤ sec → 1 ≤ slot → judgeJournal (t.store.slot sec slot) = .torn))) ∧
    (op.isErase = false ∨ used < 3000 → exec .eraseTimeout s = .next s) ∧
    (op.isErase = true → 3000 ≤ used → ∃ t : State, exec .eraseTimeout s = .next t.pump ∧ failed t 1#32)

/-- R136, R146, R153, R154: CONFIG SAVE, JOURNAL STATUS and JOURNAL ERASE, every operation of their work, and its end. The
model's choice: reply widths (log 12), the erased count and the waits of JOURNAL ERASE, and its answer NOT_UPLOADED
after an append program that was in flight (log 18), operations ended by a step on an empty queue but for the last (log
2), the failed answer taken at the row (log 19), the upload read of a gathering given up withdrawn, or not used where it
is in flight (log 20). -/
def Obligations.SaveAndJournalCommands : Prop :=
  ∀ (tag : Byte) (s : State),
    let j := s.journal
    let freed : State := { s with port := s.port.freed }
    let told : State := { s with port := s.port.told .longOp }
    let marked : Prop := j.cursorSector = j.head ∧ j.cursorSlot = j.headNext
      ∧ ¬ ∃ (a spent : Nat) (bs : List Byte) (since : Word),
          s.port.active = some ⟨.mark, .program a bs, since, spent⟩
    (s.acceptsSetting tag 0x70#8 [] → exec (.configSave tag []) s = .next
      (({ s with tl := s.tl.holdFor tag 0x70#8 (.save (imageBytes s.settings) 0) }).request .longOp (.erase 0)).pump) ∧
    (∀ (image : List Byte) (a : Nat) (bs : List Byte), s.working 0x70#8 tag (.save image 1) →
      s.inPort .longOp (.program a bs) → exec .configSaveDone s = .next ({ freed with
        store := (StoreOp.program a bs).apply s.store,
        tl := s.tl.ended 0x70#8 tag .ok ([0x01#8, 0x7B#8] ++ slice image 375 4) }).pump) ∧
    (∀ (image : List Byte) (page : Nat), s.working 0x70#8 tag (.save image page) → s.unanswered .longOp →
      exec .configSaveDone s = .next ({ told with tl := s.tl.ended 0x70#8 tag .storeFault [] }).pump) ∧
    (s.accepts tag 0x71#8 [] → exec (.journalStatus tag []) s = .next (s.replied tag 0x71#8 .ok
      ([byteOf j.state.code, boolByte s.storeFailed] ++ beBytes 2 j.tail ++ beBytes 2 j.head ++ beBytes 2 j.headNext
        ++ beBytes 2 j.ahead ++ beBytes 2 (j.span.countP s.isHole) ++ beBytes 4 j.nextSerial ++ beBytes 4 j.markDone
        ++ beBytes 4 j.markTarget ++ beBytes 2 j.cursorSector ++ beBytes 2 j.cursorSlot
        ++ [byteOf j.queue.length, boolByte (s.port.outstanding .reclaim), boolByte s.port.suspended.isSome]
        ++ beBytes 4 j.torn ++ beBytes 4 j.uncertain ++ beBytes 4 j.discarded
        ++ (match j.discardedRange with
          | some (low, high) => beBytes 4 low ++ beBytes 4 high
          | none => List.replicate 8 0xFF#8)))) ∧
    (s.accepts tag 0x72#8 [] →
      let open_ : Prop := s.rm.state = .opened ∨ s.rm.state = .resuming
      let broken : Prop := s.storeFailed = true ∨ j.state = .fault
      (open_ → exec (.journalErase tag []) s = .next (s.replied tag 0x72#8 .badState [])) ∧
      (¬ open_ → broken → exec (.journalErase tag []) s = .next (s.replied tag 0x72#8 .storeFault [])) ∧
      (¬ open_ → ¬ broken → ¬ marked → exec (.journalErase tag []) s = .next (s.replied tag 0x72#8 .notUploaded [])) ∧
      (¬ open_ → ¬ broken → marked →
        let u := s.stopGathering
        exec (.journalErase tag []) s = .next ({ u with
          port := { u.port with waiting := u.port.waiting.filter (fun r =>
            r.client != Client.append && r.client != Client.opening && r.client != Client.mark
              && r.client != Client.reclaim && r.client != Client.uploadGone) },
          tl := s.tl.holdFor tag 0x72#8 .eraseWait }).pump)) ∧
    -- the operations in the middle of the work
    (let next (sec : Nat) : Nat := if sec = 511 then 18 else sec + 1
     let on (t : State) (w : Work) (code : Byte) (op : StoreOp) : State :=
       ({ t with tl := s.tl.workOn code tag w }).request .longOp op
     let erased (sec : Nat) : State := { freed with store := s.store.clear (sec * 65536) 65536 }
     let programmed (a : Nat) (bs : List Byte) : State := { freed with store := (StoreOp.program a bs).apply s.store }
     let first := match j.queue with | q :: _ => q.reading.serial | [] => j.nextSerial
     let header (q : Nat) : StoreOp := .program (next j.head * 65536) (sectorHeaderBytes (q + 1) first)
     (s.working 0x72#8 tag .eraseWait →
       let waits : Prop := s.port.outstanding .append = true ∨ s.port.outstanding .reclaim = true
         ∨ s.port.outstanding .opening = true
       (waits → s.beginErase = s) ∧
       (¬ waits → ¬ marked → s.beginErase = { s with tl := s.tl.ended 0x72#8 tag .notUploaded [] }) ∧
       (¬ waits → marked → s.beginErase =
         if j.tail = j.head then on s (.eraseOpen 0) 0x72#8 (.read (next j.head * 65536) 65536)
         else on s (.eraseSpan 0) 0x72#8 (.erase j.tail))) ∧
     (s.pending = [] →
       (∀ (image : List Byte) (page : Nat), s.working 0x70#8 tag (.save image page) →
         (∀ sec : Nat, s.inPort .longOp (.erase sec) →
           step s = .next (on (erased sec) (.save image 0) 0x70#8 (.program 0 (image.take 256))).pump) ∧
         (∀ (a : Nat) (bs : List Byte), page = 0 → s.inPort .longOp (.program a bs) →
           step s = .next (on (programmed a bs) (.save image 1) 0x70#8 (.program 256 (image.drop 256))).pump)) ∧
       (∀ n sec : Nat, s.working 0x72#8 tag (.eraseSpan n) → s.inPort .longOp (.erase sec) →
         let t : State := { erased sec with journal := { j with tail := next j.tail, ahead := j.ahead + 1 } }
         step s = .next (if next j.tail = j.head then
             on t (.eraseOpen (n + 1)) 0x72#8 (.read (next j.head * 65536) 65536)
           else on t (.eraseSpan (n + 1)) 0x72#8 (.erase (next j.tail))).pump) ∧
       (∀ n : Nat, s.working 0x72#8 tag (.eraseOpen n) →
         (∀ a len q f : Nat, s.inPort .longOp (.read a len) → judgeHeader (s.store.slot j.head 0) = .valid q f →
           step s = .next (on freed (.eraseOpen n) 0x72#8
             (if s.store.blank (next j.head * 65536) 65536 then header q else .erase (next j.head))).pump) ∧
         (∀ sec q f : Nat, s.inPort .longOp (.erase sec) →
           judgeHeader ((erased sec).store.slot j.head 0) = .valid q f →
           step s = .next (on (erased sec) (.eraseOpen n) 0x72#8 (header q)).pump) ∧
         (∀ (a : Nat) (bs : List Byte), s.inPort .longOp (.program a bs) →
           step s = .next (on (programmed a bs).sectorOpened (.eraseOld n j.head) 0x72#8 (.erase j.head)).pump)))) ∧
    (∀ n old sec : Nat, s.working 0x72#8 tag (.eraseOld n old) → s.inPort .longOp (.erase sec) →
      exec .journalEraseDone s = .next ({ freed with
        store := s.store.clear (sec * 65536) 65536,
        journal := { j with state := .ready, tail := j.head, ahead := 493, cursorSector := j.head, cursorSlot := 1,
                            markBlocked := false },
        ue := { s.ue with waiting := false },
        tl := s.tl.ended 0x72#8 tag .ok (beBytes 2 j.head ++ beBytes 4 j.nextSerial ++ beBytes 2 (n + 1)) }).pump) ∧
    (∀ w : Work, w.erases = true → s.working 0x72#8 tag w → s.unanswered .longOp →
      exec .journalEraseDone s = .next ({ told with tl := s.tl.ended 0x72#8 tag .storeFault [] }).pump)

/-! ### Depot upload (chapter 8) -/

/-- R143, R158 to R160, R164, R166: the slot the engine reads next, the answer to an upload read and what the engine
makes of it, the close of the gathering, the rewind, and UPLOAD_TIMEOUT. When the end of the head is noticed is the
model's reading (log 27); its choice is a read given up in flight, and the records gathered put back at a rewind (log
20), and that JOURNAL ERASE holds the reads until its work has ended, and no longer (log 18). A read asked for while the
store is FAILED stalls the engine at once; TimeoutsFailTheStore says so of a read that waits when the store fails. -/
def Obligations.UploadReadsAndTimeouts : Prop :=
  ∀ s : State, s.powered = true →
    let j := s.journal
    let u := s.ue
    let freed : State := { s with port := s.port.freed }
    let pointAt (p : Nat × Nat) : State := { freed with ue := { u with sector := p.1, slot := p.2 } }
    -- the next read
    (let reads : Prop := u.state = .streaming ∧ s.tl.rate ≠ none ∧ u.ready = none ∧ u.window.length < 8
       ∧ (¬ ∃ (tag : Byte) (w : Work), s.tl.longOp = some ⟨0x72#8, tag, w, none⟩) ∧ u.waiting = false
       ∧ s.port.outstanding .upload = false
     (¬ reads → s.wantUpload = s) ∧
     (reads → s.storeFailed = false → s.wantUpload = s.request .upload (.read (u.sector * 65536 + u.slot * 32) 32)) ∧
     (reads → s.storeFailed = true →
       let t := s.rewindUpload
       s.wantUpload = ({ t with ue := { t.ue with state := .stalled } }).raise .uploadStalled 1#32)) ∧
    -- the reads
    (∀ a len : Nat, s.inPort .upload (.read a len) →
      let row := exec .uploadReadDone s
      let judged := judgeJournal (s.store.slot u.sector u.slot)
      let on := j.after u.sector u.slot
      (j.outside u.sector u.slot = true → row = .next
        (if u.sector = j.head ∧ j.headNext ≤ u.slot then freed else pointAt (j.tail, 1)).closeGathering.pump) ∧
      (j.outside u.sector u.slot = false → s.isHole u.sector = true →
        row = .next (pointAt (if u.sector = 511 then 18 else u.sector + 1, 1)).closeGathering.pump) ∧
      (j.outside u.sector u.slot = false → s.isHole u.sector = false →
        ((∀ bs, judged ≠ .valid bs) → row = .next (pointAt on).closeGathering.pump) ∧
        (∀ bs, judged = .valid bs →
          (uploaded bs = true ∨ recSerial bs ≤ u.lastAck → row = .next (pointAt on).closeGathering.pump) ∧
          (uploaded bs = false → u.lastAck < recSerial bs → row = .next
            ({ freed with ue := { u with
              sector := on.1, slot := on.2,
              gathered := u.gathered ++ [UploadRecord.mk (recSerial bs) u.sector u.slot bs] } }).closeGathering.pump)))) ∧
    (∀ a len : Nat, s.inPort .uploadGone (.read a len) → exec .uploadReadDone s = .next freed.pump) ∧
    (s.ownRow → (∀ a : ActiveOp, s.port.active = some a → a.client ≠ .upload ∧ a.client ≠ .uploadGone) →
      exec .uploadReadDone s = .next s) ∧
    -- the close of the gathering
    (let atEnd : Bool := decide (u.sector = j.head ∧ j.headNext ≤ u.slot)
     (8 ≤ u.gathered.length ∨ (atEnd = true ∧ u.gathered ≠ []) → s.closeGathering = { s with
        ue := { u with ready := some u.gathered, gathered := [], waiting := atEnd } }) ∧
     (u.gathered.length < 8 → (atEnd = false ∨ u.gathered = []) →
        s.closeGathering = { s with ue := { u with waiting := atEnd } })) ∧
    -- the rewind
    (let t := s.rewindUpload
     let taken := u.window.flatten ++ u.ready.getD []
     t.ue.window = [] ∧ t.ue.ready = none ∧ t.ue.expiry = none ∧ t.ue.gathered = []
     ∧ t.ue.lastAck = u.lastAck ∧ t.ue.ceiling = u.ceiling ∧ t.ue.state = u.state ∧ t.ue.streak = u.streak
     ∧ t = { s with ue := t.ue, port := s.dropUploadRead.port, tl := { s.tl with tx := s.tl.tx.map Transmission.disown } }
     ∧ (∀ (pre post : List UploadRecord) (r : UploadRecord), taken = pre ++ r :: post → u.lastAck < r.serial →
          (∀ q ∈ pre, q.serial ≤ u.lastAck) → t.ue.sector = r.sector ∧ t.ue.slot = r.slot)
     ∧ ((∀ q ∈ taken, q.serial ≤ u.lastAck) →
          (∀ (r : UploadRecord) (rest : List UploadRecord), u.gathered = r :: rest →
            t.ue.sector = r.sector ∧ t.ue.slot = r.slot) ∧
          (u.gathered = [] → t.ue.sector = u.sector ∧ t.ue.slot = u.slot))) ∧
    -- the timeout
    (∀ e : Word, u.state = .streaming → u.window ≠ [] → u.expiry = some e → (s.tb.runClock - e).toNat < 2 ^ 31 →
      let r := s.rewindUpload.bump .uploadRewinds
      let t : State := { r with ue := { r.ue with streak := u.streak + 1 } }
      exec .uploadTimeout s = .next
        (if 2 ≤ u.streak then ({ t with ue := { t.ue with state := .stalled } }).raise .uploadStalled 0#32 else t).pump)

/-- R157, R159, R161 to R163, R167, R144: UPLOAD START, UPLOAD STOP and UPLOAD ACK. UPLOAD START on an empty journal
waits without a read (log 27). That an acknowledgment of the last acknowledged serial takes out a frame that joined the
window wholly acknowledged is its choice (log 44). That UPLOAD STOP puts the records gathered so far back, as R159 does,
so that the pointer stands at the first of them, and that its read is withdrawn from the port, is the model's
choice (log 20). -/
def Obligations.UploadCommands : Prop :=
  ∀ (tag : Byte) (s : State),
    let j := s.journal
    let u := s.ue
    let serials (v : UploadEngine) (k : Journal) : List Byte :=
      beBytes 4 v.lastAck ++ beBytes 4 v.ceiling ++ beBytes 4 k.markTarget ++ beBytes 4 k.markDone
    let disowned : Trunk := { s.tl with tx := s.tl.tx.map Transmission.disown }
    (s.accepts tag 0x80#8 [] →
      let row := exec (.uploadStart tag []) s
      let held : Prop := u.state = .streaming ∨ j.state = .scanning
      let broken : Prop := j.state = .fault ∨ s.storeFailed = true
      (held → row = .next (s.replied tag 0x80#8 .badState [])) ∧
      (¬ held → broken → row = .next (s.replied tag 0x80#8 .storeFault [])) ∧
      (¬ held → ¬ broken → row = .next (({ s with
        port := s.dropUploadRead.port,
        ue := { u with state := .streaming, sector := j.tail, slot := 1, ready := none, window := [], expiry := none,
                       streak := 0, gathered := [], waiting := decide (j.tail = j.head ∧ j.headNext ≤ 1) },
        tl := disowned }).replied tag 0x80#8 .ok
          (beBytes 2 j.tail ++ beBytes 2 j.head ++ beBytes 2 j.headNext ++ serials u j)).pump)) ∧
    (s.takes tag 0x81#8 [] →
      let p : Nat × Nat := match u.gathered with | r :: _ => (r.sector, r.slot) | [] => (u.sector, u.slot)
      exec (.uploadStop tag []) s = .next (({ s with
        port := s.dropUploadRead.port,
        ue := { u with state := .idle, sector := p.1, slot := p.2, ready := none, window := [], expiry := none,
                       streak := 0, gathered := [] },
        tl := disowned }).replied tag 0x81#8 .ok (serials u j)).pump) ∧
    (∀ args : List Byte, args.length = 4 → s.takes tag 0x82#8 args →
      let n := numAt args 0 4
      let row := exec (.uploadAck tag args) s
      let report (v : UploadEngine) (k : Journal) : List Byte :=
        byteOf v.state.code :: serials v k ++ [byteOf v.window.length]
      (n < u.lastAck → row = .next ((s.bump .ackStale).replied tag 0x82#8 .ok (report u j))) ∧
      (u.lastAck ≤ n → u.ceiling < n → row = .next (s.replied tag 0x82#8 .badArg (report u j))) ∧
      (u.lastAck ≤ n → n ≤ u.ceiling →
        let left := u.window.filter (fun f => f.any (fun r => n < r.serial))
        let v : UploadEngine := { u with
          window := left, lastAck := n, streak := 0,
          expiry := if left.length = u.window.length then u.expiry
            else if left = [] then none else some (s.tb.runClock + 4000) }
        let k : Journal := { j with
          markTarget := max j.markTarget n,
          markBlocked := j.markBlocked && decide (n ≤ j.markTarget) }
        row = .next (({ s with ue := v, journal := k }).replied tag 0x82#8 .ok (report v k)).pump))

/-! ### The trunk link (chapter 9) -/

/-- R171, R173 to R176: tuning, framing errors, the assembly of frames character by character, the inbound buffer, and
the answer to an unknown code. LINK_FRAME_RECEIVED is the character that completes a frame (log 4). -/
def Obligations.LinkTakesCharacters : Prop :=
  ∀ s : State, s.powered = true →
    let rxd (rx : Option (List Byte)) : State := { s with tl := { s.tl with rx := rx } }
    (∀ rate : Nat,
      (s.tl.rate = none → 9600 ≤ rate → rate ≤ 2000000 → exec (.linkTuned rate) s = .next
        ({ s with tl := { s.tl with rate := some rate, rx := none } }).pump) ∧
      (s.tl.rate ≠ none ∨ rate < 9600 ∨ 2000000 < rate → exec (.linkTuned rate) s = .next s)) ∧
    (s.tl.rate = none → exec .linkFramingError s = .next s ∧ ∀ b : Byte, exec (.characterAccepted b) s = .next s) ∧
    (s.tl.rate ≠ none →
      exec .linkFramingError s = .next ((rxd none).bump .linkFraming) ∧
      ∀ b : Byte,
        let row := exec (.characterAccepted b) s
        (s.tl.rx = none → row = .next (if b = 0xA5#8 then rxd (some []) else s)) ∧
        ∀ bs : List Byte, s.tl.rx = some bs →
          let all := bs ++ [b]
          let n := numAt all 0 2
          let bad : Prop := all.length = 2 ∧ (n = 0 ∨ 1024 < n)
          (bad → row = .next ((rxd none).bump .linkDiscard)) ∧
          (¬ bad → (all.length = 1 ∨ all.length ≠ n + 6) → row = .next (rxd (some all))) ∧
          (2 ≤ all.length → all.length = n + 6 →
            let frame : CmdFrame := ⟨all.getD 3 0#8, slice all 4 n⟩
            let good : Prop := slice all (n + 4) 2 = crcBytes (crcK1 (all.take (n + 4))) ∧ all.getD 2 0#8 = 0x01#8
            exec (.linkFrameReceived b) s = row ∧
            (¬ good → row = .next ((rxd none).bump .linkDiscard)) ∧
            (good → 2 ≤ s.tl.inbound.length → row = .next ((rxd none).bump .cmdOverrun)) ∧
            (good → s.tl.inbound.length < 2 → row = .next
              { s with tl := { s.tl with rx := none, inbound := s.tl.inbound ++ [frame] } }))) ∧
    (∀ (tag code : Byte) (args : List Byte), s.takes tag code args →
      (∀ (i : Instr) (f : CommandForm), i.form? = some f → f.code ≠ code) →
      exec (.unknownCommand tag code args) s = .next (s.replied tag code .unknownCommand []))

/-- R133, R160, R168, R172, R177, R179, R180: what the scheduler sends first, the layout of a frame and of a notice, the
end of a transmission, the reply of an ended long operation, and a break, which leaves every store operation in its
place and, but for the loss of the frame in transmission, changes only the upload engine, the rate, receiver and
transmission of the link, and LINK_BREAKS. That a break of the RESET reply is the reset, and TRANSMIT_END of it too, is
read by log 4; that a frame wholly acknowledged while in transmission joins the window is the model's choice (log 44);
that the answer to an upload read begun before a break is not used is the model's choice (log 20). -/
def Obligations.SchedulerSendsInOrder : Prop :=
  ∀ s : State, s.powered = true →
    -- the reply of a long operation
    (∀ (code tag : Byte) (w : Work) (body : List Byte), s.tl.longOp = some ⟨code, tag, w, some body⟩ →
      s.tl.reply = none →
      exec .longOpReply s = .next { s with tl := { s.tl with reply := some ⟨tag, body, false⟩, longOp := none } }) ∧
    -- the beginning of a frame
    (s.tl.rate ≠ none → s.tl.tx = none →
      let sends (tl : Trunk) (k : TxKind) (kind tag : Byte) (body : List Byte) : Prop :=
        let counted := beBytes 2 body.length ++ [kind, tag] ++ body
        exec .transmitBegin s = .next { s with
          tl := { tl with tx := some ⟨k, 0xA5#8 :: counted ++ beBytes 2 (crcK1 counted).toNat⟩ } }
      (∀ r : Reply, s.tl.reply = some r → sends { s.tl with reply := none } (.reply r.isReset) 0x02#8 r.tag r.body) ∧
      (s.tl.reply = none →
        (∀ (n : Notice) (rest : List Notice), s.tl.notices = n :: rest →
          sends { s.tl with notices := rest, overrun := false, noticeSeq := s.tl.noticeSeq + 1 } .notice 0x03#8
            s.tl.noticeSeq (match n with
              | .event number detail flags clock => [0#8, boolByte s.tl.overrun, byteOf number]
                  ++ beBytes 4 detail.toNat ++ beBytes 2 flags.toNat ++ beBytes 4 clock.toNat
              | .completion route segment meters second read flagged =>
                [1#8, boolByte s.tl.overrun, boolByte route, byteOf segment] ++ beBytes 2 meters
                  ++ beBytes 2 second ++ beBytes 2 read ++ beBytes 2 flagged)) ∧
        (s.tl.notices = [] →
          (∀ (f : LiveFrame) (rest : List LiveFrame), s.tl.live = f :: rest →
            sends { s.tl with live := rest, readingSeq := s.tl.readingSeq + 1 } (.reading f.reading.meterId) 0x04#8
              s.tl.readingSeq (recordBytes f.reading (if f.unstored then 1#8 else 0#8))) ∧
          (s.tl.live = [] →
            (∀ rs : List UploadRecord, s.ue.ready = some rs →
              sends { s.tl with uploadSeq := s.tl.uploadSeq + 1 } (.upload rs true) 0x05#8 s.tl.uploadSeq
                (byteOf rs.length :: rs.flatMap (·.bytes))) ∧
            (s.ue.ready = none → exec .transmitBegin s = .next s))))) ∧
    -- its end, and its loss in a break
    (∀ (k : TxKind) (bytes : List Byte), s.tl.tx = some ⟨k, bytes⟩ →
      let sent : State := { s with tl := { s.tl with tx := none } }
      ((k = .reply false ∨ k = .notice ∨ ∃ id, k = .reading id) → exec .transmitEnd s = .next sent) ∧
      (∀ (f : List UploadRecord) (owned : Bool), k = .upload f owned →
        let u : UploadEngine := { s.ue with ceiling := f.foldl (fun m r => max m r.serial) s.ue.ceiling }
        exec .transmitEnd s = .next (({ sent with ue := if owned then { u with
            ready := none, window := s.ue.window ++ [f],
            expiry := if s.ue.window = [] then some (s.tb.runClock + 4000) else s.ue.expiry }
          else u }).bump .uploadFrames |>.bump .uploadRecords f.length).pump)) ∧
    (s.tl.rate ≠ none →
      let r := (s.bump .linkBreaks).breakUpload
      let cut : State := { r with tl := { r.tl with rate := none, rx := none, tx := none } }
      let row := exec .linkBreak s
      (r = { s.bump .linkBreaks with
          ue := r.ue, port := r.port, tl := { s.tl with tx := s.tl.tx.map Transmission.disown } }
        ∧ (∀ (k : TxKind) (bytes : List Byte), (⟨k, bytes⟩ : Transmission).disown = ⟨match k with
            | .upload f _ => .upload f false
            | _ => k, bytes⟩)
        ∧ r.ue = s.rewindUpload.ue ∧ r.journal = s.journal ∧ r.store = s.store ∧ r.storeFailed = s.storeFailed
        ∧ r.port.waiting.map (·.op) = s.port.waiting.map (·.op) ∧ r.port.active.map (·.op) = s.port.active.map (·.op)
        ∧ r.port.suspended = s.port.suspended ∧ r.port.finishing = s.port.finishing) ∧
      (s.tl.tx = none → row = .next cut.pump) ∧
      (∀ (k : TxKind) (bytes : List Byte), s.tl.tx = some ⟨k, bytes⟩ →
        (k = .reply false → row = .next (cut.bump .replyLost).pump) ∧
        (k = .reply true → row = .next (cut.bump .replyLost).commandReset.pump) ∧
        (k = .notice → row = .next
          (({ cut with tl := { cut.tl with overrun := true } }).bump .noticeDrop).pump) ∧
        (∀ id : Word, k = .reading id → row = .next ((cut.bump .liveDrop).raise .liveDrop id).pump) ∧
        (∀ (f : List UploadRecord) (owned : Bool), k = .upload f owned → row = .next cut.pump)))

/-- R180 to R186: STATUS, the counters, the event flags and mask, RESET, and what raising an event does. The layout of
STATUS is read by log 12, its rate while UNTUNED is the model's choice (log 15). -/
def Obligations.StatusCountersAndEvents : Prop :=
  ∀ (tag : Byte) (s : State),
    (s.takes tag 0x90#8 [] → exec (.status tag []) s = .next (s.replied tag 0x90#8 .ok
      ([0x01#8, 0xA2#8, 0x01#8, byteOf s.rm.state.code] ++ beBytes 2 s.rm.meterCount
        ++ [byteOf s.journal.state.code, boolByte s.storeFailed, byteOf s.ue.state.code]
        ++ (match s.tl.rate with | some r => beBytes 4 r | none => List.replicate 4 0xFF#8)
        ++ [boolByte s.tb.timeValid, if s.tb.present then 0#8 else 1#8]
        ++ beBytes 2 s.tl.flags.toNat ++ beBytes 2 s.tl.mask.toNat
        ++ [byteOf s.tl.inbound.tail.length, byteOf s.tl.notices.length, byteOf s.tl.live.length]
        ++ (match s.tl.longOp with | some l => [1#8, l.code] | none => [0#8])))) ∧
    (s.takes tag 0x91#8 [] → exec (.countersRead tag []) s = .next
      (s.replied tag 0x91#8 .ok (s.counters.toList.flatMap (beBytes 4)))) ∧
    (s.accepts tag 0x92#8 [] → exec (.countersClear tag []) s = .next
      (({ s with counters := Vector.replicate 88 0 }).replied tag 0x92#8 .ok [])) ∧
    (∀ a b : Byte, let m := BitVec.ofNat 16 (a.toNat * 256 + b.toNat)
      (s.takes tag 0x93#8 [a, b] →
        let flags := s.tl.flags &&& ~~~ m
        exec (.eventsClear tag [a, b]) s = .next
          (({ s with tl := { s.tl with flags := flags } }).replied tag 0x93#8 .ok (beBytes 2 flags.toNat))) ∧
      (s.acceptsSetting tag 0x94#8 [a, b] → exec (.eventMask tag [a, b]) s = .next
        (({ s with tl := { s.tl with mask := m } }).replied tag 0x94#8 .ok [a, b]))) ∧
    (s.accepts tag 0x95#8 [] → ∃ t : State, exec (.reset tag []) s = .next t
      ∧ t = { s with tl := { s.tl with
          inbound := s.tl.inbound.tail, reply := some ⟨tag, [0x95#8, 0#8], true⟩, resetArmed := true } }
      ∧ ∀ f : CmdFrame, t.canTake f = false) ∧
    (∀ (e : Event) (detail : Word),
      let flagged : State := { s with tl := { s.tl with flags := s.tl.flags ||| (1#16 <<< e.number) } }
      (s.tl.flags.getLsbD e.number = true → s.raise e detail = s) ∧
      (s.tl.flags.getLsbD e.number = false →
        (s.tl.mask.getLsbD e.number = false → s.raise e detail = flagged) ∧
        (s.tl.mask.getLsbD e.number = true → s.tl.notices.length < 16 → s.raise e detail = { flagged with
          tl := { flagged.tl with
            notices := s.tl.notices ++ [.event e.number detail flagged.tl.flags s.tb.runClock] } }) ∧
        (s.tl.mask.getLsbD e.number = true → 16 ≤ s.tl.notices.length → s.raise e detail =
          ({ flagged with tl := { flagged.tl with overrun := true } }).bump .noticeDrop)))
end

