-- ==== Sys2Proof/Laws/State.lean ====
section
/-! SUPPORT. What the record updates of the model leave unchanged, field by field, each true by `rfl`. -/

namespace Sys2Proof.Machine

@[simp] theorem State.bump_pending (c : Counter) (s : State) (n : Nat) : (State.bump c s n).pending = s.pending := rfl
@[simp] theorem State.bump_powered (c : Counter) (s : State) (n : Nat) : (State.bump c s n).powered = s.powered := rfl
@[simp] theorem State.bump_freeIndex (c : Counter) (s : State) (n : Nat) : (State.bump c s n).freeIndex = s.freeIndex := rfl
@[simp] theorem State.bump_ports (c : Counter) (s : State) (n : Nat) : (State.bump c s n).ports = s.ports := rfl
@[simp] theorem State.bump_channels (c : Counter) (s : State) (n : Nat) : (State.bump c s n).channels = s.channels := rfl
@[simp] theorem State.bump_families (c : Counter) (s : State) (n : Nat) : (State.bump c s n).families = s.families := rfl
@[simp] theorem State.bump_tb (c : Counter) (s : State) (n : Nat) : (State.bump c s n).tb = s.tb := rfl
@[simp] theorem State.bump_rm (c : Counter) (s : State) (n : Nat) : (State.bump c s n).rm = s.rm := rfl
@[simp] theorem State.bump_cl (c : Counter) (s : State) (n : Nat) : (State.bump c s n).cl = s.cl := rfl
@[simp] theorem State.bump_mc (c : Counter) (s : State) (n : Nat) : (State.bump c s n).mc = s.mc := rfl
@[simp] theorem State.bump_rules (c : Counter) (s : State) (n : Nat) : (State.bump c s n).rules = s.rules := rfl
@[simp] theorem State.bump_store (c : Counter) (s : State) (n : Nat) : (State.bump c s n).store = s.store := rfl
@[simp] theorem State.bump_port (c : Counter) (s : State) (n : Nat) : (State.bump c s n).port = s.port := rfl
@[simp] theorem State.bump_startup (c : Counter) (s : State) (n : Nat) : (State.bump c s n).startup = s.startup := rfl
@[simp] theorem State.bump_storeFailed (c : Counter) (s : State) (n : Nat) : (State.bump c s n).storeFailed = s.storeFailed := rfl
@[simp] theorem State.bump_journal (c : Counter) (s : State) (n : Nat) : (State.bump c s n).journal = s.journal := rfl
@[simp] theorem State.bump_ue (c : Counter) (s : State) (n : Nat) : (State.bump c s n).ue = s.ue := rfl
@[simp] theorem State.bump_tl (c : Counter) (s : State) (n : Nat) : (State.bump c s n).tl = s.tl := rfl

@[simp] theorem State.setChannel_pending (c : Fin 8) (ch : Channel) (s : State) : (s.setChannel c ch).pending = s.pending := rfl
@[simp] theorem State.setChannel_powered (c : Fin 8) (ch : Channel) (s : State) : (s.setChannel c ch).powered = s.powered := rfl
@[simp] theorem State.setChannel_freeIndex (c : Fin 8) (ch : Channel) (s : State) : (s.setChannel c ch).freeIndex = s.freeIndex := rfl
@[simp] theorem State.setChannel_ports (c : Fin 8) (ch : Channel) (s : State) : (s.setChannel c ch).ports = s.ports := rfl
@[simp] theorem State.setChannel_families (c : Fin 8) (ch : Channel) (s : State) : (s.setChannel c ch).families = s.families := rfl
@[simp] theorem State.setChannel_tb (c : Fin 8) (ch : Channel) (s : State) : (s.setChannel c ch).tb = s.tb := rfl
@[simp] theorem State.setChannel_rm (c : Fin 8) (ch : Channel) (s : State) : (s.setChannel c ch).rm = s.rm := rfl
@[simp] theorem State.setChannel_cl (c : Fin 8) (ch : Channel) (s : State) : (s.setChannel c ch).cl = s.cl := rfl
@[simp] theorem State.setChannel_mc (c : Fin 8) (ch : Channel) (s : State) : (s.setChannel c ch).mc = s.mc := rfl
@[simp] theorem State.setChannel_rules (c : Fin 8) (ch : Channel) (s : State) : (s.setChannel c ch).rules = s.rules := rfl
@[simp] theorem State.setChannel_store (c : Fin 8) (ch : Channel) (s : State) : (s.setChannel c ch).store = s.store := rfl
@[simp] theorem State.setChannel_port (c : Fin 8) (ch : Channel) (s : State) : (s.setChannel c ch).port = s.port := rfl
@[simp] theorem State.setChannel_startup (c : Fin 8) (ch : Channel) (s : State) : (s.setChannel c ch).startup = s.startup := rfl
@[simp] theorem State.setChannel_storeFailed (c : Fin 8) (ch : Channel) (s : State) : (s.setChannel c ch).storeFailed = s.storeFailed := rfl
@[simp] theorem State.setChannel_journal (c : Fin 8) (ch : Channel) (s : State) : (s.setChannel c ch).journal = s.journal := rfl
@[simp] theorem State.setChannel_ue (c : Fin 8) (ch : Channel) (s : State) : (s.setChannel c ch).ue = s.ue := rfl
@[simp] theorem State.setChannel_tl (c : Fin 8) (ch : Channel) (s : State) : (s.setChannel c ch).tl = s.tl := rfl
@[simp] theorem State.setChannel_counters (c : Fin 8) (ch : Channel) (s : State) : (s.setChannel c ch).counters = s.counters := rfl

@[simp] theorem State.setPort_pending (p : Fin 8) (x : Port) (s : State) : (s.setPort p x).pending = s.pending := rfl
@[simp] theorem State.setPort_powered (p : Fin 8) (x : Port) (s : State) : (s.setPort p x).powered = s.powered := rfl
@[simp] theorem State.setPort_freeIndex (p : Fin 8) (x : Port) (s : State) : (s.setPort p x).freeIndex = s.freeIndex := rfl
@[simp] theorem State.setPort_channels (p : Fin 8) (x : Port) (s : State) : (s.setPort p x).channels = s.channels := rfl
@[simp] theorem State.setPort_families (p : Fin 8) (x : Port) (s : State) : (s.setPort p x).families = s.families := rfl
@[simp] theorem State.setPort_tb (p : Fin 8) (x : Port) (s : State) : (s.setPort p x).tb = s.tb := rfl
@[simp] theorem State.setPort_rm (p : Fin 8) (x : Port) (s : State) : (s.setPort p x).rm = s.rm := rfl
@[simp] theorem State.setPort_cl (p : Fin 8) (x : Port) (s : State) : (s.setPort p x).cl = s.cl := rfl
@[simp] theorem State.setPort_mc (p : Fin 8) (x : Port) (s : State) : (s.setPort p x).mc = s.mc := rfl
@[simp] theorem State.setPort_rules (p : Fin 8) (x : Port) (s : State) : (s.setPort p x).rules = s.rules := rfl
@[simp] theorem State.setPort_store (p : Fin 8) (x : Port) (s : State) : (s.setPort p x).store = s.store := rfl
@[simp] theorem State.setPort_port (p : Fin 8) (x : Port) (s : State) : (s.setPort p x).port = s.port := rfl
@[simp] theorem State.setPort_startup (p : Fin 8) (x : Port) (s : State) : (s.setPort p x).startup = s.startup := rfl
@[simp] theorem State.setPort_storeFailed (p : Fin 8) (x : Port) (s : State) : (s.setPort p x).storeFailed = s.storeFailed := rfl
@[simp] theorem State.setPort_journal (p : Fin 8) (x : Port) (s : State) : (s.setPort p x).journal = s.journal := rfl
@[simp] theorem State.setPort_ue (p : Fin 8) (x : Port) (s : State) : (s.setPort p x).ue = s.ue := rfl
@[simp] theorem State.setPort_tl (p : Fin 8) (x : Port) (s : State) : (s.setPort p x).tl = s.tl := rfl
@[simp] theorem State.setPort_counters (p : Fin 8) (x : Port) (s : State) : (s.setPort p x).counters = s.counters := rfl

@[simp] theorem State.setJournal_pending (j : Journal) (s : State) : (s.setJournal j).pending = s.pending := rfl
@[simp] theorem State.setJournal_powered (j : Journal) (s : State) : (s.setJournal j).powered = s.powered := rfl
@[simp] theorem State.setJournal_freeIndex (j : Journal) (s : State) : (s.setJournal j).freeIndex = s.freeIndex := rfl
@[simp] theorem State.setJournal_ports (j : Journal) (s : State) : (s.setJournal j).ports = s.ports := rfl
@[simp] theorem State.setJournal_channels (j : Journal) (s : State) : (s.setJournal j).channels = s.channels := rfl
@[simp] theorem State.setJournal_families (j : Journal) (s : State) : (s.setJournal j).families = s.families := rfl
@[simp] theorem State.setJournal_tb (j : Journal) (s : State) : (s.setJournal j).tb = s.tb := rfl
@[simp] theorem State.setJournal_rm (j : Journal) (s : State) : (s.setJournal j).rm = s.rm := rfl
@[simp] theorem State.setJournal_cl (j : Journal) (s : State) : (s.setJournal j).cl = s.cl := rfl
@[simp] theorem State.setJournal_mc (j : Journal) (s : State) : (s.setJournal j).mc = s.mc := rfl
@[simp] theorem State.setJournal_rules (j : Journal) (s : State) : (s.setJournal j).rules = s.rules := rfl
@[simp] theorem State.setJournal_store (j : Journal) (s : State) : (s.setJournal j).store = s.store := rfl
@[simp] theorem State.setJournal_port (j : Journal) (s : State) : (s.setJournal j).port = s.port := rfl
@[simp] theorem State.setJournal_startup (j : Journal) (s : State) : (s.setJournal j).startup = s.startup := rfl
@[simp] theorem State.setJournal_storeFailed (j : Journal) (s : State) : (s.setJournal j).storeFailed = s.storeFailed := rfl
@[simp] theorem State.setJournal_ue (j : Journal) (s : State) : (s.setJournal j).ue = s.ue := rfl
@[simp] theorem State.setJournal_tl (j : Journal) (s : State) : (s.setJournal j).tl = s.tl := rfl
@[simp] theorem State.setJournal_counters (j : Journal) (s : State) : (s.setJournal j).counters = s.counters := rfl

@[simp] theorem State.setUpload_pending (u : UploadEngine) (s : State) : (s.setUpload u).pending = s.pending := rfl
@[simp] theorem State.setUpload_powered (u : UploadEngine) (s : State) : (s.setUpload u).powered = s.powered := rfl
@[simp] theorem State.setUpload_freeIndex (u : UploadEngine) (s : State) : (s.setUpload u).freeIndex = s.freeIndex := rfl
@[simp] theorem State.setUpload_ports (u : UploadEngine) (s : State) : (s.setUpload u).ports = s.ports := rfl
@[simp] theorem State.setUpload_channels (u : UploadEngine) (s : State) : (s.setUpload u).channels = s.channels := rfl
@[simp] theorem State.setUpload_families (u : UploadEngine) (s : State) : (s.setUpload u).families = s.families := rfl
@[simp] theorem State.setUpload_tb (u : UploadEngine) (s : State) : (s.setUpload u).tb = s.tb := rfl
@[simp] theorem State.setUpload_rm (u : UploadEngine) (s : State) : (s.setUpload u).rm = s.rm := rfl
@[simp] theorem State.setUpload_cl (u : UploadEngine) (s : State) : (s.setUpload u).cl = s.cl := rfl
@[simp] theorem State.setUpload_mc (u : UploadEngine) (s : State) : (s.setUpload u).mc = s.mc := rfl
@[simp] theorem State.setUpload_rules (u : UploadEngine) (s : State) : (s.setUpload u).rules = s.rules := rfl
@[simp] theorem State.setUpload_store (u : UploadEngine) (s : State) : (s.setUpload u).store = s.store := rfl
@[simp] theorem State.setUpload_port (u : UploadEngine) (s : State) : (s.setUpload u).port = s.port := rfl
@[simp] theorem State.setUpload_startup (u : UploadEngine) (s : State) : (s.setUpload u).startup = s.startup := rfl
@[simp] theorem State.setUpload_storeFailed (u : UploadEngine) (s : State) : (s.setUpload u).storeFailed = s.storeFailed := rfl
@[simp] theorem State.setUpload_journal (u : UploadEngine) (s : State) : (s.setUpload u).journal = s.journal := rfl
@[simp] theorem State.setUpload_tl (u : UploadEngine) (s : State) : (s.setUpload u).tl = s.tl := rfl
@[simp] theorem State.setUpload_counters (u : UploadEngine) (s : State) : (s.setUpload u).counters = s.counters := rfl

@[simp] theorem State.setRoute_pending (r : RouteManager) (s : State) : (s.setRoute r).pending = s.pending := rfl
@[simp] theorem State.setRoute_powered (r : RouteManager) (s : State) : (s.setRoute r).powered = s.powered := rfl
@[simp] theorem State.setRoute_freeIndex (r : RouteManager) (s : State) : (s.setRoute r).freeIndex = s.freeIndex := rfl
@[simp] theorem State.setRoute_ports (r : RouteManager) (s : State) : (s.setRoute r).ports = s.ports := rfl
@[simp] theorem State.setRoute_channels (r : RouteManager) (s : State) : (s.setRoute r).channels = s.channels := rfl
@[simp] theorem State.setRoute_families (r : RouteManager) (s : State) : (s.setRoute r).families = s.families := rfl
@[simp] theorem State.setRoute_tb (r : RouteManager) (s : State) : (s.setRoute r).tb = s.tb := rfl
@[simp] theorem State.setRoute_cl (r : RouteManager) (s : State) : (s.setRoute r).cl = s.cl := rfl
@[simp] theorem State.setRoute_mc (r : RouteManager) (s : State) : (s.setRoute r).mc = s.mc := rfl
@[simp] theorem State.setRoute_rules (r : RouteManager) (s : State) : (s.setRoute r).rules = s.rules := rfl
@[simp] theorem State.setRoute_store (r : RouteManager) (s : State) : (s.setRoute r).store = s.store := rfl
@[simp] theorem State.setRoute_port (r : RouteManager) (s : State) : (s.setRoute r).port = s.port := rfl
@[simp] theorem State.setRoute_startup (r : RouteManager) (s : State) : (s.setRoute r).startup = s.startup := rfl
@[simp] theorem State.setRoute_storeFailed (r : RouteManager) (s : State) : (s.setRoute r).storeFailed = s.storeFailed := rfl
@[simp] theorem State.setRoute_journal (r : RouteManager) (s : State) : (s.setRoute r).journal = s.journal := rfl
@[simp] theorem State.setRoute_ue (r : RouteManager) (s : State) : (s.setRoute r).ue = s.ue := rfl
@[simp] theorem State.setRoute_tl (r : RouteManager) (s : State) : (s.setRoute r).tl = s.tl := rfl
@[simp] theorem State.setRoute_counters (r : RouteManager) (s : State) : (s.setRoute r).counters = s.counters := rfl

@[simp] theorem State.routeTo_pending (st : RouteState) (s : State) : (s.routeTo st).pending = s.pending := rfl
@[simp] theorem State.routeTo_powered (st : RouteState) (s : State) : (s.routeTo st).powered = s.powered := rfl
@[simp] theorem State.routeTo_freeIndex (st : RouteState) (s : State) : (s.routeTo st).freeIndex = s.freeIndex := rfl
@[simp] theorem State.routeTo_ports (st : RouteState) (s : State) : (s.routeTo st).ports = s.ports := rfl
@[simp] theorem State.routeTo_channels (st : RouteState) (s : State) : (s.routeTo st).channels = s.channels := rfl
@[simp] theorem State.routeTo_families (st : RouteState) (s : State) : (s.routeTo st).families = s.families := rfl
@[simp] theorem State.routeTo_tb (st : RouteState) (s : State) : (s.routeTo st).tb = s.tb := rfl
@[simp] theorem State.routeTo_cl (st : RouteState) (s : State) : (s.routeTo st).cl = s.cl := rfl
@[simp] theorem State.routeTo_mc (st : RouteState) (s : State) : (s.routeTo st).mc = s.mc := rfl
@[simp] theorem State.routeTo_rules (st : RouteState) (s : State) : (s.routeTo st).rules = s.rules := rfl
@[simp] theorem State.routeTo_store (st : RouteState) (s : State) : (s.routeTo st).store = s.store := rfl
@[simp] theorem State.routeTo_port (st : RouteState) (s : State) : (s.routeTo st).port = s.port := rfl
@[simp] theorem State.routeTo_startup (st : RouteState) (s : State) : (s.routeTo st).startup = s.startup := rfl
@[simp] theorem State.routeTo_storeFailed (st : RouteState) (s : State) : (s.routeTo st).storeFailed = s.storeFailed := rfl
@[simp] theorem State.routeTo_journal (st : RouteState) (s : State) : (s.routeTo st).journal = s.journal := rfl
@[simp] theorem State.routeTo_ue (st : RouteState) (s : State) : (s.routeTo st).ue = s.ue := rfl
@[simp] theorem State.routeTo_tl (st : RouteState) (s : State) : (s.routeTo st).tl = s.tl := rfl
@[simp] theorem State.routeTo_counters (st : RouteState) (s : State) : (s.routeTo st).counters = s.counters := rfl

@[simp] theorem State.unbuild_pending (s : State) : s.unbuild.pending = s.pending := rfl
@[simp] theorem State.unbuild_powered (s : State) : s.unbuild.powered = s.powered := rfl
@[simp] theorem State.unbuild_freeIndex (s : State) : s.unbuild.freeIndex = s.freeIndex := rfl
@[simp] theorem State.unbuild_ports (s : State) : s.unbuild.ports = s.ports := rfl
@[simp] theorem State.unbuild_channels (s : State) : s.unbuild.channels = s.channels := rfl
@[simp] theorem State.unbuild_families (s : State) : s.unbuild.families = s.families := rfl
@[simp] theorem State.unbuild_tb (s : State) : s.unbuild.tb = s.tb := rfl
@[simp] theorem State.unbuild_cl (s : State) : s.unbuild.cl = s.cl := rfl
@[simp] theorem State.unbuild_mc (s : State) : s.unbuild.mc = s.mc := rfl
@[simp] theorem State.unbuild_rules (s : State) : s.unbuild.rules = s.rules := rfl
@[simp] theorem State.unbuild_store (s : State) : s.unbuild.store = s.store := rfl
@[simp] theorem State.unbuild_port (s : State) : s.unbuild.port = s.port := rfl
@[simp] theorem State.unbuild_startup (s : State) : s.unbuild.startup = s.startup := rfl
@[simp] theorem State.unbuild_storeFailed (s : State) : s.unbuild.storeFailed = s.storeFailed := rfl
@[simp] theorem State.unbuild_journal (s : State) : s.unbuild.journal = s.journal := rfl
@[simp] theorem State.unbuild_ue (s : State) : s.unbuild.ue = s.ue := rfl
@[simp] theorem State.unbuild_tl (s : State) : s.unbuild.tl = s.tl := rfl
@[simp] theorem State.unbuild_counters (s : State) : s.unbuild.counters = s.counters := rfl

@[simp] theorem State.setTrunk_pending (t : Trunk) (s : State) : (s.setTrunk t).pending = s.pending := rfl
@[simp] theorem State.setTrunk_powered (t : Trunk) (s : State) : (s.setTrunk t).powered = s.powered := rfl
@[simp] theorem State.setTrunk_freeIndex (t : Trunk) (s : State) : (s.setTrunk t).freeIndex = s.freeIndex := rfl
@[simp] theorem State.setTrunk_ports (t : Trunk) (s : State) : (s.setTrunk t).ports = s.ports := rfl
@[simp] theorem State.setTrunk_channels (t : Trunk) (s : State) : (s.setTrunk t).channels = s.channels := rfl
@[simp] theorem State.setTrunk_families (t : Trunk) (s : State) : (s.setTrunk t).families = s.families := rfl
@[simp] theorem State.setTrunk_tb (t : Trunk) (s : State) : (s.setTrunk t).tb = s.tb := rfl
@[simp] theorem State.setTrunk_rm (t : Trunk) (s : State) : (s.setTrunk t).rm = s.rm := rfl
@[simp] theorem State.setTrunk_cl (t : Trunk) (s : State) : (s.setTrunk t).cl = s.cl := rfl
@[simp] theorem State.setTrunk_mc (t : Trunk) (s : State) : (s.setTrunk t).mc = s.mc := rfl
@[simp] theorem State.setTrunk_rules (t : Trunk) (s : State) : (s.setTrunk t).rules = s.rules := rfl
@[simp] theorem State.setTrunk_store (t : Trunk) (s : State) : (s.setTrunk t).store = s.store := rfl
@[simp] theorem State.setTrunk_port (t : Trunk) (s : State) : (s.setTrunk t).port = s.port := rfl
@[simp] theorem State.setTrunk_startup (t : Trunk) (s : State) : (s.setTrunk t).startup = s.startup := rfl
@[simp] theorem State.setTrunk_storeFailed (t : Trunk) (s : State) : (s.setTrunk t).storeFailed = s.storeFailed := rfl
@[simp] theorem State.setTrunk_journal (t : Trunk) (s : State) : (s.setTrunk t).journal = s.journal := rfl
@[simp] theorem State.setTrunk_ue (t : Trunk) (s : State) : (s.setTrunk t).ue = s.ue := rfl
@[simp] theorem State.setTrunk_counters (t : Trunk) (s : State) : (s.setTrunk t).counters = s.counters := rfl

@[simp] theorem State.setLive_pending (l : List LiveFrame) (s : State) : (s.setLive l).pending = s.pending := rfl
@[simp] theorem State.setLive_powered (l : List LiveFrame) (s : State) : (s.setLive l).powered = s.powered := rfl
@[simp] theorem State.setLive_freeIndex (l : List LiveFrame) (s : State) : (s.setLive l).freeIndex = s.freeIndex := rfl
@[simp] theorem State.setLive_ports (l : List LiveFrame) (s : State) : (s.setLive l).ports = s.ports := rfl
@[simp] theorem State.setLive_channels (l : List LiveFrame) (s : State) : (s.setLive l).channels = s.channels := rfl
@[simp] theorem State.setLive_families (l : List LiveFrame) (s : State) : (s.setLive l).families = s.families := rfl
@[simp] theorem State.setLive_tb (l : List LiveFrame) (s : State) : (s.setLive l).tb = s.tb := rfl
@[simp] theorem State.setLive_rm (l : List LiveFrame) (s : State) : (s.setLive l).rm = s.rm := rfl
@[simp] theorem State.setLive_cl (l : List LiveFrame) (s : State) : (s.setLive l).cl = s.cl := rfl
@[simp] theorem State.setLive_mc (l : List LiveFrame) (s : State) : (s.setLive l).mc = s.mc := rfl
@[simp] theorem State.setLive_rules (l : List LiveFrame) (s : State) : (s.setLive l).rules = s.rules := rfl
@[simp] theorem State.setLive_store (l : List LiveFrame) (s : State) : (s.setLive l).store = s.store := rfl
@[simp] theorem State.setLive_port (l : List LiveFrame) (s : State) : (s.setLive l).port = s.port := rfl
@[simp] theorem State.setLive_startup (l : List LiveFrame) (s : State) : (s.setLive l).startup = s.startup := rfl
@[simp] theorem State.setLive_storeFailed (l : List LiveFrame) (s : State) : (s.setLive l).storeFailed = s.storeFailed := rfl
@[simp] theorem State.setLive_journal (l : List LiveFrame) (s : State) : (s.setLive l).journal = s.journal := rfl
@[simp] theorem State.setLive_ue (l : List LiveFrame) (s : State) : (s.setLive l).ue = s.ue := rfl
@[simp] theorem State.setLive_counters (l : List LiveFrame) (s : State) : (s.setLive l).counters = s.counters := rfl

@[simp] theorem State.takeFrame_pending (s : State) : s.takeFrame.pending = s.pending := rfl
@[simp] theorem State.takeFrame_powered (s : State) : s.takeFrame.powered = s.powered := rfl
@[simp] theorem State.takeFrame_freeIndex (s : State) : s.takeFrame.freeIndex = s.freeIndex := rfl
@[simp] theorem State.takeFrame_ports (s : State) : s.takeFrame.ports = s.ports := rfl
@[simp] theorem State.takeFrame_channels (s : State) : s.takeFrame.channels = s.channels := rfl
@[simp] theorem State.takeFrame_families (s : State) : s.takeFrame.families = s.families := rfl
@[simp] theorem State.takeFrame_tb (s : State) : s.takeFrame.tb = s.tb := rfl
@[simp] theorem State.takeFrame_rm (s : State) : s.takeFrame.rm = s.rm := rfl
@[simp] theorem State.takeFrame_cl (s : State) : s.takeFrame.cl = s.cl := rfl
@[simp] theorem State.takeFrame_mc (s : State) : s.takeFrame.mc = s.mc := rfl
@[simp] theorem State.takeFrame_rules (s : State) : s.takeFrame.rules = s.rules := rfl
@[simp] theorem State.takeFrame_store (s : State) : s.takeFrame.store = s.store := rfl
@[simp] theorem State.takeFrame_port (s : State) : s.takeFrame.port = s.port := rfl
@[simp] theorem State.takeFrame_startup (s : State) : s.takeFrame.startup = s.startup := rfl
@[simp] theorem State.takeFrame_storeFailed (s : State) : s.takeFrame.storeFailed = s.storeFailed := rfl
@[simp] theorem State.takeFrame_journal (s : State) : s.takeFrame.journal = s.journal := rfl
@[simp] theorem State.takeFrame_ue (s : State) : s.takeFrame.ue = s.ue := rfl
@[simp] theorem State.takeFrame_counters (s : State) : s.takeFrame.counters = s.counters := rfl

@[simp] theorem State.answer_pending (tag code : Byte) (rc : ReplyCode) (results : List Byte) (s : State) : (s.answer tag code rc results).pending = s.pending := rfl
@[simp] theorem State.answer_powered (tag code : Byte) (rc : ReplyCode) (results : List Byte) (s : State) : (s.answer tag code rc results).powered = s.powered := rfl
@[simp] theorem State.answer_freeIndex (tag code : Byte) (rc : ReplyCode) (results : List Byte) (s : State) : (s.answer tag code rc results).freeIndex = s.freeIndex := rfl
@[simp] theorem State.answer_ports (tag code : Byte) (rc : ReplyCode) (results : List Byte) (s : State) : (s.answer tag code rc results).ports = s.ports := rfl
@[simp] theorem State.answer_channels (tag code : Byte) (rc : ReplyCode) (results : List Byte) (s : State) : (s.answer tag code rc results).channels = s.channels := rfl
@[simp] theorem State.answer_families (tag code : Byte) (rc : ReplyCode) (results : List Byte) (s : State) : (s.answer tag code rc results).families = s.families := rfl
@[simp] theorem State.answer_tb (tag code : Byte) (rc : ReplyCode) (results : List Byte) (s : State) : (s.answer tag code rc results).tb = s.tb := rfl
@[simp] theorem State.answer_rm (tag code : Byte) (rc : ReplyCode) (results : List Byte) (s : State) : (s.answer tag code rc results).rm = s.rm := rfl
@[simp] theorem State.answer_cl (tag code : Byte) (rc : ReplyCode) (results : List Byte) (s : State) : (s.answer tag code rc results).cl = s.cl := rfl
@[simp] theorem State.answer_mc (tag code : Byte) (rc : ReplyCode) (results : List Byte) (s : State) : (s.answer tag code rc results).mc = s.mc := rfl
@[simp] theorem State.answer_rules (tag code : Byte) (rc : ReplyCode) (results : List Byte) (s : State) : (s.answer tag code rc results).rules = s.rules := rfl
@[simp] theorem State.answer_store (tag code : Byte) (rc : ReplyCode) (results : List Byte) (s : State) : (s.answer tag code rc results).store = s.store := rfl
@[simp] theorem State.answer_port (tag code : Byte) (rc : ReplyCode) (results : List Byte) (s : State) : (s.answer tag code rc results).port = s.port := rfl
@[simp] theorem State.answer_startup (tag code : Byte) (rc : ReplyCode) (results : List Byte) (s : State) : (s.answer tag code rc results).startup = s.startup := rfl
@[simp] theorem State.answer_storeFailed (tag code : Byte) (rc : ReplyCode) (results : List Byte) (s : State) : (s.answer tag code rc results).storeFailed = s.storeFailed := rfl
@[simp] theorem State.answer_journal (tag code : Byte) (rc : ReplyCode) (results : List Byte) (s : State) : (s.answer tag code rc results).journal = s.journal := rfl
@[simp] theorem State.answer_ue (tag code : Byte) (rc : ReplyCode) (results : List Byte) (s : State) : (s.answer tag code rc results).ue = s.ue := rfl
@[simp] theorem State.answer_counters (tag code : Byte) (rc : ReplyCode) (results : List Byte) (s : State) : (s.answer tag code rc results).counters = s.counters := rfl

@[simp] theorem State.startLong_pending (tag code : Byte) (w : Work) (s : State) : (s.startLong tag code w).pending = s.pending := rfl
@[simp] theorem State.startLong_powered (tag code : Byte) (w : Work) (s : State) : (s.startLong tag code w).powered = s.powered := rfl
@[simp] theorem State.startLong_freeIndex (tag code : Byte) (w : Work) (s : State) : (s.startLong tag code w).freeIndex = s.freeIndex := rfl
@[simp] theorem State.startLong_ports (tag code : Byte) (w : Work) (s : State) : (s.startLong tag code w).ports = s.ports := rfl
@[simp] theorem State.startLong_channels (tag code : Byte) (w : Work) (s : State) : (s.startLong tag code w).channels = s.channels := rfl
@[simp] theorem State.startLong_families (tag code : Byte) (w : Work) (s : State) : (s.startLong tag code w).families = s.families := rfl
@[simp] theorem State.startLong_tb (tag code : Byte) (w : Work) (s : State) : (s.startLong tag code w).tb = s.tb := rfl
@[simp] theorem State.startLong_rm (tag code : Byte) (w : Work) (s : State) : (s.startLong tag code w).rm = s.rm := rfl
@[simp] theorem State.startLong_cl (tag code : Byte) (w : Work) (s : State) : (s.startLong tag code w).cl = s.cl := rfl
@[simp] theorem State.startLong_mc (tag code : Byte) (w : Work) (s : State) : (s.startLong tag code w).mc = s.mc := rfl
@[simp] theorem State.startLong_rules (tag code : Byte) (w : Work) (s : State) : (s.startLong tag code w).rules = s.rules := rfl
@[simp] theorem State.startLong_store (tag code : Byte) (w : Work) (s : State) : (s.startLong tag code w).store = s.store := rfl
@[simp] theorem State.startLong_port (tag code : Byte) (w : Work) (s : State) : (s.startLong tag code w).port = s.port := rfl
@[simp] theorem State.startLong_startup (tag code : Byte) (w : Work) (s : State) : (s.startLong tag code w).startup = s.startup := rfl
@[simp] theorem State.startLong_storeFailed (tag code : Byte) (w : Work) (s : State) : (s.startLong tag code w).storeFailed = s.storeFailed := rfl
@[simp] theorem State.startLong_journal (tag code : Byte) (w : Work) (s : State) : (s.startLong tag code w).journal = s.journal := rfl
@[simp] theorem State.startLong_ue (tag code : Byte) (w : Work) (s : State) : (s.startLong tag code w).ue = s.ue := rfl
@[simp] theorem State.startLong_counters (tag code : Byte) (w : Work) (s : State) : (s.startLong tag code w).counters = s.counters := rfl

@[simp] theorem State.acceptReset_pending (tag : Byte) (s : State) : (s.acceptReset tag).pending = s.pending := rfl
@[simp] theorem State.acceptReset_powered (tag : Byte) (s : State) : (s.acceptReset tag).powered = s.powered := rfl
@[simp] theorem State.acceptReset_freeIndex (tag : Byte) (s : State) : (s.acceptReset tag).freeIndex = s.freeIndex := rfl
@[simp] theorem State.acceptReset_ports (tag : Byte) (s : State) : (s.acceptReset tag).ports = s.ports := rfl
@[simp] theorem State.acceptReset_channels (tag : Byte) (s : State) : (s.acceptReset tag).channels = s.channels := rfl
@[simp] theorem State.acceptReset_families (tag : Byte) (s : State) : (s.acceptReset tag).families = s.families := rfl
@[simp] theorem State.acceptReset_tb (tag : Byte) (s : State) : (s.acceptReset tag).tb = s.tb := rfl
@[simp] theorem State.acceptReset_rm (tag : Byte) (s : State) : (s.acceptReset tag).rm = s.rm := rfl
@[simp] theorem State.acceptReset_cl (tag : Byte) (s : State) : (s.acceptReset tag).cl = s.cl := rfl
@[simp] theorem State.acceptReset_mc (tag : Byte) (s : State) : (s.acceptReset tag).mc = s.mc := rfl
@[simp] theorem State.acceptReset_rules (tag : Byte) (s : State) : (s.acceptReset tag).rules = s.rules := rfl
@[simp] theorem State.acceptReset_store (tag : Byte) (s : State) : (s.acceptReset tag).store = s.store := rfl
@[simp] theorem State.acceptReset_port (tag : Byte) (s : State) : (s.acceptReset tag).port = s.port := rfl
@[simp] theorem State.acceptReset_startup (tag : Byte) (s : State) : (s.acceptReset tag).startup = s.startup := rfl
@[simp] theorem State.acceptReset_storeFailed (tag : Byte) (s : State) : (s.acceptReset tag).storeFailed = s.storeFailed := rfl
@[simp] theorem State.acceptReset_journal (tag : Byte) (s : State) : (s.acceptReset tag).journal = s.journal := rfl
@[simp] theorem State.acceptReset_ue (tag : Byte) (s : State) : (s.acceptReset tag).ue = s.ue := rfl
@[simp] theorem State.acceptReset_counters (tag : Byte) (s : State) : (s.acceptReset tag).counters = s.counters := rfl

@[simp] theorem State.takeFailed_pending (c : Client) (s : State) : (s.takeFailed c).pending = s.pending := rfl
@[simp] theorem State.takeFailed_powered (c : Client) (s : State) : (s.takeFailed c).powered = s.powered := rfl
@[simp] theorem State.takeFailed_freeIndex (c : Client) (s : State) : (s.takeFailed c).freeIndex = s.freeIndex := rfl
@[simp] theorem State.takeFailed_ports (c : Client) (s : State) : (s.takeFailed c).ports = s.ports := rfl
@[simp] theorem State.takeFailed_channels (c : Client) (s : State) : (s.takeFailed c).channels = s.channels := rfl
@[simp] theorem State.takeFailed_families (c : Client) (s : State) : (s.takeFailed c).families = s.families := rfl
@[simp] theorem State.takeFailed_tb (c : Client) (s : State) : (s.takeFailed c).tb = s.tb := rfl
@[simp] theorem State.takeFailed_rm (c : Client) (s : State) : (s.takeFailed c).rm = s.rm := rfl
@[simp] theorem State.takeFailed_cl (c : Client) (s : State) : (s.takeFailed c).cl = s.cl := rfl
@[simp] theorem State.takeFailed_mc (c : Client) (s : State) : (s.takeFailed c).mc = s.mc := rfl
@[simp] theorem State.takeFailed_rules (c : Client) (s : State) : (s.takeFailed c).rules = s.rules := rfl
@[simp] theorem State.takeFailed_store (c : Client) (s : State) : (s.takeFailed c).store = s.store := rfl
@[simp] theorem State.takeFailed_startup (c : Client) (s : State) : (s.takeFailed c).startup = s.startup := rfl
@[simp] theorem State.takeFailed_storeFailed (c : Client) (s : State) : (s.takeFailed c).storeFailed = s.storeFailed := rfl
@[simp] theorem State.takeFailed_journal (c : Client) (s : State) : (s.takeFailed c).journal = s.journal := rfl
@[simp] theorem State.takeFailed_ue (c : Client) (s : State) : (s.takeFailed c).ue = s.ue := rfl
@[simp] theorem State.takeFailed_tl (c : Client) (s : State) : (s.takeFailed c).tl = s.tl := rfl
@[simp] theorem State.takeFailed_counters (c : Client) (s : State) : (s.takeFailed c).counters = s.counters := rfl

@[simp] theorem State.beginOp_pending (r : StoreReq) (s : State) : (s.beginOp r).pending = s.pending := rfl
@[simp] theorem State.beginOp_powered (r : StoreReq) (s : State) : (s.beginOp r).powered = s.powered := rfl
@[simp] theorem State.beginOp_freeIndex (r : StoreReq) (s : State) : (s.beginOp r).freeIndex = s.freeIndex := rfl
@[simp] theorem State.beginOp_ports (r : StoreReq) (s : State) : (s.beginOp r).ports = s.ports := rfl
@[simp] theorem State.beginOp_channels (r : StoreReq) (s : State) : (s.beginOp r).channels = s.channels := rfl
@[simp] theorem State.beginOp_families (r : StoreReq) (s : State) : (s.beginOp r).families = s.families := rfl
@[simp] theorem State.beginOp_tb (r : StoreReq) (s : State) : (s.beginOp r).tb = s.tb := rfl
@[simp] theorem State.beginOp_rm (r : StoreReq) (s : State) : (s.beginOp r).rm = s.rm := rfl
@[simp] theorem State.beginOp_cl (r : StoreReq) (s : State) : (s.beginOp r).cl = s.cl := rfl
@[simp] theorem State.beginOp_mc (r : StoreReq) (s : State) : (s.beginOp r).mc = s.mc := rfl
@[simp] theorem State.beginOp_rules (r : StoreReq) (s : State) : (s.beginOp r).rules = s.rules := rfl
@[simp] theorem State.beginOp_store (r : StoreReq) (s : State) : (s.beginOp r).store = s.store := rfl
@[simp] theorem State.beginOp_startup (r : StoreReq) (s : State) : (s.beginOp r).startup = s.startup := rfl
@[simp] theorem State.beginOp_storeFailed (r : StoreReq) (s : State) : (s.beginOp r).storeFailed = s.storeFailed := rfl
@[simp] theorem State.beginOp_journal (r : StoreReq) (s : State) : (s.beginOp r).journal = s.journal := rfl
@[simp] theorem State.beginOp_ue (r : StoreReq) (s : State) : (s.beginOp r).ue = s.ue := rfl
@[simp] theorem State.beginOp_tl (r : StoreReq) (s : State) : (s.beginOp r).tl = s.tl := rfl
@[simp] theorem State.beginOp_counters (r : StoreReq) (s : State) : (s.beginOp r).counters = s.counters := rfl

@[simp] theorem State.freeEntry_pending (i : Fin 32) (s : State) : (s.freeEntry i).pending = s.pending := rfl
@[simp] theorem State.freeEntry_powered (i : Fin 32) (s : State) : (s.freeEntry i).powered = s.powered := rfl
@[simp] theorem State.freeEntry_freeIndex (i : Fin 32) (s : State) : (s.freeEntry i).freeIndex = s.freeIndex := rfl
@[simp] theorem State.freeEntry_ports (i : Fin 32) (s : State) : (s.freeEntry i).ports = s.ports := rfl
@[simp] theorem State.freeEntry_channels (i : Fin 32) (s : State) : (s.freeEntry i).channels = s.channels := rfl
@[simp] theorem State.freeEntry_families (i : Fin 32) (s : State) : (s.freeEntry i).families = s.families := rfl
@[simp] theorem State.freeEntry_tb (i : Fin 32) (s : State) : (s.freeEntry i).tb = s.tb := rfl
@[simp] theorem State.freeEntry_rm (i : Fin 32) (s : State) : (s.freeEntry i).rm = s.rm := rfl
@[simp] theorem State.freeEntry_cl (i : Fin 32) (s : State) : (s.freeEntry i).cl = s.cl := rfl
@[simp] theorem State.freeEntry_rules (i : Fin 32) (s : State) : (s.freeEntry i).rules = s.rules := rfl
@[simp] theorem State.freeEntry_store (i : Fin 32) (s : State) : (s.freeEntry i).store = s.store := rfl
@[simp] theorem State.freeEntry_port (i : Fin 32) (s : State) : (s.freeEntry i).port = s.port := rfl
@[simp] theorem State.freeEntry_startup (i : Fin 32) (s : State) : (s.freeEntry i).startup = s.startup := rfl
@[simp] theorem State.freeEntry_storeFailed (i : Fin 32) (s : State) : (s.freeEntry i).storeFailed = s.storeFailed := rfl
@[simp] theorem State.freeEntry_journal (i : Fin 32) (s : State) : (s.freeEntry i).journal = s.journal := rfl
@[simp] theorem State.freeEntry_ue (i : Fin 32) (s : State) : (s.freeEntry i).ue = s.ue := rfl
@[simp] theorem State.freeEntry_tl (i : Fin 32) (s : State) : (s.freeEntry i).tl = s.tl := rfl
@[simp] theorem State.freeEntry_counters (i : Fin 32) (s : State) : (s.freeEntry i).counters = s.counters := rfl

@[simp] theorem State.setEntry_pending (i : Fin 32) (e : MergeEntry) (s : State) : (s.setEntry i e).pending = s.pending := rfl
@[simp] theorem State.setEntry_powered (i : Fin 32) (e : MergeEntry) (s : State) : (s.setEntry i e).powered = s.powered := rfl
@[simp] theorem State.setEntry_freeIndex (i : Fin 32) (e : MergeEntry) (s : State) : (s.setEntry i e).freeIndex = s.freeIndex := rfl
@[simp] theorem State.setEntry_ports (i : Fin 32) (e : MergeEntry) (s : State) : (s.setEntry i e).ports = s.ports := rfl
@[simp] theorem State.setEntry_channels (i : Fin 32) (e : MergeEntry) (s : State) : (s.setEntry i e).channels = s.channels := rfl
@[simp] theorem State.setEntry_families (i : Fin 32) (e : MergeEntry) (s : State) : (s.setEntry i e).families = s.families := rfl
@[simp] theorem State.setEntry_tb (i : Fin 32) (e : MergeEntry) (s : State) : (s.setEntry i e).tb = s.tb := rfl
@[simp] theorem State.setEntry_rm (i : Fin 32) (e : MergeEntry) (s : State) : (s.setEntry i e).rm = s.rm := rfl
@[simp] theorem State.setEntry_cl (i : Fin 32) (e : MergeEntry) (s : State) : (s.setEntry i e).cl = s.cl := rfl
@[simp] theorem State.setEntry_rules (i : Fin 32) (e : MergeEntry) (s : State) : (s.setEntry i e).rules = s.rules := rfl
@[simp] theorem State.setEntry_store (i : Fin 32) (e : MergeEntry) (s : State) : (s.setEntry i e).store = s.store := rfl
@[simp] theorem State.setEntry_port (i : Fin 32) (e : MergeEntry) (s : State) : (s.setEntry i e).port = s.port := rfl
@[simp] theorem State.setEntry_startup (i : Fin 32) (e : MergeEntry) (s : State) : (s.setEntry i e).startup = s.startup := rfl
@[simp] theorem State.setEntry_storeFailed (i : Fin 32) (e : MergeEntry) (s : State) : (s.setEntry i e).storeFailed = s.storeFailed := rfl
@[simp] theorem State.setEntry_journal (i : Fin 32) (e : MergeEntry) (s : State) : (s.setEntry i e).journal = s.journal := rfl
@[simp] theorem State.setEntry_ue (i : Fin 32) (e : MergeEntry) (s : State) : (s.setEntry i e).ue = s.ue := rfl
@[simp] theorem State.setEntry_tl (i : Fin 32) (e : MergeEntry) (s : State) : (s.setEntry i e).tl = s.tl := rfl
@[simp] theorem State.setEntry_counters (i : Fin 32) (e : MergeEntry) (s : State) : (s.setEntry i e).counters = s.counters := rfl

@[simp] theorem State.setWalk_pending (w : Fin 4) (k : Option Walk) (s : State) : (s.setWalk w k).pending = s.pending := rfl
@[simp] theorem State.setWalk_powered (w : Fin 4) (k : Option Walk) (s : State) : (s.setWalk w k).powered = s.powered := rfl
@[simp] theorem State.setWalk_freeIndex (w : Fin 4) (k : Option Walk) (s : State) : (s.setWalk w k).freeIndex = s.freeIndex := rfl
@[simp] theorem State.setWalk_ports (w : Fin 4) (k : Option Walk) (s : State) : (s.setWalk w k).ports = s.ports := rfl
@[simp] theorem State.setWalk_channels (w : Fin 4) (k : Option Walk) (s : State) : (s.setWalk w k).channels = s.channels := rfl
@[simp] theorem State.setWalk_families (w : Fin 4) (k : Option Walk) (s : State) : (s.setWalk w k).families = s.families := rfl
@[simp] theorem State.setWalk_tb (w : Fin 4) (k : Option Walk) (s : State) : (s.setWalk w k).tb = s.tb := rfl
@[simp] theorem State.setWalk_rm (w : Fin 4) (k : Option Walk) (s : State) : (s.setWalk w k).rm = s.rm := rfl
@[simp] theorem State.setWalk_mc (w : Fin 4) (k : Option Walk) (s : State) : (s.setWalk w k).mc = s.mc := rfl
@[simp] theorem State.setWalk_rules (w : Fin 4) (k : Option Walk) (s : State) : (s.setWalk w k).rules = s.rules := rfl
@[simp] theorem State.setWalk_store (w : Fin 4) (k : Option Walk) (s : State) : (s.setWalk w k).store = s.store := rfl
@[simp] theorem State.setWalk_port (w : Fin 4) (k : Option Walk) (s : State) : (s.setWalk w k).port = s.port := rfl
@[simp] theorem State.setWalk_startup (w : Fin 4) (k : Option Walk) (s : State) : (s.setWalk w k).startup = s.startup := rfl
@[simp] theorem State.setWalk_storeFailed (w : Fin 4) (k : Option Walk) (s : State) : (s.setWalk w k).storeFailed = s.storeFailed := rfl
@[simp] theorem State.setWalk_journal (w : Fin 4) (k : Option Walk) (s : State) : (s.setWalk w k).journal = s.journal := rfl
@[simp] theorem State.setWalk_ue (w : Fin 4) (k : Option Walk) (s : State) : (s.setWalk w k).ue = s.ue := rfl
@[simp] theorem State.setWalk_tl (w : Fin 4) (k : Option Walk) (s : State) : (s.setWalk w k).tl = s.tl := rfl
@[simp] theorem State.setWalk_counters (w : Fin 4) (k : Option Walk) (s : State) : (s.setWalk w k).counters = s.counters := rfl

@[simp] theorem State.park_pending (b : Fin 16) (fr : FrameRecord) (s : State) : (s.park b fr).pending = s.pending := rfl
@[simp] theorem State.park_powered (b : Fin 16) (fr : FrameRecord) (s : State) : (s.park b fr).powered = s.powered := rfl
@[simp] theorem State.park_freeIndex (b : Fin 16) (fr : FrameRecord) (s : State) : (s.park b fr).freeIndex = s.freeIndex := rfl
@[simp] theorem State.park_ports (b : Fin 16) (fr : FrameRecord) (s : State) : (s.park b fr).ports = s.ports := rfl
@[simp] theorem State.park_channels (b : Fin 16) (fr : FrameRecord) (s : State) : (s.park b fr).channels = s.channels := rfl
@[simp] theorem State.park_families (b : Fin 16) (fr : FrameRecord) (s : State) : (s.park b fr).families = s.families := rfl
@[simp] theorem State.park_tb (b : Fin 16) (fr : FrameRecord) (s : State) : (s.park b fr).tb = s.tb := rfl
@[simp] theorem State.park_rm (b : Fin 16) (fr : FrameRecord) (s : State) : (s.park b fr).rm = s.rm := rfl
@[simp] theorem State.park_mc (b : Fin 16) (fr : FrameRecord) (s : State) : (s.park b fr).mc = s.mc := rfl
@[simp] theorem State.park_rules (b : Fin 16) (fr : FrameRecord) (s : State) : (s.park b fr).rules = s.rules := rfl
@[simp] theorem State.park_store (b : Fin 16) (fr : FrameRecord) (s : State) : (s.park b fr).store = s.store := rfl
@[simp] theorem State.park_port (b : Fin 16) (fr : FrameRecord) (s : State) : (s.park b fr).port = s.port := rfl
@[simp] theorem State.park_startup (b : Fin 16) (fr : FrameRecord) (s : State) : (s.park b fr).startup = s.startup := rfl
@[simp] theorem State.park_storeFailed (b : Fin 16) (fr : FrameRecord) (s : State) : (s.park b fr).storeFailed = s.storeFailed := rfl
@[simp] theorem State.park_journal (b : Fin 16) (fr : FrameRecord) (s : State) : (s.park b fr).journal = s.journal := rfl
@[simp] theorem State.park_ue (b : Fin 16) (fr : FrameRecord) (s : State) : (s.park b fr).ue = s.ue := rfl
@[simp] theorem State.park_tl (b : Fin 16) (fr : FrameRecord) (s : State) : (s.park b fr).tl = s.tl := rfl
@[simp] theorem State.park_counters (b : Fin 16) (fr : FrameRecord) (s : State) : (s.park b fr).counters = s.counters := rfl

@[simp] theorem State.freeWalk_pending (w : Fin 4) (k : Walk) (s : State) : (s.freeWalk w k).pending = s.pending := rfl
@[simp] theorem State.freeWalk_powered (w : Fin 4) (k : Walk) (s : State) : (s.freeWalk w k).powered = s.powered := rfl
@[simp] theorem State.freeWalk_freeIndex (w : Fin 4) (k : Walk) (s : State) : (s.freeWalk w k).freeIndex = s.freeIndex := rfl
@[simp] theorem State.freeWalk_ports (w : Fin 4) (k : Walk) (s : State) : (s.freeWalk w k).ports = s.ports := rfl
@[simp] theorem State.freeWalk_channels (w : Fin 4) (k : Walk) (s : State) : (s.freeWalk w k).channels = s.channels := rfl
@[simp] theorem State.freeWalk_families (w : Fin 4) (k : Walk) (s : State) : (s.freeWalk w k).families = s.families := rfl
@[simp] theorem State.freeWalk_tb (w : Fin 4) (k : Walk) (s : State) : (s.freeWalk w k).tb = s.tb := rfl
@[simp] theorem State.freeWalk_rm (w : Fin 4) (k : Walk) (s : State) : (s.freeWalk w k).rm = s.rm := rfl
@[simp] theorem State.freeWalk_mc (w : Fin 4) (k : Walk) (s : State) : (s.freeWalk w k).mc = s.mc := rfl
@[simp] theorem State.freeWalk_rules (w : Fin 4) (k : Walk) (s : State) : (s.freeWalk w k).rules = s.rules := rfl
@[simp] theorem State.freeWalk_store (w : Fin 4) (k : Walk) (s : State) : (s.freeWalk w k).store = s.store := rfl
@[simp] theorem State.freeWalk_port (w : Fin 4) (k : Walk) (s : State) : (s.freeWalk w k).port = s.port := rfl
@[simp] theorem State.freeWalk_startup (w : Fin 4) (k : Walk) (s : State) : (s.freeWalk w k).startup = s.startup := rfl
@[simp] theorem State.freeWalk_storeFailed (w : Fin 4) (k : Walk) (s : State) : (s.freeWalk w k).storeFailed = s.storeFailed := rfl
@[simp] theorem State.freeWalk_journal (w : Fin 4) (k : Walk) (s : State) : (s.freeWalk w k).journal = s.journal := rfl
@[simp] theorem State.freeWalk_ue (w : Fin 4) (k : Walk) (s : State) : (s.freeWalk w k).ue = s.ue := rfl
@[simp] theorem State.freeWalk_tl (w : Fin 4) (k : Walk) (s : State) : (s.freeWalk w k).tl = s.tl := rfl
@[simp] theorem State.freeWalk_counters (w : Fin 4) (k : Walk) (s : State) : (s.freeWalk w k).counters = s.counters := rfl

@[simp] theorem State.setRange_pending (n : Fin 8) (r : RangeEntry) (s : State) : (s.setRange n r).pending = s.pending := rfl
@[simp] theorem State.setRange_powered (n : Fin 8) (r : RangeEntry) (s : State) : (s.setRange n r).powered = s.powered := rfl
@[simp] theorem State.setRange_freeIndex (n : Fin 8) (r : RangeEntry) (s : State) : (s.setRange n r).freeIndex = s.freeIndex := rfl
@[simp] theorem State.setRange_ports (n : Fin 8) (r : RangeEntry) (s : State) : (s.setRange n r).ports = s.ports := rfl
@[simp] theorem State.setRange_channels (n : Fin 8) (r : RangeEntry) (s : State) : (s.setRange n r).channels = s.channels := rfl
@[simp] theorem State.setRange_families (n : Fin 8) (r : RangeEntry) (s : State) : (s.setRange n r).families = s.families := rfl
@[simp] theorem State.setRange_tb (n : Fin 8) (r : RangeEntry) (s : State) : (s.setRange n r).tb = s.tb := rfl
@[simp] theorem State.setRange_rm (n : Fin 8) (r : RangeEntry) (s : State) : (s.setRange n r).rm = s.rm := rfl
@[simp] theorem State.setRange_mc (n : Fin 8) (r : RangeEntry) (s : State) : (s.setRange n r).mc = s.mc := rfl
@[simp] theorem State.setRange_rules (n : Fin 8) (r : RangeEntry) (s : State) : (s.setRange n r).rules = s.rules := rfl
@[simp] theorem State.setRange_store (n : Fin 8) (r : RangeEntry) (s : State) : (s.setRange n r).store = s.store := rfl
@[simp] theorem State.setRange_port (n : Fin 8) (r : RangeEntry) (s : State) : (s.setRange n r).port = s.port := rfl
@[simp] theorem State.setRange_startup (n : Fin 8) (r : RangeEntry) (s : State) : (s.setRange n r).startup = s.startup := rfl
@[simp] theorem State.setRange_storeFailed (n : Fin 8) (r : RangeEntry) (s : State) : (s.setRange n r).storeFailed = s.storeFailed := rfl
@[simp] theorem State.setRange_journal (n : Fin 8) (r : RangeEntry) (s : State) : (s.setRange n r).journal = s.journal := rfl
@[simp] theorem State.setRange_ue (n : Fin 8) (r : RangeEntry) (s : State) : (s.setRange n r).ue = s.ue := rfl
@[simp] theorem State.setRange_tl (n : Fin 8) (r : RangeEntry) (s : State) : (s.setRange n r).tl = s.tl := rfl
@[simp] theorem State.setRange_counters (n : Fin 8) (r : RangeEntry) (s : State) : (s.setRange n r).counters = s.counters := rfl

@[simp] theorem State.queueRecord_pending (r : Reading) (flush : Bool) (s : State) : (s.queueRecord r flush).pending = s.pending := rfl
@[simp] theorem State.queueRecord_powered (r : Reading) (flush : Bool) (s : State) : (s.queueRecord r flush).powered = s.powered := rfl
@[simp] theorem State.queueRecord_freeIndex (r : Reading) (flush : Bool) (s : State) : (s.queueRecord r flush).freeIndex = s.freeIndex := rfl
@[simp] theorem State.queueRecord_ports (r : Reading) (flush : Bool) (s : State) : (s.queueRecord r flush).ports = s.ports := rfl
@[simp] theorem State.queueRecord_channels (r : Reading) (flush : Bool) (s : State) : (s.queueRecord r flush).channels = s.channels := rfl
@[simp] theorem State.queueRecord_families (r : Reading) (flush : Bool) (s : State) : (s.queueRecord r flush).families = s.families := rfl
@[simp] theorem State.queueRecord_tb (r : Reading) (flush : Bool) (s : State) : (s.queueRecord r flush).tb = s.tb := rfl
@[simp] theorem State.queueRecord_rm (r : Reading) (flush : Bool) (s : State) : (s.queueRecord r flush).rm = s.rm := rfl
@[simp] theorem State.queueRecord_cl (r : Reading) (flush : Bool) (s : State) : (s.queueRecord r flush).cl = s.cl := rfl
@[simp] theorem State.queueRecord_mc (r : Reading) (flush : Bool) (s : State) : (s.queueRecord r flush).mc = s.mc := rfl
@[simp] theorem State.queueRecord_rules (r : Reading) (flush : Bool) (s : State) : (s.queueRecord r flush).rules = s.rules := rfl
@[simp] theorem State.queueRecord_store (r : Reading) (flush : Bool) (s : State) : (s.queueRecord r flush).store = s.store := rfl
@[simp] theorem State.queueRecord_port (r : Reading) (flush : Bool) (s : State) : (s.queueRecord r flush).port = s.port := rfl
@[simp] theorem State.queueRecord_startup (r : Reading) (flush : Bool) (s : State) : (s.queueRecord r flush).startup = s.startup := rfl
@[simp] theorem State.queueRecord_storeFailed (r : Reading) (flush : Bool) (s : State) : (s.queueRecord r flush).storeFailed = s.storeFailed := rfl
@[simp] theorem State.queueRecord_ue (r : Reading) (flush : Bool) (s : State) : (s.queueRecord r flush).ue = s.ue := rfl
@[simp] theorem State.queueRecord_tl (r : Reading) (flush : Bool) (s : State) : (s.queueRecord r flush).tl = s.tl := rfl
@[simp] theorem State.queueRecord_counters (r : Reading) (flush : Bool) (s : State) : (s.queueRecord r flush).counters = s.counters := rfl

@[simp] theorem State.movePointer_pending (p : Nat × Nat) (s : State) : (s.movePointer p).pending = s.pending := rfl
@[simp] theorem State.movePointer_powered (p : Nat × Nat) (s : State) : (s.movePointer p).powered = s.powered := rfl
@[simp] theorem State.movePointer_freeIndex (p : Nat × Nat) (s : State) : (s.movePointer p).freeIndex = s.freeIndex := rfl
@[simp] theorem State.movePointer_ports (p : Nat × Nat) (s : State) : (s.movePointer p).ports = s.ports := rfl
@[simp] theorem State.movePointer_channels (p : Nat × Nat) (s : State) : (s.movePointer p).channels = s.channels := rfl
@[simp] theorem State.movePointer_families (p : Nat × Nat) (s : State) : (s.movePointer p).families = s.families := rfl
@[simp] theorem State.movePointer_tb (p : Nat × Nat) (s : State) : (s.movePointer p).tb = s.tb := rfl
@[simp] theorem State.movePointer_rm (p : Nat × Nat) (s : State) : (s.movePointer p).rm = s.rm := rfl
@[simp] theorem State.movePointer_cl (p : Nat × Nat) (s : State) : (s.movePointer p).cl = s.cl := rfl
@[simp] theorem State.movePointer_mc (p : Nat × Nat) (s : State) : (s.movePointer p).mc = s.mc := rfl
@[simp] theorem State.movePointer_rules (p : Nat × Nat) (s : State) : (s.movePointer p).rules = s.rules := rfl
@[simp] theorem State.movePointer_store (p : Nat × Nat) (s : State) : (s.movePointer p).store = s.store := rfl
@[simp] theorem State.movePointer_port (p : Nat × Nat) (s : State) : (s.movePointer p).port = s.port := rfl
@[simp] theorem State.movePointer_startup (p : Nat × Nat) (s : State) : (s.movePointer p).startup = s.startup := rfl
@[simp] theorem State.movePointer_storeFailed (p : Nat × Nat) (s : State) : (s.movePointer p).storeFailed = s.storeFailed := rfl
@[simp] theorem State.movePointer_journal (p : Nat × Nat) (s : State) : (s.movePointer p).journal = s.journal := rfl
@[simp] theorem State.movePointer_tl (p : Nat × Nat) (s : State) : (s.movePointer p).tl = s.tl := rfl
@[simp] theorem State.movePointer_counters (p : Nat × Nat) (s : State) : (s.movePointer p).counters = s.counters := rfl

@[simp] theorem State.gather_pending (bs : List Byte) (s : State) : (s.gather bs).pending = s.pending := rfl
@[simp] theorem State.gather_powered (bs : List Byte) (s : State) : (s.gather bs).powered = s.powered := rfl
@[simp] theorem State.gather_freeIndex (bs : List Byte) (s : State) : (s.gather bs).freeIndex = s.freeIndex := rfl
@[simp] theorem State.gather_ports (bs : List Byte) (s : State) : (s.gather bs).ports = s.ports := rfl
@[simp] theorem State.gather_channels (bs : List Byte) (s : State) : (s.gather bs).channels = s.channels := rfl
@[simp] theorem State.gather_families (bs : List Byte) (s : State) : (s.gather bs).families = s.families := rfl
@[simp] theorem State.gather_tb (bs : List Byte) (s : State) : (s.gather bs).tb = s.tb := rfl
@[simp] theorem State.gather_rm (bs : List Byte) (s : State) : (s.gather bs).rm = s.rm := rfl
@[simp] theorem State.gather_cl (bs : List Byte) (s : State) : (s.gather bs).cl = s.cl := rfl
@[simp] theorem State.gather_mc (bs : List Byte) (s : State) : (s.gather bs).mc = s.mc := rfl
@[simp] theorem State.gather_rules (bs : List Byte) (s : State) : (s.gather bs).rules = s.rules := rfl
@[simp] theorem State.gather_store (bs : List Byte) (s : State) : (s.gather bs).store = s.store := rfl
@[simp] theorem State.gather_port (bs : List Byte) (s : State) : (s.gather bs).port = s.port := rfl
@[simp] theorem State.gather_startup (bs : List Byte) (s : State) : (s.gather bs).startup = s.startup := rfl
@[simp] theorem State.gather_storeFailed (bs : List Byte) (s : State) : (s.gather bs).storeFailed = s.storeFailed := rfl
@[simp] theorem State.gather_journal (bs : List Byte) (s : State) : (s.gather bs).journal = s.journal := rfl
@[simp] theorem State.gather_tl (bs : List Byte) (s : State) : (s.gather bs).tl = s.tl := rfl
@[simp] theorem State.gather_counters (bs : List Byte) (s : State) : (s.gather bs).counters = s.counters := rfl

@[simp] theorem State.dropUploadRead_pending (s : State) : s.dropUploadRead.pending = s.pending := rfl
@[simp] theorem State.dropUploadRead_powered (s : State) : s.dropUploadRead.powered = s.powered := rfl
@[simp] theorem State.dropUploadRead_freeIndex (s : State) : s.dropUploadRead.freeIndex = s.freeIndex := rfl
@[simp] theorem State.dropUploadRead_ports (s : State) : s.dropUploadRead.ports = s.ports := rfl
@[simp] theorem State.dropUploadRead_channels (s : State) : s.dropUploadRead.channels = s.channels := rfl
@[simp] theorem State.dropUploadRead_families (s : State) : s.dropUploadRead.families = s.families := rfl
@[simp] theorem State.dropUploadRead_tb (s : State) : s.dropUploadRead.tb = s.tb := rfl
@[simp] theorem State.dropUploadRead_rm (s : State) : s.dropUploadRead.rm = s.rm := rfl
@[simp] theorem State.dropUploadRead_cl (s : State) : s.dropUploadRead.cl = s.cl := rfl
@[simp] theorem State.dropUploadRead_mc (s : State) : s.dropUploadRead.mc = s.mc := rfl
@[simp] theorem State.dropUploadRead_rules (s : State) : s.dropUploadRead.rules = s.rules := rfl
@[simp] theorem State.dropUploadRead_store (s : State) : s.dropUploadRead.store = s.store := rfl
@[simp] theorem State.dropUploadRead_startup (s : State) : s.dropUploadRead.startup = s.startup := rfl
@[simp] theorem State.dropUploadRead_storeFailed (s : State) : s.dropUploadRead.storeFailed = s.storeFailed := rfl
@[simp] theorem State.dropUploadRead_journal (s : State) : s.dropUploadRead.journal = s.journal := rfl
@[simp] theorem State.dropUploadRead_ue (s : State) : s.dropUploadRead.ue = s.ue := rfl
@[simp] theorem State.dropUploadRead_tl (s : State) : s.dropUploadRead.tl = s.tl := rfl
@[simp] theorem State.dropUploadRead_counters (s : State) : s.dropUploadRead.counters = s.counters := rfl

@[simp] theorem State.leaveUploadRead_pending (s : State) : s.leaveUploadRead.pending = s.pending := rfl
@[simp] theorem State.leaveUploadRead_powered (s : State) : s.leaveUploadRead.powered = s.powered := rfl
@[simp] theorem State.leaveUploadRead_freeIndex (s : State) : s.leaveUploadRead.freeIndex = s.freeIndex := rfl
@[simp] theorem State.leaveUploadRead_ports (s : State) : s.leaveUploadRead.ports = s.ports := rfl
@[simp] theorem State.leaveUploadRead_channels (s : State) : s.leaveUploadRead.channels = s.channels := rfl
@[simp] theorem State.leaveUploadRead_families (s : State) : s.leaveUploadRead.families = s.families := rfl
@[simp] theorem State.leaveUploadRead_tb (s : State) : s.leaveUploadRead.tb = s.tb := rfl
@[simp] theorem State.leaveUploadRead_rm (s : State) : s.leaveUploadRead.rm = s.rm := rfl
@[simp] theorem State.leaveUploadRead_cl (s : State) : s.leaveUploadRead.cl = s.cl := rfl
@[simp] theorem State.leaveUploadRead_mc (s : State) : s.leaveUploadRead.mc = s.mc := rfl
@[simp] theorem State.leaveUploadRead_rules (s : State) : s.leaveUploadRead.rules = s.rules := rfl
@[simp] theorem State.leaveUploadRead_store (s : State) : s.leaveUploadRead.store = s.store := rfl
@[simp] theorem State.leaveUploadRead_startup (s : State) : s.leaveUploadRead.startup = s.startup := rfl
@[simp] theorem State.leaveUploadRead_storeFailed (s : State) : s.leaveUploadRead.storeFailed = s.storeFailed := rfl
@[simp] theorem State.leaveUploadRead_journal (s : State) : s.leaveUploadRead.journal = s.journal := rfl
@[simp] theorem State.leaveUploadRead_ue (s : State) : s.leaveUploadRead.ue = s.ue := rfl
@[simp] theorem State.leaveUploadRead_tl (s : State) : s.leaveUploadRead.tl = s.tl := rfl
@[simp] theorem State.leaveUploadRead_counters (s : State) : s.leaveUploadRead.counters = s.counters := rfl

@[simp] theorem State.cutOp_pending (lost : Bool) (op : StoreOp) (s : State) : (s.cutOp lost op).pending = s.pending := rfl
@[simp] theorem State.cutOp_powered (lost : Bool) (op : StoreOp) (s : State) : (s.cutOp lost op).powered = s.powered := rfl
@[simp] theorem State.cutOp_ports (lost : Bool) (op : StoreOp) (s : State) : (s.cutOp lost op).ports = s.ports := rfl
@[simp] theorem State.cutOp_channels (lost : Bool) (op : StoreOp) (s : State) : (s.cutOp lost op).channels = s.channels := rfl
@[simp] theorem State.cutOp_families (lost : Bool) (op : StoreOp) (s : State) : (s.cutOp lost op).families = s.families := rfl
@[simp] theorem State.cutOp_tb (lost : Bool) (op : StoreOp) (s : State) : (s.cutOp lost op).tb = s.tb := rfl
@[simp] theorem State.cutOp_rm (lost : Bool) (op : StoreOp) (s : State) : (s.cutOp lost op).rm = s.rm := rfl
@[simp] theorem State.cutOp_cl (lost : Bool) (op : StoreOp) (s : State) : (s.cutOp lost op).cl = s.cl := rfl
@[simp] theorem State.cutOp_mc (lost : Bool) (op : StoreOp) (s : State) : (s.cutOp lost op).mc = s.mc := rfl
@[simp] theorem State.cutOp_rules (lost : Bool) (op : StoreOp) (s : State) : (s.cutOp lost op).rules = s.rules := rfl
@[simp] theorem State.cutOp_port (lost : Bool) (op : StoreOp) (s : State) : (s.cutOp lost op).port = s.port := rfl
@[simp] theorem State.cutOp_startup (lost : Bool) (op : StoreOp) (s : State) : (s.cutOp lost op).startup = s.startup := rfl
@[simp] theorem State.cutOp_storeFailed (lost : Bool) (op : StoreOp) (s : State) : (s.cutOp lost op).storeFailed = s.storeFailed := rfl
@[simp] theorem State.cutOp_journal (lost : Bool) (op : StoreOp) (s : State) : (s.cutOp lost op).journal = s.journal := rfl
@[simp] theorem State.cutOp_ue (lost : Bool) (op : StoreOp) (s : State) : (s.cutOp lost op).ue = s.ue := rfl
@[simp] theorem State.cutOp_tl (lost : Bool) (op : StoreOp) (s : State) : (s.cutOp lost op).tl = s.tl := rfl
@[simp] theorem State.cutOp_counters (lost : Bool) (op : StoreOp) (s : State) : (s.cutOp lost op).counters = s.counters := rfl

/-! ### The journal at a reset -/

@[simp] theorem Journal.rescan_state (j : Journal) : j.rescan.state = .scanning := rfl
@[simp] theorem Journal.rescan_queue (j : Journal) : j.rescan.queue = [] := rfl
@[simp] theorem Journal.rescan_nextSerial (j : Journal) : j.rescan.nextSerial = 1 := rfl
@[simp] theorem Journal.rescan_markTarget (j : Journal) : j.rescan.markTarget = 0 := rfl
@[simp] theorem Journal.rescan_markDone (j : Journal) : j.rescan.markDone = 0 := rfl
@[simp] theorem Journal.rescan_marking (j : Journal) : j.rescan.marking = none := rfl
@[simp] theorem Journal.rescan_torn (j : Journal) : j.rescan.torn = j.torn := rfl
@[simp] theorem Journal.rescan_uncertain (j : Journal) : j.rescan.uncertain = j.uncertain := rfl

@[simp] theorem State.giveUpReady_pending (s : State) : s.giveUpReady.pending = s.pending := rfl
@[simp] theorem State.giveUpReady_powered (s : State) : s.giveUpReady.powered = s.powered := rfl
@[simp] theorem State.giveUpReady_freeIndex (s : State) : s.giveUpReady.freeIndex = s.freeIndex := rfl
@[simp] theorem State.giveUpReady_ports (s : State) : s.giveUpReady.ports = s.ports := rfl
@[simp] theorem State.giveUpReady_channels (s : State) : s.giveUpReady.channels = s.channels := rfl
@[simp] theorem State.giveUpReady_families (s : State) : s.giveUpReady.families = s.families := rfl
@[simp] theorem State.giveUpReady_tb (s : State) : s.giveUpReady.tb = s.tb := rfl
@[simp] theorem State.giveUpReady_rm (s : State) : s.giveUpReady.rm = s.rm := rfl
@[simp] theorem State.giveUpReady_cl (s : State) : s.giveUpReady.cl = s.cl := rfl
@[simp] theorem State.giveUpReady_mc (s : State) : s.giveUpReady.mc = s.mc := rfl
@[simp] theorem State.giveUpReady_rules (s : State) : s.giveUpReady.rules = s.rules := rfl
@[simp] theorem State.giveUpReady_store (s : State) : s.giveUpReady.store = s.store := rfl
@[simp] theorem State.giveUpReady_port (s : State) : s.giveUpReady.port = s.port := rfl
@[simp] theorem State.giveUpReady_startup (s : State) : s.giveUpReady.startup = s.startup := rfl
@[simp] theorem State.giveUpReady_storeFailed (s : State) : s.giveUpReady.storeFailed = s.storeFailed := rfl
@[simp] theorem State.giveUpReady_journal (s : State) : s.giveUpReady.journal = s.journal := rfl
@[simp] theorem State.giveUpReady_counters (s : State) : s.giveUpReady.counters = s.counters := rfl

@[simp] theorem State.sectorOpened_pending (s : State) : s.sectorOpened.pending = s.pending := rfl
@[simp] theorem State.sectorOpened_powered (s : State) : s.sectorOpened.powered = s.powered := rfl
@[simp] theorem State.sectorOpened_freeIndex (s : State) : s.sectorOpened.freeIndex = s.freeIndex := rfl
@[simp] theorem State.sectorOpened_ports (s : State) : s.sectorOpened.ports = s.ports := rfl
@[simp] theorem State.sectorOpened_channels (s : State) : s.sectorOpened.channels = s.channels := rfl
@[simp] theorem State.sectorOpened_families (s : State) : s.sectorOpened.families = s.families := rfl
@[simp] theorem State.sectorOpened_tb (s : State) : s.sectorOpened.tb = s.tb := rfl
@[simp] theorem State.sectorOpened_rm (s : State) : s.sectorOpened.rm = s.rm := rfl
@[simp] theorem State.sectorOpened_cl (s : State) : s.sectorOpened.cl = s.cl := rfl
@[simp] theorem State.sectorOpened_mc (s : State) : s.sectorOpened.mc = s.mc := rfl
@[simp] theorem State.sectorOpened_rules (s : State) : s.sectorOpened.rules = s.rules := rfl
@[simp] theorem State.sectorOpened_store (s : State) : s.sectorOpened.store = s.store := rfl
@[simp] theorem State.sectorOpened_port (s : State) : s.sectorOpened.port = s.port := rfl
@[simp] theorem State.sectorOpened_startup (s : State) : s.sectorOpened.startup = s.startup := rfl
@[simp] theorem State.sectorOpened_storeFailed (s : State) : s.sectorOpened.storeFailed = s.storeFailed := rfl
@[simp] theorem State.sectorOpened_tl (s : State) : s.sectorOpened.tl = s.tl := rfl
@[simp] theorem State.sectorOpened_counters (s : State) : s.sectorOpened.counters = s.counters := rfl

@[simp] theorem State.acknowledge_pending (n : Nat) (s : State) : (s.acknowledge n).pending = s.pending := rfl
@[simp] theorem State.acknowledge_powered (n : Nat) (s : State) : (s.acknowledge n).powered = s.powered := rfl
@[simp] theorem State.acknowledge_freeIndex (n : Nat) (s : State) : (s.acknowledge n).freeIndex = s.freeIndex := rfl
@[simp] theorem State.acknowledge_ports (n : Nat) (s : State) : (s.acknowledge n).ports = s.ports := rfl
@[simp] theorem State.acknowledge_channels (n : Nat) (s : State) : (s.acknowledge n).channels = s.channels := rfl
@[simp] theorem State.acknowledge_families (n : Nat) (s : State) : (s.acknowledge n).families = s.families := rfl
@[simp] theorem State.acknowledge_tb (n : Nat) (s : State) : (s.acknowledge n).tb = s.tb := rfl
@[simp] theorem State.acknowledge_rm (n : Nat) (s : State) : (s.acknowledge n).rm = s.rm := rfl
@[simp] theorem State.acknowledge_cl (n : Nat) (s : State) : (s.acknowledge n).cl = s.cl := rfl
@[simp] theorem State.acknowledge_mc (n : Nat) (s : State) : (s.acknowledge n).mc = s.mc := rfl
@[simp] theorem State.acknowledge_rules (n : Nat) (s : State) : (s.acknowledge n).rules = s.rules := rfl
@[simp] theorem State.acknowledge_store (n : Nat) (s : State) : (s.acknowledge n).store = s.store := rfl
@[simp] theorem State.acknowledge_port (n : Nat) (s : State) : (s.acknowledge n).port = s.port := rfl
@[simp] theorem State.acknowledge_startup (n : Nat) (s : State) : (s.acknowledge n).startup = s.startup := rfl
@[simp] theorem State.acknowledge_storeFailed (n : Nat) (s : State) : (s.acknowledge n).storeFailed = s.storeFailed := rfl
@[simp] theorem State.acknowledge_tl (n : Nat) (s : State) : (s.acknowledge n).tl = s.tl := rfl
@[simp] theorem State.acknowledge_counters (n : Nat) (s : State) : (s.acknowledge n).counters = s.counters := rfl

/-- States that agree field by field are equal. -/
theorem State.ext_fields {s t : State} (h0 : s.pending =
    t.pending) (h1 : s.powered = t.powered) (h2 : s.freeIndex = t.freeIndex) (h3 : s.ports = t.ports) (h4 :
    s.channels = t.channels) (h5 : s.families = t.families) (h6 : s.tb = t.tb) (h7 : s.rm = t.rm) (h8 : s.cl =
    t.cl) (h9 : s.mc = t.mc) (h10 : s.rules = t.rules) (h11 : s.store = t.store) (h12 : s.port = t.port) (h13 :
    s.startup = t.startup) (h14 : s.storeFailed = t.storeFailed) (h15 : s.journal = t.journal) (h16 : s.ue =
    t.ue) (h17 : s.tl = t.tl) (h18 : s.counters = t.counters) : s = t := by
  cases s; cases t; simp only at *; subst_vars; rfl
/-! ### The fields the updates write -/

@[simp] theorem State.setJournal_journal (j : Journal) (s : State) : (s.setJournal j).journal = j := rfl
@[simp] theorem State.setUpload_ue (u : UploadEngine) (s : State) : (s.setUpload u).ue = u := rfl
@[simp] theorem State.setRoute_rm (r : RouteManager) (s : State) : (s.setRoute r).rm = r := rfl
@[simp] theorem State.setTrunk_tl (t : Trunk) (s : State) : (s.setTrunk t).tl = t := rfl
@[simp] theorem State.setLive_tl (l : List LiveFrame) (s : State) : (s.setLive l).tl = { s.tl with live := l } := rfl
@[simp] theorem State.setPort_ports (p : Fin 8) (x : Port) (s : State) :
    (s.setPort p x).ports = s.ports.set p x := rfl
@[simp] theorem State.setChannel_channels (c : Fin 8) (x : Channel) (s : State) :
    (s.setChannel c x).channels = s.channels.set c x := rfl
@[simp] theorem State.takeFrame_tl (s : State) : s.takeFrame.tl = { s.tl with inbound := s.tl.inbound.tail } := rfl
@[simp] theorem State.answer_tl (tag code : Byte) (rc : ReplyCode) (results : List Byte) (s : State) :
    (s.answer tag code rc results).tl = { s.tl with reply := some ⟨tag, code :: rc.code :: results, false⟩ } := rfl
@[simp] theorem State.startLong_tl (tag code : Byte) (w : Work) (s : State) :
    (s.startLong tag code w).tl = { s.tl with longOp := some ⟨code, tag, w, none⟩ } := rfl
@[simp] theorem State.freeEntry_mc (i : Fin 32) (s : State) :
    (s.freeEntry i).mc = { s.mc with table := s.mc.table.set i none } := rfl
@[simp] theorem State.setEntry_mc (i : Fin 32) (e : MergeEntry) (s : State) :
    (s.setEntry i e).mc = { s.mc with table := s.mc.table.set i (some e) } := rfl
@[simp] theorem State.setWalk_cl (w : Fin 4) (k : Option Walk) (s : State) :
    (s.setWalk w k).cl = { s.cl with walks := s.cl.walks.set w k } := rfl
@[simp] theorem State.park_cl (b : Fin 16) (fr : FrameRecord) (s : State) :
    (s.park b fr).cl = { s.cl with pool := s.cl.pool.set b (some fr) } := rfl

end Sys2Proof.Machine
end

