-- ==== Sys2Proof/Laws/Frame.lean ====
section
/-! SUPPORT. What the shared operations leave unchanged, field by field. -/

namespace Sys2Proof.Machine

@[simp] theorem State.queueNotice_pending (n : Notice) (s : State) : (s.queueNotice n).pending = s.pending := by
  unfold State.queueNotice; split <;> simp
@[simp] theorem State.queueNotice_powered (n : Notice) (s : State) : (s.queueNotice n).powered = s.powered := by
  unfold State.queueNotice; split <;> simp
@[simp] theorem State.queueNotice_freeIndex (n : Notice) (s : State) : (s.queueNotice n).freeIndex = s.freeIndex := by
  unfold State.queueNotice; split <;> simp
@[simp] theorem State.queueNotice_ports (n : Notice) (s : State) : (s.queueNotice n).ports = s.ports := by
  unfold State.queueNotice; split <;> simp
@[simp] theorem State.queueNotice_channels (n : Notice) (s : State) : (s.queueNotice n).channels = s.channels := by
  unfold State.queueNotice; split <;> simp
@[simp] theorem State.queueNotice_families (n : Notice) (s : State) : (s.queueNotice n).families = s.families := by
  unfold State.queueNotice; split <;> simp
@[simp] theorem State.queueNotice_tb (n : Notice) (s : State) : (s.queueNotice n).tb = s.tb := by
  unfold State.queueNotice; split <;> simp
@[simp] theorem State.queueNotice_rm (n : Notice) (s : State) : (s.queueNotice n).rm = s.rm := by
  unfold State.queueNotice; split <;> simp
@[simp] theorem State.queueNotice_cl (n : Notice) (s : State) : (s.queueNotice n).cl = s.cl := by
  unfold State.queueNotice; split <;> simp
@[simp] theorem State.queueNotice_mc (n : Notice) (s : State) : (s.queueNotice n).mc = s.mc := by
  unfold State.queueNotice; split <;> simp
@[simp] theorem State.queueNotice_rules (n : Notice) (s : State) : (s.queueNotice n).rules = s.rules := by
  unfold State.queueNotice; split <;> simp
@[simp] theorem State.queueNotice_store (n : Notice) (s : State) : (s.queueNotice n).store = s.store := by
  unfold State.queueNotice; split <;> simp
@[simp] theorem State.queueNotice_port (n : Notice) (s : State) : (s.queueNotice n).port = s.port := by
  unfold State.queueNotice; split <;> simp
@[simp] theorem State.queueNotice_startup (n : Notice) (s : State) : (s.queueNotice n).startup = s.startup := by
  unfold State.queueNotice; split <;> simp
@[simp] theorem State.queueNotice_storeFailed (n : Notice) (s : State) : (s.queueNotice n).storeFailed = s.storeFailed := by
  unfold State.queueNotice; split <;> simp
@[simp] theorem State.queueNotice_journal (n : Notice) (s : State) : (s.queueNotice n).journal = s.journal := by
  unfold State.queueNotice; split <;> simp
@[simp] theorem State.queueNotice_ue (n : Notice) (s : State) : (s.queueNotice n).ue = s.ue := by
  unfold State.queueNotice; split <;> simp

@[simp] theorem State.raise_pending (e : Event) (d : Word) (s : State) : (s.raise e d).pending = s.pending := by
  unfold State.raise; (repeat' split) <;> simp
@[simp] theorem State.raise_powered (e : Event) (d : Word) (s : State) : (s.raise e d).powered = s.powered := by
  unfold State.raise; (repeat' split) <;> simp
@[simp] theorem State.raise_freeIndex (e : Event) (d : Word) (s : State) : (s.raise e d).freeIndex = s.freeIndex := by
  unfold State.raise; (repeat' split) <;> simp
@[simp] theorem State.raise_ports (e : Event) (d : Word) (s : State) : (s.raise e d).ports = s.ports := by
  unfold State.raise; (repeat' split) <;> simp
@[simp] theorem State.raise_channels (e : Event) (d : Word) (s : State) : (s.raise e d).channels = s.channels := by
  unfold State.raise; (repeat' split) <;> simp
@[simp] theorem State.raise_families (e : Event) (d : Word) (s : State) : (s.raise e d).families = s.families := by
  unfold State.raise; (repeat' split) <;> simp
@[simp] theorem State.raise_tb (e : Event) (d : Word) (s : State) : (s.raise e d).tb = s.tb := by
  unfold State.raise; (repeat' split) <;> simp
@[simp] theorem State.raise_rm (e : Event) (d : Word) (s : State) : (s.raise e d).rm = s.rm := by
  unfold State.raise; (repeat' split) <;> simp
@[simp] theorem State.raise_cl (e : Event) (d : Word) (s : State) : (s.raise e d).cl = s.cl := by
  unfold State.raise; (repeat' split) <;> simp
@[simp] theorem State.raise_mc (e : Event) (d : Word) (s : State) : (s.raise e d).mc = s.mc := by
  unfold State.raise; (repeat' split) <;> simp
@[simp] theorem State.raise_rules (e : Event) (d : Word) (s : State) : (s.raise e d).rules = s.rules := by
  unfold State.raise; (repeat' split) <;> simp
@[simp] theorem State.raise_store (e : Event) (d : Word) (s : State) : (s.raise e d).store = s.store := by
  unfold State.raise; (repeat' split) <;> simp
@[simp] theorem State.raise_port (e : Event) (d : Word) (s : State) : (s.raise e d).port = s.port := by
  unfold State.raise; (repeat' split) <;> simp
@[simp] theorem State.raise_startup (e : Event) (d : Word) (s : State) : (s.raise e d).startup = s.startup := by
  unfold State.raise; (repeat' split) <;> simp
@[simp] theorem State.raise_storeFailed (e : Event) (d : Word) (s : State) : (s.raise e d).storeFailed = s.storeFailed := by
  unfold State.raise; (repeat' split) <;> simp
@[simp] theorem State.raise_journal (e : Event) (d : Word) (s : State) : (s.raise e d).journal = s.journal := by
  unfold State.raise; (repeat' split) <;> simp
@[simp] theorem State.raise_ue (e : Event) (d : Word) (s : State) : (s.raise e d).ue = s.ue := by
  unfold State.raise; (repeat' split) <;> simp

@[simp] theorem State.queueCompletion_pending (r : Bool) (n : Notice) (s : State) : (s.queueCompletion r n).pending = s.pending := by
  unfold State.queueCompletion; (repeat' split) <;> simp
@[simp] theorem State.queueCompletion_powered (r : Bool) (n : Notice) (s : State) : (s.queueCompletion r n).powered = s.powered := by
  unfold State.queueCompletion; (repeat' split) <;> simp
@[simp] theorem State.queueCompletion_freeIndex (r : Bool) (n : Notice) (s : State) : (s.queueCompletion r n).freeIndex = s.freeIndex := by
  unfold State.queueCompletion; (repeat' split) <;> simp
@[simp] theorem State.queueCompletion_ports (r : Bool) (n : Notice) (s : State) : (s.queueCompletion r n).ports = s.ports := by
  unfold State.queueCompletion; (repeat' split) <;> simp
@[simp] theorem State.queueCompletion_channels (r : Bool) (n : Notice) (s : State) : (s.queueCompletion r n).channels = s.channels := by
  unfold State.queueCompletion; (repeat' split) <;> simp
@[simp] theorem State.queueCompletion_families (r : Bool) (n : Notice) (s : State) : (s.queueCompletion r n).families = s.families := by
  unfold State.queueCompletion; (repeat' split) <;> simp
@[simp] theorem State.queueCompletion_tb (r : Bool) (n : Notice) (s : State) : (s.queueCompletion r n).tb = s.tb := by
  unfold State.queueCompletion; (repeat' split) <;> simp
@[simp] theorem State.queueCompletion_rm (r : Bool) (n : Notice) (s : State) : (s.queueCompletion r n).rm = s.rm := by
  unfold State.queueCompletion; (repeat' split) <;> simp
@[simp] theorem State.queueCompletion_cl (r : Bool) (n : Notice) (s : State) : (s.queueCompletion r n).cl = s.cl := by
  unfold State.queueCompletion; (repeat' split) <;> simp
@[simp] theorem State.queueCompletion_mc (r : Bool) (n : Notice) (s : State) : (s.queueCompletion r n).mc = s.mc := by
  unfold State.queueCompletion; (repeat' split) <;> simp
@[simp] theorem State.queueCompletion_rules (r : Bool) (n : Notice) (s : State) : (s.queueCompletion r n).rules = s.rules := by
  unfold State.queueCompletion; (repeat' split) <;> simp
@[simp] theorem State.queueCompletion_store (r : Bool) (n : Notice) (s : State) : (s.queueCompletion r n).store = s.store := by
  unfold State.queueCompletion; (repeat' split) <;> simp
@[simp] theorem State.queueCompletion_port (r : Bool) (n : Notice) (s : State) : (s.queueCompletion r n).port = s.port := by
  unfold State.queueCompletion; (repeat' split) <;> simp
@[simp] theorem State.queueCompletion_startup (r : Bool) (n : Notice) (s : State) : (s.queueCompletion r n).startup = s.startup := by
  unfold State.queueCompletion; (repeat' split) <;> simp
@[simp] theorem State.queueCompletion_storeFailed (r : Bool) (n : Notice) (s : State) : (s.queueCompletion r n).storeFailed = s.storeFailed := by
  unfold State.queueCompletion; (repeat' split) <;> simp
@[simp] theorem State.queueCompletion_journal (r : Bool) (n : Notice) (s : State) : (s.queueCompletion r n).journal = s.journal := by
  unfold State.queueCompletion; (repeat' split) <;> simp
@[simp] theorem State.queueCompletion_ue (r : Bool) (n : Notice) (s : State) : (s.queueCompletion r n).ue = s.ue := by
  unfold State.queueCompletion; (repeat' split) <;> simp

@[simp] theorem State.setWork_pending (w : Work) (s : State) : (s.setWork w).pending = s.pending := by
  unfold State.setWork; split <;> rfl
@[simp] theorem State.setWork_powered (w : Work) (s : State) : (s.setWork w).powered = s.powered := by
  unfold State.setWork; split <;> rfl
@[simp] theorem State.setWork_freeIndex (w : Work) (s : State) : (s.setWork w).freeIndex = s.freeIndex := by
  unfold State.setWork; split <;> rfl
@[simp] theorem State.setWork_ports (w : Work) (s : State) : (s.setWork w).ports = s.ports := by
  unfold State.setWork; split <;> rfl
@[simp] theorem State.setWork_channels (w : Work) (s : State) : (s.setWork w).channels = s.channels := by
  unfold State.setWork; split <;> rfl
@[simp] theorem State.setWork_families (w : Work) (s : State) : (s.setWork w).families = s.families := by
  unfold State.setWork; split <;> rfl
@[simp] theorem State.setWork_tb (w : Work) (s : State) : (s.setWork w).tb = s.tb := by
  unfold State.setWork; split <;> rfl
@[simp] theorem State.setWork_rm (w : Work) (s : State) : (s.setWork w).rm = s.rm := by
  unfold State.setWork; split <;> rfl
@[simp] theorem State.setWork_cl (w : Work) (s : State) : (s.setWork w).cl = s.cl := by
  unfold State.setWork; split <;> rfl
@[simp] theorem State.setWork_mc (w : Work) (s : State) : (s.setWork w).mc = s.mc := by
  unfold State.setWork; split <;> rfl
@[simp] theorem State.setWork_rules (w : Work) (s : State) : (s.setWork w).rules = s.rules := by
  unfold State.setWork; split <;> rfl
@[simp] theorem State.setWork_store (w : Work) (s : State) : (s.setWork w).store = s.store := by
  unfold State.setWork; split <;> rfl
@[simp] theorem State.setWork_port (w : Work) (s : State) : (s.setWork w).port = s.port := by
  unfold State.setWork; split <;> rfl
@[simp] theorem State.setWork_startup (w : Work) (s : State) : (s.setWork w).startup = s.startup := by
  unfold State.setWork; split <;> rfl
@[simp] theorem State.setWork_storeFailed (w : Work) (s : State) : (s.setWork w).storeFailed = s.storeFailed := by
  unfold State.setWork; split <;> rfl
@[simp] theorem State.setWork_journal (w : Work) (s : State) : (s.setWork w).journal = s.journal := by
  unfold State.setWork; split <;> rfl
@[simp] theorem State.setWork_ue (w : Work) (s : State) : (s.setWork w).ue = s.ue := by
  unfold State.setWork; split <;> rfl
@[simp] theorem State.setWork_counters (w : Work) (s : State) : (s.setWork w).counters = s.counters := by
  unfold State.setWork; split <;> rfl

@[simp] theorem State.endLong_pending (rc : ReplyCode) (r : List Byte) (s : State) : (s.endLong rc r).pending = s.pending := by
  unfold State.endLong; split <;> rfl
@[simp] theorem State.endLong_powered (rc : ReplyCode) (r : List Byte) (s : State) : (s.endLong rc r).powered = s.powered := by
  unfold State.endLong; split <;> rfl
@[simp] theorem State.endLong_freeIndex (rc : ReplyCode) (r : List Byte) (s : State) : (s.endLong rc r).freeIndex = s.freeIndex := by
  unfold State.endLong; split <;> rfl
@[simp] theorem State.endLong_ports (rc : ReplyCode) (r : List Byte) (s : State) : (s.endLong rc r).ports = s.ports := by
  unfold State.endLong; split <;> rfl
@[simp] theorem State.endLong_channels (rc : ReplyCode) (r : List Byte) (s : State) : (s.endLong rc r).channels = s.channels := by
  unfold State.endLong; split <;> rfl
@[simp] theorem State.endLong_families (rc : ReplyCode) (r : List Byte) (s : State) : (s.endLong rc r).families = s.families := by
  unfold State.endLong; split <;> rfl
@[simp] theorem State.endLong_tb (rc : ReplyCode) (r : List Byte) (s : State) : (s.endLong rc r).tb = s.tb := by
  unfold State.endLong; split <;> rfl
@[simp] theorem State.endLong_rm (rc : ReplyCode) (r : List Byte) (s : State) : (s.endLong rc r).rm = s.rm := by
  unfold State.endLong; split <;> rfl
@[simp] theorem State.endLong_cl (rc : ReplyCode) (r : List Byte) (s : State) : (s.endLong rc r).cl = s.cl := by
  unfold State.endLong; split <;> rfl
@[simp] theorem State.endLong_mc (rc : ReplyCode) (r : List Byte) (s : State) : (s.endLong rc r).mc = s.mc := by
  unfold State.endLong; split <;> rfl
@[simp] theorem State.endLong_rules (rc : ReplyCode) (r : List Byte) (s : State) : (s.endLong rc r).rules = s.rules := by
  unfold State.endLong; split <;> rfl
@[simp] theorem State.endLong_store (rc : ReplyCode) (r : List Byte) (s : State) : (s.endLong rc r).store = s.store := by
  unfold State.endLong; split <;> rfl
@[simp] theorem State.endLong_port (rc : ReplyCode) (r : List Byte) (s : State) : (s.endLong rc r).port = s.port := by
  unfold State.endLong; split <;> rfl
@[simp] theorem State.endLong_startup (rc : ReplyCode) (r : List Byte) (s : State) : (s.endLong rc r).startup = s.startup := by
  unfold State.endLong; split <;> rfl
@[simp] theorem State.endLong_storeFailed (rc : ReplyCode) (r : List Byte) (s : State) : (s.endLong rc r).storeFailed = s.storeFailed := by
  unfold State.endLong; split <;> rfl
@[simp] theorem State.endLong_journal (rc : ReplyCode) (r : List Byte) (s : State) : (s.endLong rc r).journal = s.journal := by
  unfold State.endLong; split <;> rfl
@[simp] theorem State.endLong_ue (rc : ReplyCode) (r : List Byte) (s : State) : (s.endLong rc r).ue = s.ue := by
  unfold State.endLong; split <;> rfl
@[simp] theorem State.endLong_counters (rc : ReplyCode) (r : List Byte) (s : State) : (s.endLong rc r).counters = s.counters := by
  unfold State.endLong; split <;> rfl

@[simp] theorem State.failLong_pending (r : List Byte) (s : State) : (s.failLong r).pending = s.pending := by
  simp [State.failLong]
@[simp] theorem State.failLong_powered (r : List Byte) (s : State) : (s.failLong r).powered = s.powered := by
  simp [State.failLong]
@[simp] theorem State.failLong_freeIndex (r : List Byte) (s : State) : (s.failLong r).freeIndex = s.freeIndex := by
  simp [State.failLong]
@[simp] theorem State.failLong_ports (r : List Byte) (s : State) : (s.failLong r).ports = s.ports := by
  simp [State.failLong]
@[simp] theorem State.failLong_channels (r : List Byte) (s : State) : (s.failLong r).channels = s.channels := by
  simp [State.failLong]
@[simp] theorem State.failLong_families (r : List Byte) (s : State) : (s.failLong r).families = s.families := by
  simp [State.failLong]
@[simp] theorem State.failLong_tb (r : List Byte) (s : State) : (s.failLong r).tb = s.tb := by
  simp [State.failLong]
@[simp] theorem State.failLong_rm (r : List Byte) (s : State) : (s.failLong r).rm = s.rm := by
  simp [State.failLong]
@[simp] theorem State.failLong_cl (r : List Byte) (s : State) : (s.failLong r).cl = s.cl := by
  simp [State.failLong]
@[simp] theorem State.failLong_mc (r : List Byte) (s : State) : (s.failLong r).mc = s.mc := by
  simp [State.failLong]
@[simp] theorem State.failLong_rules (r : List Byte) (s : State) : (s.failLong r).rules = s.rules := by
  simp [State.failLong]
@[simp] theorem State.failLong_store (r : List Byte) (s : State) : (s.failLong r).store = s.store := by
  simp [State.failLong]
@[simp] theorem State.failLong_startup (r : List Byte) (s : State) : (s.failLong r).startup = s.startup := by
  simp [State.failLong]
@[simp] theorem State.failLong_storeFailed (r : List Byte) (s : State) : (s.failLong r).storeFailed = s.storeFailed := by
  simp [State.failLong]
@[simp] theorem State.failLong_journal (r : List Byte) (s : State) : (s.failLong r).journal = s.journal := by
  simp [State.failLong]
@[simp] theorem State.failLong_ue (r : List Byte) (s : State) : (s.failLong r).ue = s.ue := by
  simp [State.failLong]
@[simp] theorem State.failLong_counters (r : List Byte) (s : State) : (s.failLong r).counters = s.counters := by
  simp [State.failLong]

@[simp] theorem State.failWalk_pending (w : Fin 4) (s : State) : (s.failWalk w).pending = s.pending := by
  unfold State.failWalk; (repeat' split) <;> rfl
@[simp] theorem State.failWalk_powered (w : Fin 4) (s : State) : (s.failWalk w).powered = s.powered := by
  unfold State.failWalk; (repeat' split) <;> rfl
@[simp] theorem State.failWalk_freeIndex (w : Fin 4) (s : State) : (s.failWalk w).freeIndex = s.freeIndex := by
  unfold State.failWalk; (repeat' split) <;> rfl
@[simp] theorem State.failWalk_ports (w : Fin 4) (s : State) : (s.failWalk w).ports = s.ports := by
  unfold State.failWalk; (repeat' split) <;> rfl
@[simp] theorem State.failWalk_channels (w : Fin 4) (s : State) : (s.failWalk w).channels = s.channels := by
  unfold State.failWalk; (repeat' split) <;> rfl
@[simp] theorem State.failWalk_families (w : Fin 4) (s : State) : (s.failWalk w).families = s.families := by
  unfold State.failWalk; (repeat' split) <;> rfl
@[simp] theorem State.failWalk_tb (w : Fin 4) (s : State) : (s.failWalk w).tb = s.tb := by
  unfold State.failWalk; (repeat' split) <;> rfl
@[simp] theorem State.failWalk_rm (w : Fin 4) (s : State) : (s.failWalk w).rm = s.rm := by
  unfold State.failWalk; (repeat' split) <;> rfl
@[simp] theorem State.failWalk_mc (w : Fin 4) (s : State) : (s.failWalk w).mc = s.mc := by
  unfold State.failWalk; (repeat' split) <;> rfl
@[simp] theorem State.failWalk_rules (w : Fin 4) (s : State) : (s.failWalk w).rules = s.rules := by
  unfold State.failWalk; (repeat' split) <;> rfl
@[simp] theorem State.failWalk_store (w : Fin 4) (s : State) : (s.failWalk w).store = s.store := by
  unfold State.failWalk; (repeat' split) <;> rfl
@[simp] theorem State.failWalk_port (w : Fin 4) (s : State) : (s.failWalk w).port = s.port := by
  unfold State.failWalk; (repeat' split) <;> rfl
@[simp] theorem State.failWalk_startup (w : Fin 4) (s : State) : (s.failWalk w).startup = s.startup := by
  unfold State.failWalk; (repeat' split) <;> rfl
@[simp] theorem State.failWalk_storeFailed (w : Fin 4) (s : State) : (s.failWalk w).storeFailed = s.storeFailed := by
  unfold State.failWalk; (repeat' split) <;> rfl
@[simp] theorem State.failWalk_journal (w : Fin 4) (s : State) : (s.failWalk w).journal = s.journal := by
  unfold State.failWalk; (repeat' split) <;> rfl
@[simp] theorem State.failWalk_ue (w : Fin 4) (s : State) : (s.failWalk w).ue = s.ue := by
  unfold State.failWalk; (repeat' split) <;> rfl
@[simp] theorem State.failWalk_tl (w : Fin 4) (s : State) : (s.failWalk w).tl = s.tl := by
  unfold State.failWalk; (repeat' split) <;> rfl
@[simp] theorem State.failWalk_counters (w : Fin 4) (s : State) : (s.failWalk w).counters = s.counters := by
  unfold State.failWalk; (repeat' split) <;> rfl

@[simp] theorem State.request_pending (c : Client) (op : StoreOp) (s : State) : (s.request c op).pending = s.pending := by
  unfold State.request; (repeat' split) <;> simp
@[simp] theorem State.request_powered (c : Client) (op : StoreOp) (s : State) : (s.request c op).powered = s.powered := by
  unfold State.request; (repeat' split) <;> simp
@[simp] theorem State.request_freeIndex (c : Client) (op : StoreOp) (s : State) : (s.request c op).freeIndex = s.freeIndex := by
  unfold State.request; (repeat' split) <;> simp
@[simp] theorem State.request_ports (c : Client) (op : StoreOp) (s : State) : (s.request c op).ports = s.ports := by
  unfold State.request; (repeat' split) <;> simp
@[simp] theorem State.request_channels (c : Client) (op : StoreOp) (s : State) : (s.request c op).channels = s.channels := by
  unfold State.request; (repeat' split) <;> simp
@[simp] theorem State.request_families (c : Client) (op : StoreOp) (s : State) : (s.request c op).families = s.families := by
  unfold State.request; (repeat' split) <;> simp
@[simp] theorem State.request_tb (c : Client) (op : StoreOp) (s : State) : (s.request c op).tb = s.tb := by
  unfold State.request; (repeat' split) <;> simp
@[simp] theorem State.request_rm (c : Client) (op : StoreOp) (s : State) : (s.request c op).rm = s.rm := by
  unfold State.request; (repeat' split) <;> simp
@[simp] theorem State.request_mc (c : Client) (op : StoreOp) (s : State) : (s.request c op).mc = s.mc := by
  unfold State.request; (repeat' split) <;> simp
@[simp] theorem State.request_rules (c : Client) (op : StoreOp) (s : State) : (s.request c op).rules = s.rules := by
  unfold State.request; (repeat' split) <;> simp
@[simp] theorem State.request_store (c : Client) (op : StoreOp) (s : State) : (s.request c op).store = s.store := by
  unfold State.request; (repeat' split) <;> simp
@[simp] theorem State.request_startup (c : Client) (op : StoreOp) (s : State) : (s.request c op).startup = s.startup := by
  unfold State.request; (repeat' split) <;> simp
@[simp] theorem State.request_storeFailed (c : Client) (op : StoreOp) (s : State) : (s.request c op).storeFailed = s.storeFailed := by
  unfold State.request; (repeat' split) <;> simp
@[simp] theorem State.request_journal (c : Client) (op : StoreOp) (s : State) : (s.request c op).journal = s.journal := by
  unfold State.request; (repeat' split) <;> simp
@[simp] theorem State.request_ue (c : Client) (op : StoreOp) (s : State) : (s.request c op).ue = s.ue := by
  unfold State.request; (repeat' split) <;> simp
@[simp] theorem State.request_tl (c : Client) (op : StoreOp) (s : State) : (s.request c op).tl = s.tl := by
  unfold State.request; (repeat' split) <;> simp
@[simp] theorem State.request_counters (c : Client) (op : StoreOp) (s : State) : (s.request c op).counters = s.counters := by
  unfold State.request; (repeat' split) <;> simp

@[simp] theorem State.endOp_pending (s : State) : s.endOp.pending = s.pending := by
  unfold State.endOp; split <;> rfl
@[simp] theorem State.endOp_powered (s : State) : s.endOp.powered = s.powered := by
  unfold State.endOp; split <;> rfl
@[simp] theorem State.endOp_freeIndex (s : State) : s.endOp.freeIndex = s.freeIndex := by
  unfold State.endOp; split <;> rfl
@[simp] theorem State.endOp_ports (s : State) : s.endOp.ports = s.ports := by
  unfold State.endOp; split <;> rfl
@[simp] theorem State.endOp_channels (s : State) : s.endOp.channels = s.channels := by
  unfold State.endOp; split <;> rfl
@[simp] theorem State.endOp_families (s : State) : s.endOp.families = s.families := by
  unfold State.endOp; split <;> rfl
@[simp] theorem State.endOp_tb (s : State) : s.endOp.tb = s.tb := by
  unfold State.endOp; split <;> rfl
@[simp] theorem State.endOp_rm (s : State) : s.endOp.rm = s.rm := by
  unfold State.endOp; split <;> rfl
@[simp] theorem State.endOp_cl (s : State) : s.endOp.cl = s.cl := by
  unfold State.endOp; split <;> rfl
@[simp] theorem State.endOp_mc (s : State) : s.endOp.mc = s.mc := by
  unfold State.endOp; split <;> rfl
@[simp] theorem State.endOp_rules (s : State) : s.endOp.rules = s.rules := by
  unfold State.endOp; split <;> rfl
@[simp] theorem State.endOp_startup (s : State) : s.endOp.startup = s.startup := by
  unfold State.endOp; split <;> rfl
@[simp] theorem State.endOp_storeFailed (s : State) : s.endOp.storeFailed = s.storeFailed := by
  unfold State.endOp; split <;> rfl
@[simp] theorem State.endOp_journal (s : State) : s.endOp.journal = s.journal := by
  unfold State.endOp; split <;> rfl
@[simp] theorem State.endOp_ue (s : State) : s.endOp.ue = s.ue := by
  unfold State.endOp; split <;> rfl
@[simp] theorem State.endOp_tl (s : State) : s.endOp.tl = s.tl := by
  unfold State.endOp; split <;> rfl
@[simp] theorem State.endOp_counters (s : State) : s.endOp.counters = s.counters := by
  unfold State.endOp; split <;> rfl

@[simp] theorem State.grant_pending (s : State) : s.grant.pending = s.pending := by
  unfold State.grant; (repeat' split) <;> simp
@[simp] theorem State.grant_powered (s : State) : s.grant.powered = s.powered := by
  unfold State.grant; (repeat' split) <;> simp
@[simp] theorem State.grant_freeIndex (s : State) : s.grant.freeIndex = s.freeIndex := by
  unfold State.grant; (repeat' split) <;> simp
@[simp] theorem State.grant_ports (s : State) : s.grant.ports = s.ports := by
  unfold State.grant; (repeat' split) <;> simp
@[simp] theorem State.grant_channels (s : State) : s.grant.channels = s.channels := by
  unfold State.grant; (repeat' split) <;> simp
@[simp] theorem State.grant_families (s : State) : s.grant.families = s.families := by
  unfold State.grant; (repeat' split) <;> simp
@[simp] theorem State.grant_tb (s : State) : s.grant.tb = s.tb := by
  unfold State.grant; (repeat' split) <;> simp
@[simp] theorem State.grant_rm (s : State) : s.grant.rm = s.rm := by
  unfold State.grant; (repeat' split) <;> simp
@[simp] theorem State.grant_cl (s : State) : s.grant.cl = s.cl := by
  unfold State.grant; (repeat' split) <;> simp
@[simp] theorem State.grant_mc (s : State) : s.grant.mc = s.mc := by
  unfold State.grant; (repeat' split) <;> simp
@[simp] theorem State.grant_rules (s : State) : s.grant.rules = s.rules := by
  unfold State.grant; (repeat' split) <;> simp
@[simp] theorem State.grant_store (s : State) : s.grant.store = s.store := by
  unfold State.grant; (repeat' split) <;> simp
@[simp] theorem State.grant_startup (s : State) : s.grant.startup = s.startup := by
  unfold State.grant; (repeat' split) <;> simp
@[simp] theorem State.grant_storeFailed (s : State) : s.grant.storeFailed = s.storeFailed := by
  unfold State.grant; (repeat' split) <;> simp
@[simp] theorem State.grant_journal (s : State) : s.grant.journal = s.journal := by
  unfold State.grant; (repeat' split) <;> simp
@[simp] theorem State.grant_ue (s : State) : s.grant.ue = s.ue := by
  unfold State.grant; (repeat' split) <;> simp
@[simp] theorem State.grant_tl (s : State) : s.grant.tl = s.tl := by
  unfold State.grant; (repeat' split) <;> simp

@[simp] theorem State.testReclaim_pending (s : State) : s.testReclaim.pending = s.pending := by
  unfold State.testReclaim; split <;> simp
@[simp] theorem State.testReclaim_powered (s : State) : s.testReclaim.powered = s.powered := by
  unfold State.testReclaim; split <;> simp
@[simp] theorem State.testReclaim_freeIndex (s : State) : s.testReclaim.freeIndex = s.freeIndex := by
  unfold State.testReclaim; split <;> simp
@[simp] theorem State.testReclaim_ports (s : State) : s.testReclaim.ports = s.ports := by
  unfold State.testReclaim; split <;> simp
@[simp] theorem State.testReclaim_channels (s : State) : s.testReclaim.channels = s.channels := by
  unfold State.testReclaim; split <;> simp
@[simp] theorem State.testReclaim_families (s : State) : s.testReclaim.families = s.families := by
  unfold State.testReclaim; split <;> simp
@[simp] theorem State.testReclaim_tb (s : State) : s.testReclaim.tb = s.tb := by
  unfold State.testReclaim; split <;> simp
@[simp] theorem State.testReclaim_rm (s : State) : s.testReclaim.rm = s.rm := by
  unfold State.testReclaim; split <;> simp
@[simp] theorem State.testReclaim_mc (s : State) : s.testReclaim.mc = s.mc := by
  unfold State.testReclaim; split <;> simp
@[simp] theorem State.testReclaim_rules (s : State) : s.testReclaim.rules = s.rules := by
  unfold State.testReclaim; split <;> simp
@[simp] theorem State.testReclaim_store (s : State) : s.testReclaim.store = s.store := by
  unfold State.testReclaim; split <;> simp
@[simp] theorem State.testReclaim_startup (s : State) : s.testReclaim.startup = s.startup := by
  unfold State.testReclaim; split <;> simp
@[simp] theorem State.testReclaim_storeFailed (s : State) : s.testReclaim.storeFailed = s.storeFailed := by
  unfold State.testReclaim; split <;> simp
@[simp] theorem State.testReclaim_journal (s : State) : s.testReclaim.journal = s.journal := by
  unfold State.testReclaim; split <;> simp
@[simp] theorem State.testReclaim_ue (s : State) : s.testReclaim.ue = s.ue := by
  unfold State.testReclaim; split <;> simp
@[simp] theorem State.testReclaim_tl (s : State) : s.testReclaim.tl = s.tl := by
  unfold State.testReclaim; split <;> simp
@[simp] theorem State.testReclaim_counters (s : State) : s.testReclaim.counters = s.counters := by
  unfold State.testReclaim; split <;> simp

@[simp] theorem State.testLow_pending (s : State) : s.testLow.pending = s.pending := by
  unfold State.testLow; split <;> simp
@[simp] theorem State.testLow_powered (s : State) : s.testLow.powered = s.powered := by
  unfold State.testLow; split <;> simp
@[simp] theorem State.testLow_freeIndex (s : State) : s.testLow.freeIndex = s.freeIndex := by
  unfold State.testLow; split <;> simp
@[simp] theorem State.testLow_ports (s : State) : s.testLow.ports = s.ports := by
  unfold State.testLow; split <;> simp
@[simp] theorem State.testLow_channels (s : State) : s.testLow.channels = s.channels := by
  unfold State.testLow; split <;> simp
@[simp] theorem State.testLow_families (s : State) : s.testLow.families = s.families := by
  unfold State.testLow; split <;> simp
@[simp] theorem State.testLow_tb (s : State) : s.testLow.tb = s.tb := by
  unfold State.testLow; split <;> simp
@[simp] theorem State.testLow_rm (s : State) : s.testLow.rm = s.rm := by
  unfold State.testLow; split <;> simp
@[simp] theorem State.testLow_cl (s : State) : s.testLow.cl = s.cl := by
  unfold State.testLow; split <;> simp
@[simp] theorem State.testLow_mc (s : State) : s.testLow.mc = s.mc := by
  unfold State.testLow; split <;> simp
@[simp] theorem State.testLow_rules (s : State) : s.testLow.rules = s.rules := by
  unfold State.testLow; split <;> simp
@[simp] theorem State.testLow_store (s : State) : s.testLow.store = s.store := by
  unfold State.testLow; split <;> simp
@[simp] theorem State.testLow_port (s : State) : s.testLow.port = s.port := by
  unfold State.testLow; split <;> simp
@[simp] theorem State.testLow_startup (s : State) : s.testLow.startup = s.startup := by
  unfold State.testLow; split <;> simp
@[simp] theorem State.testLow_storeFailed (s : State) : s.testLow.storeFailed = s.storeFailed := by
  unfold State.testLow; split <;> simp
@[simp] theorem State.testLow_journal (s : State) : s.testLow.journal = s.journal := by
  unfold State.testLow; split <;> simp
@[simp] theorem State.testLow_ue (s : State) : s.testLow.ue = s.ue := by
  unfold State.testLow; split <;> simp

@[simp] theorem State.discardQueue_pending (s : State) : s.discardQueue.pending = s.pending := by
  unfold State.discardQueue; split <;> simp
@[simp] theorem State.discardQueue_powered (s : State) : s.discardQueue.powered = s.powered := by
  unfold State.discardQueue; split <;> simp
@[simp] theorem State.discardQueue_freeIndex (s : State) : s.discardQueue.freeIndex = s.freeIndex := by
  unfold State.discardQueue; split <;> simp
@[simp] theorem State.discardQueue_ports (s : State) : s.discardQueue.ports = s.ports := by
  unfold State.discardQueue; split <;> simp
@[simp] theorem State.discardQueue_channels (s : State) : s.discardQueue.channels = s.channels := by
  unfold State.discardQueue; split <;> simp
@[simp] theorem State.discardQueue_families (s : State) : s.discardQueue.families = s.families := by
  unfold State.discardQueue; split <;> simp
@[simp] theorem State.discardQueue_tb (s : State) : s.discardQueue.tb = s.tb := by
  unfold State.discardQueue; split <;> simp
@[simp] theorem State.discardQueue_rm (s : State) : s.discardQueue.rm = s.rm := by
  unfold State.discardQueue; split <;> simp
@[simp] theorem State.discardQueue_cl (s : State) : s.discardQueue.cl = s.cl := by
  unfold State.discardQueue; split <;> simp
@[simp] theorem State.discardQueue_mc (s : State) : s.discardQueue.mc = s.mc := by
  unfold State.discardQueue; split <;> simp
@[simp] theorem State.discardQueue_rules (s : State) : s.discardQueue.rules = s.rules := by
  unfold State.discardQueue; split <;> simp
@[simp] theorem State.discardQueue_store (s : State) : s.discardQueue.store = s.store := by
  unfold State.discardQueue; split <;> simp
@[simp] theorem State.discardQueue_port (s : State) : s.discardQueue.port = s.port := by
  unfold State.discardQueue; split <;> simp
@[simp] theorem State.discardQueue_startup (s : State) : s.discardQueue.startup = s.startup := by
  unfold State.discardQueue; split <;> simp
@[simp] theorem State.discardQueue_storeFailed (s : State) : s.discardQueue.storeFailed = s.storeFailed := by
  unfold State.discardQueue; split <;> simp
@[simp] theorem State.discardQueue_ue (s : State) : s.discardQueue.ue = s.ue := by
  unfold State.discardQueue; split <;> simp
@[simp] theorem State.discardQueue_tl (s : State) : s.discardQueue.tl = s.tl := by
  unfold State.discardQueue; split <;> simp

@[simp] theorem State.wantAppend_pending (s : State) : s.wantAppend.pending = s.pending := by
  unfold State.wantAppend; (repeat' split) <;> simp
@[simp] theorem State.wantAppend_powered (s : State) : s.wantAppend.powered = s.powered := by
  unfold State.wantAppend; (repeat' split) <;> simp
@[simp] theorem State.wantAppend_freeIndex (s : State) : s.wantAppend.freeIndex = s.freeIndex := by
  unfold State.wantAppend; (repeat' split) <;> simp
@[simp] theorem State.wantAppend_ports (s : State) : s.wantAppend.ports = s.ports := by
  unfold State.wantAppend; (repeat' split) <;> simp
@[simp] theorem State.wantAppend_channels (s : State) : s.wantAppend.channels = s.channels := by
  unfold State.wantAppend; (repeat' split) <;> simp
@[simp] theorem State.wantAppend_families (s : State) : s.wantAppend.families = s.families := by
  unfold State.wantAppend; (repeat' split) <;> simp
@[simp] theorem State.wantAppend_tb (s : State) : s.wantAppend.tb = s.tb := by
  unfold State.wantAppend; (repeat' split) <;> simp
@[simp] theorem State.wantAppend_rm (s : State) : s.wantAppend.rm = s.rm := by
  unfold State.wantAppend; (repeat' split) <;> simp
@[simp] theorem State.wantAppend_mc (s : State) : s.wantAppend.mc = s.mc := by
  unfold State.wantAppend; (repeat' split) <;> simp
@[simp] theorem State.wantAppend_rules (s : State) : s.wantAppend.rules = s.rules := by
  unfold State.wantAppend; (repeat' split) <;> simp
@[simp] theorem State.wantAppend_store (s : State) : s.wantAppend.store = s.store := by
  unfold State.wantAppend; (repeat' split) <;> simp
@[simp] theorem State.wantAppend_startup (s : State) : s.wantAppend.startup = s.startup := by
  unfold State.wantAppend; (repeat' split) <;> simp
@[simp] theorem State.wantAppend_storeFailed (s : State) : s.wantAppend.storeFailed = s.storeFailed := by
  unfold State.wantAppend; (repeat' split) <;> simp
@[simp] theorem State.wantAppend_journal (s : State) : s.wantAppend.journal = s.journal := by
  unfold State.wantAppend; (repeat' split) <;> simp
@[simp] theorem State.wantAppend_ue (s : State) : s.wantAppend.ue = s.ue := by
  unfold State.wantAppend; (repeat' split) <;> simp
@[simp] theorem State.wantAppend_tl (s : State) : s.wantAppend.tl = s.tl := by
  unfold State.wantAppend; (repeat' split) <;> simp
@[simp] theorem State.wantAppend_counters (s : State) : s.wantAppend.counters = s.counters := by
  unfold State.wantAppend; (repeat' split) <;> simp

@[simp] theorem State.wantMark_pending (s : State) : s.wantMark.pending = s.pending := by
  unfold State.wantMark; split <;> simp
@[simp] theorem State.wantMark_powered (s : State) : s.wantMark.powered = s.powered := by
  unfold State.wantMark; split <;> simp
@[simp] theorem State.wantMark_freeIndex (s : State) : s.wantMark.freeIndex = s.freeIndex := by
  unfold State.wantMark; split <;> simp
@[simp] theorem State.wantMark_ports (s : State) : s.wantMark.ports = s.ports := by
  unfold State.wantMark; split <;> simp
@[simp] theorem State.wantMark_channels (s : State) : s.wantMark.channels = s.channels := by
  unfold State.wantMark; split <;> simp
@[simp] theorem State.wantMark_families (s : State) : s.wantMark.families = s.families := by
  unfold State.wantMark; split <;> simp
@[simp] theorem State.wantMark_tb (s : State) : s.wantMark.tb = s.tb := by
  unfold State.wantMark; split <;> simp
@[simp] theorem State.wantMark_rm (s : State) : s.wantMark.rm = s.rm := by
  unfold State.wantMark; split <;> simp
@[simp] theorem State.wantMark_mc (s : State) : s.wantMark.mc = s.mc := by
  unfold State.wantMark; split <;> simp
@[simp] theorem State.wantMark_rules (s : State) : s.wantMark.rules = s.rules := by
  unfold State.wantMark; split <;> simp
@[simp] theorem State.wantMark_store (s : State) : s.wantMark.store = s.store := by
  unfold State.wantMark; split <;> simp
@[simp] theorem State.wantMark_startup (s : State) : s.wantMark.startup = s.startup := by
  unfold State.wantMark; split <;> simp
@[simp] theorem State.wantMark_storeFailed (s : State) : s.wantMark.storeFailed = s.storeFailed := by
  unfold State.wantMark; split <;> simp
@[simp] theorem State.wantMark_journal (s : State) : s.wantMark.journal = s.journal := by
  unfold State.wantMark; split <;> simp
@[simp] theorem State.wantMark_ue (s : State) : s.wantMark.ue = s.ue := by
  unfold State.wantMark; split <;> simp
@[simp] theorem State.wantMark_tl (s : State) : s.wantMark.tl = s.tl := by
  unfold State.wantMark; split <;> simp
@[simp] theorem State.wantMark_counters (s : State) : s.wantMark.counters = s.counters := by
  unfold State.wantMark; split <;> simp

@[simp] theorem State.closeGathering_pending (s : State) : s.closeGathering.pending = s.pending := by
  unfold State.closeGathering; dsimp only; (repeat' split) <;> simp
@[simp] theorem State.closeGathering_powered (s : State) : s.closeGathering.powered = s.powered := by
  unfold State.closeGathering; dsimp only; (repeat' split) <;> simp
@[simp] theorem State.closeGathering_freeIndex (s : State) : s.closeGathering.freeIndex = s.freeIndex := by
  unfold State.closeGathering; dsimp only; (repeat' split) <;> simp
@[simp] theorem State.closeGathering_ports (s : State) : s.closeGathering.ports = s.ports := by
  unfold State.closeGathering; dsimp only; (repeat' split) <;> simp
@[simp] theorem State.closeGathering_channels (s : State) : s.closeGathering.channels = s.channels := by
  unfold State.closeGathering; dsimp only; (repeat' split) <;> simp
@[simp] theorem State.closeGathering_families (s : State) : s.closeGathering.families = s.families := by
  unfold State.closeGathering; dsimp only; (repeat' split) <;> simp
@[simp] theorem State.closeGathering_tb (s : State) : s.closeGathering.tb = s.tb := by
  unfold State.closeGathering; dsimp only; (repeat' split) <;> simp
@[simp] theorem State.closeGathering_rm (s : State) : s.closeGathering.rm = s.rm := by
  unfold State.closeGathering; dsimp only; (repeat' split) <;> simp
@[simp] theorem State.closeGathering_cl (s : State) : s.closeGathering.cl = s.cl := by
  unfold State.closeGathering; dsimp only; (repeat' split) <;> simp
@[simp] theorem State.closeGathering_mc (s : State) : s.closeGathering.mc = s.mc := by
  unfold State.closeGathering; dsimp only; (repeat' split) <;> simp
@[simp] theorem State.closeGathering_rules (s : State) : s.closeGathering.rules = s.rules := by
  unfold State.closeGathering; dsimp only; (repeat' split) <;> simp
@[simp] theorem State.closeGathering_store (s : State) : s.closeGathering.store = s.store := by
  unfold State.closeGathering; dsimp only; (repeat' split) <;> simp
@[simp] theorem State.closeGathering_port (s : State) : s.closeGathering.port = s.port := by
  unfold State.closeGathering; dsimp only; (repeat' split) <;> simp
@[simp] theorem State.closeGathering_startup (s : State) : s.closeGathering.startup = s.startup := by
  unfold State.closeGathering; dsimp only; (repeat' split) <;> simp
@[simp] theorem State.closeGathering_storeFailed (s : State) : s.closeGathering.storeFailed = s.storeFailed := by
  unfold State.closeGathering; dsimp only; (repeat' split) <;> simp
@[simp] theorem State.closeGathering_journal (s : State) : s.closeGathering.journal = s.journal := by
  unfold State.closeGathering; dsimp only; (repeat' split) <;> simp
@[simp] theorem State.closeGathering_tl (s : State) : s.closeGathering.tl = s.tl := by
  unfold State.closeGathering; dsimp only; (repeat' split) <;> simp
@[simp] theorem State.closeGathering_counters (s : State) : s.closeGathering.counters = s.counters := by
  unfold State.closeGathering; dsimp only; (repeat' split) <;> simp

@[simp] theorem State.putBack_pending (s : State) : s.putBack.pending = s.pending := by
  unfold State.putBack; split <;> simp
@[simp] theorem State.putBack_powered (s : State) : s.putBack.powered = s.powered := by
  unfold State.putBack; split <;> simp
@[simp] theorem State.putBack_freeIndex (s : State) : s.putBack.freeIndex = s.freeIndex := by
  unfold State.putBack; split <;> simp
@[simp] theorem State.putBack_ports (s : State) : s.putBack.ports = s.ports := by
  unfold State.putBack; split <;> simp
@[simp] theorem State.putBack_channels (s : State) : s.putBack.channels = s.channels := by
  unfold State.putBack; split <;> simp
@[simp] theorem State.putBack_families (s : State) : s.putBack.families = s.families := by
  unfold State.putBack; split <;> simp
@[simp] theorem State.putBack_tb (s : State) : s.putBack.tb = s.tb := by
  unfold State.putBack; split <;> simp
@[simp] theorem State.putBack_rm (s : State) : s.putBack.rm = s.rm := by
  unfold State.putBack; split <;> simp
@[simp] theorem State.putBack_cl (s : State) : s.putBack.cl = s.cl := by
  unfold State.putBack; split <;> simp
@[simp] theorem State.putBack_mc (s : State) : s.putBack.mc = s.mc := by
  unfold State.putBack; split <;> simp
@[simp] theorem State.putBack_rules (s : State) : s.putBack.rules = s.rules := by
  unfold State.putBack; split <;> simp
@[simp] theorem State.putBack_store (s : State) : s.putBack.store = s.store := by
  unfold State.putBack; split <;> simp
@[simp] theorem State.putBack_port (s : State) : s.putBack.port = s.port := by
  unfold State.putBack; split <;> simp
@[simp] theorem State.putBack_startup (s : State) : s.putBack.startup = s.startup := by
  unfold State.putBack; split <;> simp
@[simp] theorem State.putBack_storeFailed (s : State) : s.putBack.storeFailed = s.storeFailed := by
  unfold State.putBack; split <;> simp
@[simp] theorem State.putBack_journal (s : State) : s.putBack.journal = s.journal := by
  unfold State.putBack; split <;> simp
@[simp] theorem State.putBack_tl (s : State) : s.putBack.tl = s.tl := by
  unfold State.putBack; split <;> simp
@[simp] theorem State.putBack_counters (s : State) : s.putBack.counters = s.counters := by
  unfold State.putBack; split <;> simp

@[simp] theorem State.stopGathering_pending (s : State) : s.stopGathering.pending = s.pending := by
  simp [State.stopGathering]
@[simp] theorem State.stopGathering_powered (s : State) : s.stopGathering.powered = s.powered := by
  simp [State.stopGathering]
@[simp] theorem State.stopGathering_freeIndex (s : State) : s.stopGathering.freeIndex = s.freeIndex := by
  simp [State.stopGathering]
@[simp] theorem State.stopGathering_ports (s : State) : s.stopGathering.ports = s.ports := by
  simp [State.stopGathering]
@[simp] theorem State.stopGathering_channels (s : State) : s.stopGathering.channels = s.channels := by
  simp [State.stopGathering]
@[simp] theorem State.stopGathering_families (s : State) : s.stopGathering.families = s.families := by
  simp [State.stopGathering]
@[simp] theorem State.stopGathering_tb (s : State) : s.stopGathering.tb = s.tb := by
  simp [State.stopGathering]
@[simp] theorem State.stopGathering_rm (s : State) : s.stopGathering.rm = s.rm := by
  simp [State.stopGathering]
@[simp] theorem State.stopGathering_cl (s : State) : s.stopGathering.cl = s.cl := by
  simp [State.stopGathering]
@[simp] theorem State.stopGathering_mc (s : State) : s.stopGathering.mc = s.mc := by
  simp [State.stopGathering]
@[simp] theorem State.stopGathering_rules (s : State) : s.stopGathering.rules = s.rules := by
  simp [State.stopGathering]
@[simp] theorem State.stopGathering_store (s : State) : s.stopGathering.store = s.store := by
  simp [State.stopGathering]
@[simp] theorem State.stopGathering_startup (s : State) : s.stopGathering.startup = s.startup := by
  simp [State.stopGathering]
@[simp] theorem State.stopGathering_storeFailed (s : State) : s.stopGathering.storeFailed = s.storeFailed := by
  simp [State.stopGathering]
@[simp] theorem State.stopGathering_journal (s : State) : s.stopGathering.journal = s.journal := by
  simp [State.stopGathering]
@[simp] theorem State.stopGathering_tl (s : State) : s.stopGathering.tl = s.tl := by
  simp [State.stopGathering]
@[simp] theorem State.stopGathering_counters (s : State) : s.stopGathering.counters = s.counters := by
  simp [State.stopGathering]

@[simp] theorem State.rewindPointer_pending (s : State) : s.rewindPointer.pending = s.pending := by
  unfold State.rewindPointer; dsimp only; split <;> simp
@[simp] theorem State.rewindPointer_powered (s : State) : s.rewindPointer.powered = s.powered := by
  unfold State.rewindPointer; dsimp only; split <;> simp
@[simp] theorem State.rewindPointer_freeIndex (s : State) : s.rewindPointer.freeIndex = s.freeIndex := by
  unfold State.rewindPointer; dsimp only; split <;> simp
@[simp] theorem State.rewindPointer_ports (s : State) : s.rewindPointer.ports = s.ports := by
  unfold State.rewindPointer; dsimp only; split <;> simp
@[simp] theorem State.rewindPointer_channels (s : State) : s.rewindPointer.channels = s.channels := by
  unfold State.rewindPointer; dsimp only; split <;> simp
@[simp] theorem State.rewindPointer_families (s : State) : s.rewindPointer.families = s.families := by
  unfold State.rewindPointer; dsimp only; split <;> simp
@[simp] theorem State.rewindPointer_tb (s : State) : s.rewindPointer.tb = s.tb := by
  unfold State.rewindPointer; dsimp only; split <;> simp
@[simp] theorem State.rewindPointer_rm (s : State) : s.rewindPointer.rm = s.rm := by
  unfold State.rewindPointer; dsimp only; split <;> simp
@[simp] theorem State.rewindPointer_cl (s : State) : s.rewindPointer.cl = s.cl := by
  unfold State.rewindPointer; dsimp only; split <;> simp
@[simp] theorem State.rewindPointer_mc (s : State) : s.rewindPointer.mc = s.mc := by
  unfold State.rewindPointer; dsimp only; split <;> simp
@[simp] theorem State.rewindPointer_rules (s : State) : s.rewindPointer.rules = s.rules := by
  unfold State.rewindPointer; dsimp only; split <;> simp
@[simp] theorem State.rewindPointer_store (s : State) : s.rewindPointer.store = s.store := by
  unfold State.rewindPointer; dsimp only; split <;> simp
@[simp] theorem State.rewindPointer_startup (s : State) : s.rewindPointer.startup = s.startup := by
  unfold State.rewindPointer; dsimp only; split <;> simp
@[simp] theorem State.rewindPointer_storeFailed (s : State) : s.rewindPointer.storeFailed = s.storeFailed := by
  unfold State.rewindPointer; dsimp only; split <;> simp
@[simp] theorem State.rewindPointer_journal (s : State) : s.rewindPointer.journal = s.journal := by
  unfold State.rewindPointer; dsimp only; split <;> simp

@[simp] theorem State.rewindUpload_pending (s : State) : s.rewindUpload.pending = s.pending := by
  simp [State.rewindUpload]
@[simp] theorem State.rewindUpload_powered (s : State) : s.rewindUpload.powered = s.powered := by
  simp [State.rewindUpload]
@[simp] theorem State.rewindUpload_freeIndex (s : State) : s.rewindUpload.freeIndex = s.freeIndex := by
  simp [State.rewindUpload]
@[simp] theorem State.rewindUpload_ports (s : State) : s.rewindUpload.ports = s.ports := by
  simp [State.rewindUpload]
@[simp] theorem State.rewindUpload_channels (s : State) : s.rewindUpload.channels = s.channels := by
  simp [State.rewindUpload]
@[simp] theorem State.rewindUpload_families (s : State) : s.rewindUpload.families = s.families := by
  simp [State.rewindUpload]
@[simp] theorem State.rewindUpload_tb (s : State) : s.rewindUpload.tb = s.tb := by
  simp [State.rewindUpload]
@[simp] theorem State.rewindUpload_rm (s : State) : s.rewindUpload.rm = s.rm := by
  simp [State.rewindUpload]
@[simp] theorem State.rewindUpload_cl (s : State) : s.rewindUpload.cl = s.cl := by
  simp [State.rewindUpload]
@[simp] theorem State.rewindUpload_mc (s : State) : s.rewindUpload.mc = s.mc := by
  simp [State.rewindUpload]
@[simp] theorem State.rewindUpload_rules (s : State) : s.rewindUpload.rules = s.rules := by
  simp [State.rewindUpload]
@[simp] theorem State.rewindUpload_store (s : State) : s.rewindUpload.store = s.store := by
  simp [State.rewindUpload]
@[simp] theorem State.rewindUpload_startup (s : State) : s.rewindUpload.startup = s.startup := by
  simp [State.rewindUpload]
@[simp] theorem State.rewindUpload_storeFailed (s : State) : s.rewindUpload.storeFailed = s.storeFailed := by
  simp [State.rewindUpload]
@[simp] theorem State.rewindUpload_journal (s : State) : s.rewindUpload.journal = s.journal := by
  simp [State.rewindUpload]

@[simp] theorem State.failUploadRead_pending (s : State) : s.failUploadRead.pending = s.pending := by
  simp [State.failUploadRead, State.stallUpload]
@[simp] theorem State.failUploadRead_powered (s : State) : s.failUploadRead.powered = s.powered := by
  simp [State.failUploadRead, State.stallUpload]
@[simp] theorem State.failUploadRead_freeIndex (s : State) : s.failUploadRead.freeIndex = s.freeIndex := by
  simp [State.failUploadRead, State.stallUpload]
@[simp] theorem State.failUploadRead_ports (s : State) : s.failUploadRead.ports = s.ports := by
  simp [State.failUploadRead, State.stallUpload]
@[simp] theorem State.failUploadRead_channels (s : State) : s.failUploadRead.channels = s.channels := by
  simp [State.failUploadRead, State.stallUpload]
@[simp] theorem State.failUploadRead_families (s : State) : s.failUploadRead.families = s.families := by
  simp [State.failUploadRead, State.stallUpload]
@[simp] theorem State.failUploadRead_tb (s : State) : s.failUploadRead.tb = s.tb := by
  simp [State.failUploadRead, State.stallUpload]
@[simp] theorem State.failUploadRead_rm (s : State) : s.failUploadRead.rm = s.rm := by
  simp [State.failUploadRead, State.stallUpload]
@[simp] theorem State.failUploadRead_cl (s : State) : s.failUploadRead.cl = s.cl := by
  simp [State.failUploadRead, State.stallUpload]
@[simp] theorem State.failUploadRead_mc (s : State) : s.failUploadRead.mc = s.mc := by
  simp [State.failUploadRead, State.stallUpload]
@[simp] theorem State.failUploadRead_rules (s : State) : s.failUploadRead.rules = s.rules := by
  simp [State.failUploadRead, State.stallUpload]
@[simp] theorem State.failUploadRead_store (s : State) : s.failUploadRead.store = s.store := by
  simp [State.failUploadRead, State.stallUpload]
@[simp] theorem State.failUploadRead_startup (s : State) : s.failUploadRead.startup = s.startup := by
  simp [State.failUploadRead, State.stallUpload]
@[simp] theorem State.failUploadRead_storeFailed (s : State) : s.failUploadRead.storeFailed = s.storeFailed := by
  simp [State.failUploadRead, State.stallUpload]
@[simp] theorem State.failUploadRead_journal (s : State) : s.failUploadRead.journal = s.journal := by
  simp [State.failUploadRead, State.stallUpload]

/-- A rewind disowns the frame in transmission and leaves the rest of the link (R160, R164). -/
theorem State.rewindUpload_tl (s : State) :
    s.rewindUpload.tl = { s.tl with tx := s.tl.tx.map Transmission.disown } := by
  simp only [State.rewindUpload, State.stopGathering, State.rewindPointer]
  split <;> simp [State.giveUpReady, State.setUpload, State.movePointer, State.dropUploadRead]

/-- What a rewind leaves of the engine depends on the engine, the head and the head next slot alone (R164). -/
theorem State.rewindUpload_ue_congr {s t : State} (hu : t.ue = s.ue) (hh : t.journal.head = s.journal.head)
    (hn : t.journal.headNext = s.journal.headNext) : t.rewindUpload.ue = s.rewindUpload.ue := by
  have hg : t.putBack.ue = s.putBack.ue := by
    unfold State.putBack; rw [hu]; cases s.ue.gathered <;> simp [hu, State.setUpload]
  simp only [State.rewindUpload, State.stopGathering, State.rewindPointer]
  rw [State.dropUploadRead_ue, State.dropUploadRead_ue, hg]
  cases s.putBack.ue.rewindPos <;>
    simp [State.closeGathering, State.uploadAtEnd, State.giveUpReady, State.setUpload, State.movePointer, hg, hh, hn] <;>
    (repeat' split) <;> simp_all

/-- What a failed read leaves of the engine (R166). -/
theorem State.failUploadRead_ue (s : State) : s.failUploadRead.ue = { s.rewindUpload.ue with state := .stalled } := by
  simp [State.failUploadRead, State.stallUpload]

/-- What the engine's request can be (R159, R166): none, a read, or with the store FAILED a stall. -/
theorem State.wantUpload_cases (s : State) :
    s.wantUpload = s ∨ (s.storeFailed = true ∧ s.wantUpload = s.failUploadRead)
      ∨ (s.storeFailed = false ∧ s.wantUpload = s.request .upload (.read (slotAddr s.ue.sector s.ue.slot) slotSize)) := by
  unfold State.wantUpload
  split
  · cases h : s.storeFailed
    · exact .inr (.inr ⟨rfl, rfl⟩)
    · exact .inr (.inl ⟨rfl, rfl⟩)
  · exact .inl rfl

/-- With the store not FAILED the engine's request changes nothing of the engine. -/
theorem State.wantUpload_ue (s : State) (h : s.storeFailed = false) : s.wantUpload.ue = s.ue := by
  obtain h' | ⟨h', -⟩ | ⟨-, h'⟩ := s.wantUpload_cases
  · rw [h']
  · rw [h] at h'; cases h'
  · rw [h', State.request_ue]

@[simp] theorem State.wantUpload_pending (s : State) : s.wantUpload.pending = s.pending := by
  unfold State.wantUpload; (repeat' split) <;> simp
@[simp] theorem State.wantUpload_powered (s : State) : s.wantUpload.powered = s.powered := by
  unfold State.wantUpload; (repeat' split) <;> simp
@[simp] theorem State.wantUpload_freeIndex (s : State) : s.wantUpload.freeIndex = s.freeIndex := by
  unfold State.wantUpload; (repeat' split) <;> simp
@[simp] theorem State.wantUpload_ports (s : State) : s.wantUpload.ports = s.ports := by
  unfold State.wantUpload; (repeat' split) <;> simp
@[simp] theorem State.wantUpload_channels (s : State) : s.wantUpload.channels = s.channels := by
  unfold State.wantUpload; (repeat' split) <;> simp
@[simp] theorem State.wantUpload_families (s : State) : s.wantUpload.families = s.families := by
  unfold State.wantUpload; (repeat' split) <;> simp
@[simp] theorem State.wantUpload_tb (s : State) : s.wantUpload.tb = s.tb := by
  unfold State.wantUpload; (repeat' split) <;> simp
@[simp] theorem State.wantUpload_rm (s : State) : s.wantUpload.rm = s.rm := by
  unfold State.wantUpload; (repeat' split) <;> simp
@[simp] theorem State.wantUpload_mc (s : State) : s.wantUpload.mc = s.mc := by
  unfold State.wantUpload; (repeat' split) <;> simp
@[simp] theorem State.wantUpload_rules (s : State) : s.wantUpload.rules = s.rules := by
  unfold State.wantUpload; (repeat' split) <;> simp
@[simp] theorem State.wantUpload_store (s : State) : s.wantUpload.store = s.store := by
  unfold State.wantUpload; (repeat' split) <;> simp
@[simp] theorem State.wantUpload_startup (s : State) : s.wantUpload.startup = s.startup := by
  unfold State.wantUpload; (repeat' split) <;> simp
@[simp] theorem State.wantUpload_storeFailed (s : State) : s.wantUpload.storeFailed = s.storeFailed := by
  unfold State.wantUpload; (repeat' split) <;> simp
@[simp] theorem State.wantUpload_journal (s : State) : s.wantUpload.journal = s.journal := by
  unfold State.wantUpload; (repeat' split) <;> simp

@[simp] theorem State.beginErase_pending (s : State) : s.beginErase.pending = s.pending := by
  unfold State.beginErase; (repeat' split) <;> simp
@[simp] theorem State.beginErase_powered (s : State) : s.beginErase.powered = s.powered := by
  unfold State.beginErase; (repeat' split) <;> simp
@[simp] theorem State.beginErase_freeIndex (s : State) : s.beginErase.freeIndex = s.freeIndex := by
  unfold State.beginErase; (repeat' split) <;> simp
@[simp] theorem State.beginErase_ports (s : State) : s.beginErase.ports = s.ports := by
  unfold State.beginErase; (repeat' split) <;> simp
@[simp] theorem State.beginErase_channels (s : State) : s.beginErase.channels = s.channels := by
  unfold State.beginErase; (repeat' split) <;> simp
@[simp] theorem State.beginErase_families (s : State) : s.beginErase.families = s.families := by
  unfold State.beginErase; (repeat' split) <;> simp
@[simp] theorem State.beginErase_tb (s : State) : s.beginErase.tb = s.tb := by
  unfold State.beginErase; (repeat' split) <;> simp
@[simp] theorem State.beginErase_rm (s : State) : s.beginErase.rm = s.rm := by
  unfold State.beginErase; (repeat' split) <;> simp
@[simp] theorem State.beginErase_mc (s : State) : s.beginErase.mc = s.mc := by
  unfold State.beginErase; (repeat' split) <;> simp
@[simp] theorem State.beginErase_rules (s : State) : s.beginErase.rules = s.rules := by
  unfold State.beginErase; (repeat' split) <;> simp
@[simp] theorem State.beginErase_store (s : State) : s.beginErase.store = s.store := by
  unfold State.beginErase; (repeat' split) <;> simp
@[simp] theorem State.beginErase_startup (s : State) : s.beginErase.startup = s.startup := by
  unfold State.beginErase; (repeat' split) <;> simp
@[simp] theorem State.beginErase_storeFailed (s : State) : s.beginErase.storeFailed = s.storeFailed := by
  unfold State.beginErase; (repeat' split) <;> simp
@[simp] theorem State.beginErase_journal (s : State) : s.beginErase.journal = s.journal := by
  unfold State.beginErase; (repeat' split) <;> simp
@[simp] theorem State.beginErase_ue (s : State) : s.beginErase.ue = s.ue := by
  unfold State.beginErase; (repeat' split) <;> simp
@[simp] theorem State.beginErase_counters (s : State) : s.beginErase.counters = s.counters := by
  unfold State.beginErase; (repeat' split) <;> simp

@[simp] theorem State.want_pending (s : State) : s.want.pending = s.pending := by
  simp [State.want]
@[simp] theorem State.want_powered (s : State) : s.want.powered = s.powered := by
  simp [State.want]
@[simp] theorem State.want_freeIndex (s : State) : s.want.freeIndex = s.freeIndex := by
  simp [State.want]
@[simp] theorem State.want_ports (s : State) : s.want.ports = s.ports := by
  simp [State.want]
@[simp] theorem State.want_channels (s : State) : s.want.channels = s.channels := by
  simp [State.want]
@[simp] theorem State.want_families (s : State) : s.want.families = s.families := by
  simp [State.want]
@[simp] theorem State.want_tb (s : State) : s.want.tb = s.tb := by
  simp [State.want]
@[simp] theorem State.want_rm (s : State) : s.want.rm = s.rm := by
  simp [State.want]
@[simp] theorem State.want_mc (s : State) : s.want.mc = s.mc := by
  simp [State.want]
@[simp] theorem State.want_rules (s : State) : s.want.rules = s.rules := by
  simp [State.want]
@[simp] theorem State.want_store (s : State) : s.want.store = s.store := by
  simp [State.want]
@[simp] theorem State.want_startup (s : State) : s.want.startup = s.startup := by
  simp [State.want]
@[simp] theorem State.want_storeFailed (s : State) : s.want.storeFailed = s.storeFailed := by
  simp [State.want]
@[simp] theorem State.want_journal (s : State) : s.want.journal = s.journal := by
  simp [State.want]
/-- The close of a step leaves the upload engine as it is while the store is not FAILED. -/
theorem State.want_ue (s : State) (h : s.storeFailed = false) : s.want.ue = s.ue := by
  simp [State.want, State.wantUpload_ue, h]

@[simp] theorem State.pump_pending (s : State) : s.pump.pending = s.pending := by
  simp [State.pump]
@[simp] theorem State.pump_powered (s : State) : s.pump.powered = s.powered := by
  simp [State.pump]
@[simp] theorem State.pump_freeIndex (s : State) : s.pump.freeIndex = s.freeIndex := by
  simp [State.pump]
@[simp] theorem State.pump_ports (s : State) : s.pump.ports = s.ports := by
  simp [State.pump]
@[simp] theorem State.pump_channels (s : State) : s.pump.channels = s.channels := by
  simp [State.pump]
@[simp] theorem State.pump_families (s : State) : s.pump.families = s.families := by
  simp [State.pump]
@[simp] theorem State.pump_tb (s : State) : s.pump.tb = s.tb := by
  simp [State.pump]
@[simp] theorem State.pump_rm (s : State) : s.pump.rm = s.rm := by
  simp [State.pump]
@[simp] theorem State.pump_mc (s : State) : s.pump.mc = s.mc := by
  simp [State.pump]
@[simp] theorem State.pump_rules (s : State) : s.pump.rules = s.rules := by
  simp [State.pump]
@[simp] theorem State.pump_store (s : State) : s.pump.store = s.store := by
  simp [State.pump]
@[simp] theorem State.pump_startup (s : State) : s.pump.startup = s.startup := by
  simp [State.pump]
@[simp] theorem State.pump_storeFailed (s : State) : s.pump.storeFailed = s.storeFailed := by
  simp [State.pump]
@[simp] theorem State.pump_journal (s : State) : s.pump.journal = s.journal := by
  simp [State.pump]
/-- The close of a step leaves the upload engine as it is while the store is not FAILED. -/
theorem State.pump_ue (s : State) (h : s.storeFailed = false) : s.pump.ue = s.ue := by
  simp [State.pump, State.want_ue, h]

@[simp] theorem State.dropLive_pending (id : Word) (s : State) : (s.dropLive id).pending = s.pending := by
  simp [State.dropLive]
@[simp] theorem State.dropLive_powered (id : Word) (s : State) : (s.dropLive id).powered = s.powered := by
  simp [State.dropLive]
@[simp] theorem State.dropLive_freeIndex (id : Word) (s : State) : (s.dropLive id).freeIndex = s.freeIndex := by
  simp [State.dropLive]
@[simp] theorem State.dropLive_ports (id : Word) (s : State) : (s.dropLive id).ports = s.ports := by
  simp [State.dropLive]
@[simp] theorem State.dropLive_channels (id : Word) (s : State) : (s.dropLive id).channels = s.channels := by
  simp [State.dropLive]
@[simp] theorem State.dropLive_families (id : Word) (s : State) : (s.dropLive id).families = s.families := by
  simp [State.dropLive]
@[simp] theorem State.dropLive_tb (id : Word) (s : State) : (s.dropLive id).tb = s.tb := by
  simp [State.dropLive]
@[simp] theorem State.dropLive_rm (id : Word) (s : State) : (s.dropLive id).rm = s.rm := by
  simp [State.dropLive]
@[simp] theorem State.dropLive_cl (id : Word) (s : State) : (s.dropLive id).cl = s.cl := by
  simp [State.dropLive]
@[simp] theorem State.dropLive_mc (id : Word) (s : State) : (s.dropLive id).mc = s.mc := by
  simp [State.dropLive]
@[simp] theorem State.dropLive_rules (id : Word) (s : State) : (s.dropLive id).rules = s.rules := by
  simp [State.dropLive]
@[simp] theorem State.dropLive_store (id : Word) (s : State) : (s.dropLive id).store = s.store := by
  simp [State.dropLive]
@[simp] theorem State.dropLive_port (id : Word) (s : State) : (s.dropLive id).port = s.port := by
  simp [State.dropLive]
@[simp] theorem State.dropLive_startup (id : Word) (s : State) : (s.dropLive id).startup = s.startup := by
  simp [State.dropLive]
@[simp] theorem State.dropLive_storeFailed (id : Word) (s : State) : (s.dropLive id).storeFailed = s.storeFailed := by
  simp [State.dropLive]
@[simp] theorem State.dropLive_journal (id : Word) (s : State) : (s.dropLive id).journal = s.journal := by
  simp [State.dropLive]
@[simp] theorem State.dropLive_ue (id : Word) (s : State) : (s.dropLive id).ue = s.ue := by
  simp [State.dropLive]

@[simp] theorem State.offerLive_pending (f : LiveFrame) (s : State) : (s.offerLive f).pending = s.pending := by
  unfold State.offerLive; (repeat' split) <;> simp
@[simp] theorem State.offerLive_powered (f : LiveFrame) (s : State) : (s.offerLive f).powered = s.powered := by
  unfold State.offerLive; (repeat' split) <;> simp
@[simp] theorem State.offerLive_freeIndex (f : LiveFrame) (s : State) : (s.offerLive f).freeIndex = s.freeIndex := by
  unfold State.offerLive; (repeat' split) <;> simp
@[simp] theorem State.offerLive_ports (f : LiveFrame) (s : State) : (s.offerLive f).ports = s.ports := by
  unfold State.offerLive; (repeat' split) <;> simp
@[simp] theorem State.offerLive_channels (f : LiveFrame) (s : State) : (s.offerLive f).channels = s.channels := by
  unfold State.offerLive; (repeat' split) <;> simp
@[simp] theorem State.offerLive_families (f : LiveFrame) (s : State) : (s.offerLive f).families = s.families := by
  unfold State.offerLive; (repeat' split) <;> simp
@[simp] theorem State.offerLive_tb (f : LiveFrame) (s : State) : (s.offerLive f).tb = s.tb := by
  unfold State.offerLive; (repeat' split) <;> simp
@[simp] theorem State.offerLive_rm (f : LiveFrame) (s : State) : (s.offerLive f).rm = s.rm := by
  unfold State.offerLive; (repeat' split) <;> simp
@[simp] theorem State.offerLive_cl (f : LiveFrame) (s : State) : (s.offerLive f).cl = s.cl := by
  unfold State.offerLive; (repeat' split) <;> simp
@[simp] theorem State.offerLive_mc (f : LiveFrame) (s : State) : (s.offerLive f).mc = s.mc := by
  unfold State.offerLive; (repeat' split) <;> simp
@[simp] theorem State.offerLive_rules (f : LiveFrame) (s : State) : (s.offerLive f).rules = s.rules := by
  unfold State.offerLive; (repeat' split) <;> simp
@[simp] theorem State.offerLive_store (f : LiveFrame) (s : State) : (s.offerLive f).store = s.store := by
  unfold State.offerLive; (repeat' split) <;> simp
@[simp] theorem State.offerLive_port (f : LiveFrame) (s : State) : (s.offerLive f).port = s.port := by
  unfold State.offerLive; (repeat' split) <;> simp
@[simp] theorem State.offerLive_startup (f : LiveFrame) (s : State) : (s.offerLive f).startup = s.startup := by
  unfold State.offerLive; (repeat' split) <;> simp
@[simp] theorem State.offerLive_storeFailed (f : LiveFrame) (s : State) : (s.offerLive f).storeFailed = s.storeFailed := by
  unfold State.offerLive; (repeat' split) <;> simp
@[simp] theorem State.offerLive_journal (f : LiveFrame) (s : State) : (s.offerLive f).journal = s.journal := by
  unfold State.offerLive; (repeat' split) <;> simp
@[simp] theorem State.offerLive_ue (f : LiveFrame) (s : State) : (s.offerLive f).ue = s.ue := by
  unfold State.offerLive; (repeat' split) <;> simp

@[simp] theorem State.routeCompletion_pending (s : State) : s.routeCompletion.pending = s.pending := by
  unfold State.routeCompletion; split <;> simp
@[simp] theorem State.routeCompletion_powered (s : State) : s.routeCompletion.powered = s.powered := by
  unfold State.routeCompletion; split <;> simp
@[simp] theorem State.routeCompletion_freeIndex (s : State) : s.routeCompletion.freeIndex = s.freeIndex := by
  unfold State.routeCompletion; split <;> simp
@[simp] theorem State.routeCompletion_ports (s : State) : s.routeCompletion.ports = s.ports := by
  unfold State.routeCompletion; split <;> simp
@[simp] theorem State.routeCompletion_channels (s : State) : s.routeCompletion.channels = s.channels := by
  unfold State.routeCompletion; split <;> simp
@[simp] theorem State.routeCompletion_families (s : State) : s.routeCompletion.families = s.families := by
  unfold State.routeCompletion; split <;> simp
@[simp] theorem State.routeCompletion_tb (s : State) : s.routeCompletion.tb = s.tb := by
  unfold State.routeCompletion; split <;> simp
@[simp] theorem State.routeCompletion_cl (s : State) : s.routeCompletion.cl = s.cl := by
  unfold State.routeCompletion; split <;> simp
@[simp] theorem State.routeCompletion_mc (s : State) : s.routeCompletion.mc = s.mc := by
  unfold State.routeCompletion; split <;> simp
@[simp] theorem State.routeCompletion_rules (s : State) : s.routeCompletion.rules = s.rules := by
  unfold State.routeCompletion; split <;> simp
@[simp] theorem State.routeCompletion_store (s : State) : s.routeCompletion.store = s.store := by
  unfold State.routeCompletion; split <;> simp
@[simp] theorem State.routeCompletion_port (s : State) : s.routeCompletion.port = s.port := by
  unfold State.routeCompletion; split <;> simp
@[simp] theorem State.routeCompletion_startup (s : State) : s.routeCompletion.startup = s.startup := by
  unfold State.routeCompletion; split <;> simp
@[simp] theorem State.routeCompletion_storeFailed (s : State) : s.routeCompletion.storeFailed = s.storeFailed := by
  unfold State.routeCompletion; split <;> simp
@[simp] theorem State.routeCompletion_journal (s : State) : s.routeCompletion.journal = s.journal := by
  unfold State.routeCompletion; split <;> simp
@[simp] theorem State.routeCompletion_ue (s : State) : s.routeCompletion.ue = s.ue := by
  unfold State.routeCompletion; split <;> simp

@[simp] theorem State.moveSegment_pending (g : Fin 256) (x y : MeterStatus) (s : State) : (s.moveSegment g x y).pending = s.pending := by
  unfold State.moveSegment; dsimp only; (repeat' split) <;> simp
@[simp] theorem State.moveSegment_powered (g : Fin 256) (x y : MeterStatus) (s : State) : (s.moveSegment g x y).powered = s.powered := by
  unfold State.moveSegment; dsimp only; (repeat' split) <;> simp
@[simp] theorem State.moveSegment_freeIndex (g : Fin 256) (x y : MeterStatus) (s : State) : (s.moveSegment g x y).freeIndex = s.freeIndex := by
  unfold State.moveSegment; dsimp only; (repeat' split) <;> simp
@[simp] theorem State.moveSegment_ports (g : Fin 256) (x y : MeterStatus) (s : State) : (s.moveSegment g x y).ports = s.ports := by
  unfold State.moveSegment; dsimp only; (repeat' split) <;> simp
@[simp] theorem State.moveSegment_channels (g : Fin 256) (x y : MeterStatus) (s : State) : (s.moveSegment g x y).channels = s.channels := by
  unfold State.moveSegment; dsimp only; (repeat' split) <;> simp
@[simp] theorem State.moveSegment_families (g : Fin 256) (x y : MeterStatus) (s : State) : (s.moveSegment g x y).families = s.families := by
  unfold State.moveSegment; dsimp only; (repeat' split) <;> simp
@[simp] theorem State.moveSegment_tb (g : Fin 256) (x y : MeterStatus) (s : State) : (s.moveSegment g x y).tb = s.tb := by
  unfold State.moveSegment; dsimp only; (repeat' split) <;> simp
@[simp] theorem State.moveSegment_cl (g : Fin 256) (x y : MeterStatus) (s : State) : (s.moveSegment g x y).cl = s.cl := by
  unfold State.moveSegment; dsimp only; (repeat' split) <;> simp
@[simp] theorem State.moveSegment_mc (g : Fin 256) (x y : MeterStatus) (s : State) : (s.moveSegment g x y).mc = s.mc := by
  unfold State.moveSegment; dsimp only; (repeat' split) <;> simp
@[simp] theorem State.moveSegment_rules (g : Fin 256) (x y : MeterStatus) (s : State) : (s.moveSegment g x y).rules = s.rules := by
  unfold State.moveSegment; dsimp only; (repeat' split) <;> simp
@[simp] theorem State.moveSegment_store (g : Fin 256) (x y : MeterStatus) (s : State) : (s.moveSegment g x y).store = s.store := by
  unfold State.moveSegment; dsimp only; (repeat' split) <;> simp
@[simp] theorem State.moveSegment_port (g : Fin 256) (x y : MeterStatus) (s : State) : (s.moveSegment g x y).port = s.port := by
  unfold State.moveSegment; dsimp only; (repeat' split) <;> simp
@[simp] theorem State.moveSegment_startup (g : Fin 256) (x y : MeterStatus) (s : State) : (s.moveSegment g x y).startup = s.startup := by
  unfold State.moveSegment; dsimp only; (repeat' split) <;> simp
@[simp] theorem State.moveSegment_storeFailed (g : Fin 256) (x y : MeterStatus) (s : State) : (s.moveSegment g x y).storeFailed = s.storeFailed := by
  unfold State.moveSegment; dsimp only; (repeat' split) <;> simp
@[simp] theorem State.moveSegment_journal (g : Fin 256) (x y : MeterStatus) (s : State) : (s.moveSegment g x y).journal = s.journal := by
  unfold State.moveSegment; dsimp only; (repeat' split) <;> simp
@[simp] theorem State.moveSegment_ue (g : Fin 256) (x y : MeterStatus) (s : State) : (s.moveSegment g x y).ue = s.ue := by
  unfold State.moveSegment; dsimp only; (repeat' split) <;> simp

@[simp] theorem State.writeStatus_pending (src : Source) (v : Nat) (st : MeterStatus) (s : State) : (s.writeStatus src v st).pending = s.pending := by
  unfold State.writeStatus; split <;> rfl
@[simp] theorem State.writeStatus_powered (src : Source) (v : Nat) (st : MeterStatus) (s : State) : (s.writeStatus src v st).powered = s.powered := by
  unfold State.writeStatus; split <;> rfl
@[simp] theorem State.writeStatus_freeIndex (src : Source) (v : Nat) (st : MeterStatus) (s : State) : (s.writeStatus src v st).freeIndex = s.freeIndex := by
  unfold State.writeStatus; split <;> rfl
@[simp] theorem State.writeStatus_ports (src : Source) (v : Nat) (st : MeterStatus) (s : State) : (s.writeStatus src v st).ports = s.ports := by
  unfold State.writeStatus; split <;> rfl
@[simp] theorem State.writeStatus_channels (src : Source) (v : Nat) (st : MeterStatus) (s : State) : (s.writeStatus src v st).channels = s.channels := by
  unfold State.writeStatus; split <;> rfl
@[simp] theorem State.writeStatus_families (src : Source) (v : Nat) (st : MeterStatus) (s : State) : (s.writeStatus src v st).families = s.families := by
  unfold State.writeStatus; split <;> rfl
@[simp] theorem State.writeStatus_tb (src : Source) (v : Nat) (st : MeterStatus) (s : State) : (s.writeStatus src v st).tb = s.tb := by
  unfold State.writeStatus; split <;> rfl
@[simp] theorem State.writeStatus_cl (src : Source) (v : Nat) (st : MeterStatus) (s : State) : (s.writeStatus src v st).cl = s.cl := by
  unfold State.writeStatus; split <;> rfl
@[simp] theorem State.writeStatus_mc (src : Source) (v : Nat) (st : MeterStatus) (s : State) : (s.writeStatus src v st).mc = s.mc := by
  unfold State.writeStatus; split <;> rfl
@[simp] theorem State.writeStatus_rules (src : Source) (v : Nat) (st : MeterStatus) (s : State) : (s.writeStatus src v st).rules = s.rules := by
  unfold State.writeStatus; split <;> rfl
@[simp] theorem State.writeStatus_store (src : Source) (v : Nat) (st : MeterStatus) (s : State) : (s.writeStatus src v st).store = s.store := by
  unfold State.writeStatus; split <;> rfl
@[simp] theorem State.writeStatus_port (src : Source) (v : Nat) (st : MeterStatus) (s : State) : (s.writeStatus src v st).port = s.port := by
  unfold State.writeStatus; split <;> rfl
@[simp] theorem State.writeStatus_startup (src : Source) (v : Nat) (st : MeterStatus) (s : State) : (s.writeStatus src v st).startup = s.startup := by
  unfold State.writeStatus; split <;> rfl
@[simp] theorem State.writeStatus_storeFailed (src : Source) (v : Nat) (st : MeterStatus) (s : State) : (s.writeStatus src v st).storeFailed = s.storeFailed := by
  unfold State.writeStatus; split <;> rfl
@[simp] theorem State.writeStatus_journal (src : Source) (v : Nat) (st : MeterStatus) (s : State) : (s.writeStatus src v st).journal = s.journal := by
  unfold State.writeStatus; split <;> rfl
@[simp] theorem State.writeStatus_ue (src : Source) (v : Nat) (st : MeterStatus) (s : State) : (s.writeStatus src v st).ue = s.ue := by
  unfold State.writeStatus; split <;> rfl
@[simp] theorem State.writeStatus_tl (src : Source) (v : Nat) (st : MeterStatus) (s : State) : (s.writeStatus src v st).tl = s.tl := by
  unfold State.writeStatus; split <;> rfl
@[simp] theorem State.writeStatus_counters (src : Source) (v : Nat) (st : MeterStatus) (s : State) : (s.writeStatus src v st).counters = s.counters := by
  unfold State.writeStatus; split <;> rfl

@[simp] theorem State.countDamaged_pending (b n : Nat) (e : Bool) (s : State) : (s.countDamaged b n e).pending = s.pending := by
  unfold State.countDamaged; (repeat' split) <;> simp
@[simp] theorem State.countDamaged_powered (b n : Nat) (e : Bool) (s : State) : (s.countDamaged b n e).powered = s.powered := by
  unfold State.countDamaged; (repeat' split) <;> simp
@[simp] theorem State.countDamaged_freeIndex (b n : Nat) (e : Bool) (s : State) : (s.countDamaged b n e).freeIndex = s.freeIndex := by
  unfold State.countDamaged; (repeat' split) <;> simp
@[simp] theorem State.countDamaged_ports (b n : Nat) (e : Bool) (s : State) : (s.countDamaged b n e).ports = s.ports := by
  unfold State.countDamaged; (repeat' split) <;> simp
@[simp] theorem State.countDamaged_channels (b n : Nat) (e : Bool) (s : State) : (s.countDamaged b n e).channels = s.channels := by
  unfold State.countDamaged; (repeat' split) <;> simp
@[simp] theorem State.countDamaged_families (b n : Nat) (e : Bool) (s : State) : (s.countDamaged b n e).families = s.families := by
  unfold State.countDamaged; (repeat' split) <;> simp
@[simp] theorem State.countDamaged_tb (b n : Nat) (e : Bool) (s : State) : (s.countDamaged b n e).tb = s.tb := by
  unfold State.countDamaged; (repeat' split) <;> simp
@[simp] theorem State.countDamaged_rm (b n : Nat) (e : Bool) (s : State) : (s.countDamaged b n e).rm = s.rm := by
  unfold State.countDamaged; (repeat' split) <;> simp
@[simp] theorem State.countDamaged_cl (b n : Nat) (e : Bool) (s : State) : (s.countDamaged b n e).cl = s.cl := by
  unfold State.countDamaged; (repeat' split) <;> simp
@[simp] theorem State.countDamaged_mc (b n : Nat) (e : Bool) (s : State) : (s.countDamaged b n e).mc = s.mc := by
  unfold State.countDamaged; (repeat' split) <;> simp
@[simp] theorem State.countDamaged_rules (b n : Nat) (e : Bool) (s : State) : (s.countDamaged b n e).rules = s.rules := by
  unfold State.countDamaged; (repeat' split) <;> simp
@[simp] theorem State.countDamaged_store (b n : Nat) (e : Bool) (s : State) : (s.countDamaged b n e).store = s.store := by
  unfold State.countDamaged; (repeat' split) <;> simp
@[simp] theorem State.countDamaged_port (b n : Nat) (e : Bool) (s : State) : (s.countDamaged b n e).port = s.port := by
  unfold State.countDamaged; (repeat' split) <;> simp
@[simp] theorem State.countDamaged_startup (b n : Nat) (e : Bool) (s : State) : (s.countDamaged b n e).startup = s.startup := by
  unfold State.countDamaged; (repeat' split) <;> simp
@[simp] theorem State.countDamaged_storeFailed (b n : Nat) (e : Bool) (s : State) : (s.countDamaged b n e).storeFailed = s.storeFailed := by
  unfold State.countDamaged; (repeat' split) <;> simp
@[simp] theorem State.countDamaged_journal (b n : Nat) (e : Bool) (s : State) : (s.countDamaged b n e).journal = s.journal := by
  unfold State.countDamaged; (repeat' split) <;> simp
@[simp] theorem State.countDamaged_ue (b n : Nat) (e : Bool) (s : State) : (s.countDamaged b n e).ue = s.ue := by
  unfold State.countDamaged; (repeat' split) <;> simp

@[simp] theorem State.setFramer_pending (c : Fin 8) (f : Framer) (s : State) : (s.setFramer c f).pending = s.pending := by
  rfl
@[simp] theorem State.setFramer_powered (c : Fin 8) (f : Framer) (s : State) : (s.setFramer c f).powered = s.powered := by
  rfl
@[simp] theorem State.setFramer_freeIndex (c : Fin 8) (f : Framer) (s : State) : (s.setFramer c f).freeIndex = s.freeIndex := by
  rfl
@[simp] theorem State.setFramer_ports (c : Fin 8) (f : Framer) (s : State) : (s.setFramer c f).ports = s.ports := by
  rfl
@[simp] theorem State.setFramer_families (c : Fin 8) (f : Framer) (s : State) : (s.setFramer c f).families = s.families := by
  rfl
@[simp] theorem State.setFramer_tb (c : Fin 8) (f : Framer) (s : State) : (s.setFramer c f).tb = s.tb := by
  rfl
@[simp] theorem State.setFramer_rm (c : Fin 8) (f : Framer) (s : State) : (s.setFramer c f).rm = s.rm := by
  rfl
@[simp] theorem State.setFramer_cl (c : Fin 8) (f : Framer) (s : State) : (s.setFramer c f).cl = s.cl := by
  rfl
@[simp] theorem State.setFramer_mc (c : Fin 8) (f : Framer) (s : State) : (s.setFramer c f).mc = s.mc := by
  rfl
@[simp] theorem State.setFramer_rules (c : Fin 8) (f : Framer) (s : State) : (s.setFramer c f).rules = s.rules := by
  rfl
@[simp] theorem State.setFramer_store (c : Fin 8) (f : Framer) (s : State) : (s.setFramer c f).store = s.store := by
  rfl
@[simp] theorem State.setFramer_port (c : Fin 8) (f : Framer) (s : State) : (s.setFramer c f).port = s.port := by
  rfl
@[simp] theorem State.setFramer_startup (c : Fin 8) (f : Framer) (s : State) : (s.setFramer c f).startup = s.startup := by
  rfl
@[simp] theorem State.setFramer_storeFailed (c : Fin 8) (f : Framer) (s : State) : (s.setFramer c f).storeFailed = s.storeFailed := by
  rfl
@[simp] theorem State.setFramer_journal (c : Fin 8) (f : Framer) (s : State) : (s.setFramer c f).journal = s.journal := by
  rfl
@[simp] theorem State.setFramer_ue (c : Fin 8) (f : Framer) (s : State) : (s.setFramer c f).ue = s.ue := by
  rfl
@[simp] theorem State.setFramer_tl (c : Fin 8) (f : Framer) (s : State) : (s.setFramer c f).tl = s.tl := by
  rfl
@[simp] theorem State.setFramer_counters (c : Fin 8) (f : Framer) (s : State) : (s.setFramer c f).counters = s.counters := by
  rfl

@[simp] theorem State.placeFramer_pending (c : Fin 8) (s : State) : (s.placeFramer c).pending = s.pending := by
  rfl
@[simp] theorem State.placeFramer_powered (c : Fin 8) (s : State) : (s.placeFramer c).powered = s.powered := by
  rfl
@[simp] theorem State.placeFramer_freeIndex (c : Fin 8) (s : State) : (s.placeFramer c).freeIndex = s.freeIndex := by
  rfl
@[simp] theorem State.placeFramer_ports (c : Fin 8) (s : State) : (s.placeFramer c).ports = s.ports := by
  rfl
@[simp] theorem State.placeFramer_families (c : Fin 8) (s : State) : (s.placeFramer c).families = s.families := by
  rfl
@[simp] theorem State.placeFramer_tb (c : Fin 8) (s : State) : (s.placeFramer c).tb = s.tb := by
  rfl
@[simp] theorem State.placeFramer_rm (c : Fin 8) (s : State) : (s.placeFramer c).rm = s.rm := by
  rfl
@[simp] theorem State.placeFramer_cl (c : Fin 8) (s : State) : (s.placeFramer c).cl = s.cl := by
  rfl
@[simp] theorem State.placeFramer_mc (c : Fin 8) (s : State) : (s.placeFramer c).mc = s.mc := by
  rfl
@[simp] theorem State.placeFramer_rules (c : Fin 8) (s : State) : (s.placeFramer c).rules = s.rules := by
  rfl
@[simp] theorem State.placeFramer_store (c : Fin 8) (s : State) : (s.placeFramer c).store = s.store := by
  rfl
@[simp] theorem State.placeFramer_port (c : Fin 8) (s : State) : (s.placeFramer c).port = s.port := by
  rfl
@[simp] theorem State.placeFramer_startup (c : Fin 8) (s : State) : (s.placeFramer c).startup = s.startup := by
  rfl
@[simp] theorem State.placeFramer_storeFailed (c : Fin 8) (s : State) : (s.placeFramer c).storeFailed = s.storeFailed := by
  rfl
@[simp] theorem State.placeFramer_journal (c : Fin 8) (s : State) : (s.placeFramer c).journal = s.journal := by
  rfl
@[simp] theorem State.placeFramer_ue (c : Fin 8) (s : State) : (s.placeFramer c).ue = s.ue := by
  rfl
@[simp] theorem State.placeFramer_tl (c : Fin 8) (s : State) : (s.placeFramer c).tl = s.tl := by
  rfl
@[simp] theorem State.placeFramer_counters (c : Fin 8) (s : State) : (s.placeFramer c).counters = s.counters := by
  rfl

@[simp] theorem State.noiseError_pending (c : Fin 8) (s : State) : (s.noiseError c).pending = s.pending := by
  unfold State.noiseError; dsimp only; (repeat' split) <;> simp
@[simp] theorem State.noiseError_powered (c : Fin 8) (s : State) : (s.noiseError c).powered = s.powered := by
  unfold State.noiseError; dsimp only; (repeat' split) <;> simp
@[simp] theorem State.noiseError_freeIndex (c : Fin 8) (s : State) : (s.noiseError c).freeIndex = s.freeIndex := by
  unfold State.noiseError; dsimp only; (repeat' split) <;> simp
@[simp] theorem State.noiseError_ports (c : Fin 8) (s : State) : (s.noiseError c).ports = s.ports := by
  unfold State.noiseError; dsimp only; (repeat' split) <;> simp
@[simp] theorem State.noiseError_families (c : Fin 8) (s : State) : (s.noiseError c).families = s.families := by
  unfold State.noiseError; dsimp only; (repeat' split) <;> simp
@[simp] theorem State.noiseError_tb (c : Fin 8) (s : State) : (s.noiseError c).tb = s.tb := by
  unfold State.noiseError; dsimp only; (repeat' split) <;> simp
@[simp] theorem State.noiseError_rm (c : Fin 8) (s : State) : (s.noiseError c).rm = s.rm := by
  unfold State.noiseError; dsimp only; (repeat' split) <;> simp
@[simp] theorem State.noiseError_cl (c : Fin 8) (s : State) : (s.noiseError c).cl = s.cl := by
  unfold State.noiseError; dsimp only; (repeat' split) <;> simp
@[simp] theorem State.noiseError_mc (c : Fin 8) (s : State) : (s.noiseError c).mc = s.mc := by
  unfold State.noiseError; dsimp only; (repeat' split) <;> simp
@[simp] theorem State.noiseError_rules (c : Fin 8) (s : State) : (s.noiseError c).rules = s.rules := by
  unfold State.noiseError; dsimp only; (repeat' split) <;> simp
@[simp] theorem State.noiseError_store (c : Fin 8) (s : State) : (s.noiseError c).store = s.store := by
  unfold State.noiseError; dsimp only; (repeat' split) <;> simp
@[simp] theorem State.noiseError_port (c : Fin 8) (s : State) : (s.noiseError c).port = s.port := by
  unfold State.noiseError; dsimp only; (repeat' split) <;> simp
@[simp] theorem State.noiseError_startup (c : Fin 8) (s : State) : (s.noiseError c).startup = s.startup := by
  unfold State.noiseError; dsimp only; (repeat' split) <;> simp
@[simp] theorem State.noiseError_storeFailed (c : Fin 8) (s : State) : (s.noiseError c).storeFailed = s.storeFailed := by
  unfold State.noiseError; dsimp only; (repeat' split) <;> simp
@[simp] theorem State.noiseError_journal (c : Fin 8) (s : State) : (s.noiseError c).journal = s.journal := by
  unfold State.noiseError; dsimp only; (repeat' split) <;> simp
@[simp] theorem State.noiseError_ue (c : Fin 8) (s : State) : (s.noiseError c).ue = s.ue := by
  unfold State.noiseError; dsimp only; (repeat' split) <;> simp

@[simp] theorem State.putSlot_pending (c : Fin 8) (r : FrameRecord) (s : State) : (s.putSlot c r).pending = s.pending := by
  unfold State.putSlot; dsimp only; (repeat' split) <;> simp
@[simp] theorem State.putSlot_powered (c : Fin 8) (r : FrameRecord) (s : State) : (s.putSlot c r).powered = s.powered := by
  unfold State.putSlot; dsimp only; (repeat' split) <;> simp
@[simp] theorem State.putSlot_freeIndex (c : Fin 8) (r : FrameRecord) (s : State) : (s.putSlot c r).freeIndex = s.freeIndex := by
  unfold State.putSlot; dsimp only; (repeat' split) <;> simp
@[simp] theorem State.putSlot_ports (c : Fin 8) (r : FrameRecord) (s : State) : (s.putSlot c r).ports = s.ports := by
  unfold State.putSlot; dsimp only; (repeat' split) <;> simp
@[simp] theorem State.putSlot_families (c : Fin 8) (r : FrameRecord) (s : State) : (s.putSlot c r).families = s.families := by
  unfold State.putSlot; dsimp only; (repeat' split) <;> simp
@[simp] theorem State.putSlot_tb (c : Fin 8) (r : FrameRecord) (s : State) : (s.putSlot c r).tb = s.tb := by
  unfold State.putSlot; dsimp only; (repeat' split) <;> simp
@[simp] theorem State.putSlot_rm (c : Fin 8) (r : FrameRecord) (s : State) : (s.putSlot c r).rm = s.rm := by
  unfold State.putSlot; dsimp only; (repeat' split) <;> simp
@[simp] theorem State.putSlot_cl (c : Fin 8) (r : FrameRecord) (s : State) : (s.putSlot c r).cl = s.cl := by
  unfold State.putSlot; dsimp only; (repeat' split) <;> simp
@[simp] theorem State.putSlot_mc (c : Fin 8) (r : FrameRecord) (s : State) : (s.putSlot c r).mc = s.mc := by
  unfold State.putSlot; dsimp only; (repeat' split) <;> simp
@[simp] theorem State.putSlot_rules (c : Fin 8) (r : FrameRecord) (s : State) : (s.putSlot c r).rules = s.rules := by
  unfold State.putSlot; dsimp only; (repeat' split) <;> simp
@[simp] theorem State.putSlot_store (c : Fin 8) (r : FrameRecord) (s : State) : (s.putSlot c r).store = s.store := by
  unfold State.putSlot; dsimp only; (repeat' split) <;> simp
@[simp] theorem State.putSlot_port (c : Fin 8) (r : FrameRecord) (s : State) : (s.putSlot c r).port = s.port := by
  unfold State.putSlot; dsimp only; (repeat' split) <;> simp
@[simp] theorem State.putSlot_startup (c : Fin 8) (r : FrameRecord) (s : State) : (s.putSlot c r).startup = s.startup := by
  unfold State.putSlot; dsimp only; (repeat' split) <;> simp
@[simp] theorem State.putSlot_storeFailed (c : Fin 8) (r : FrameRecord) (s : State) : (s.putSlot c r).storeFailed = s.storeFailed := by
  unfold State.putSlot; dsimp only; (repeat' split) <;> simp
@[simp] theorem State.putSlot_journal (c : Fin 8) (r : FrameRecord) (s : State) : (s.putSlot c r).journal = s.journal := by
  unfold State.putSlot; dsimp only; (repeat' split) <;> simp
@[simp] theorem State.putSlot_ue (c : Fin 8) (r : FrameRecord) (s : State) : (s.putSlot c r).ue = s.ue := by
  unfold State.putSlot; dsimp only; (repeat' split) <;> simp

@[simp] theorem State.completeBody_pending (c f : Fin 8) (m v : Nat) (bs : List Bool) (s : State) : (s.completeBody c f m v bs).pending = s.pending := by
  unfold State.completeBody; dsimp only; (repeat' split) <;> simp
@[simp] theorem State.completeBody_powered (c f : Fin 8) (m v : Nat) (bs : List Bool) (s : State) : (s.completeBody c f m v bs).powered = s.powered := by
  unfold State.completeBody; dsimp only; (repeat' split) <;> simp
@[simp] theorem State.completeBody_freeIndex (c f : Fin 8) (m v : Nat) (bs : List Bool) (s : State) : (s.completeBody c f m v bs).freeIndex = s.freeIndex := by
  unfold State.completeBody; dsimp only; (repeat' split) <;> simp
@[simp] theorem State.completeBody_ports (c f : Fin 8) (m v : Nat) (bs : List Bool) (s : State) : (s.completeBody c f m v bs).ports = s.ports := by
  unfold State.completeBody; dsimp only; (repeat' split) <;> simp
@[simp] theorem State.completeBody_families (c f : Fin 8) (m v : Nat) (bs : List Bool) (s : State) : (s.completeBody c f m v bs).families = s.families := by
  unfold State.completeBody; dsimp only; (repeat' split) <;> simp
@[simp] theorem State.completeBody_tb (c f : Fin 8) (m v : Nat) (bs : List Bool) (s : State) : (s.completeBody c f m v bs).tb = s.tb := by
  unfold State.completeBody; dsimp only; (repeat' split) <;> simp
@[simp] theorem State.completeBody_rm (c f : Fin 8) (m v : Nat) (bs : List Bool) (s : State) : (s.completeBody c f m v bs).rm = s.rm := by
  unfold State.completeBody; dsimp only; (repeat' split) <;> simp
@[simp] theorem State.completeBody_cl (c f : Fin 8) (m v : Nat) (bs : List Bool) (s : State) : (s.completeBody c f m v bs).cl = s.cl := by
  unfold State.completeBody; dsimp only; (repeat' split) <;> simp
@[simp] theorem State.completeBody_mc (c f : Fin 8) (m v : Nat) (bs : List Bool) (s : State) : (s.completeBody c f m v bs).mc = s.mc := by
  unfold State.completeBody; dsimp only; (repeat' split) <;> simp
@[simp] theorem State.completeBody_rules (c f : Fin 8) (m v : Nat) (bs : List Bool) (s : State) : (s.completeBody c f m v bs).rules = s.rules := by
  unfold State.completeBody; dsimp only; (repeat' split) <;> simp
@[simp] theorem State.completeBody_store (c f : Fin 8) (m v : Nat) (bs : List Bool) (s : State) : (s.completeBody c f m v bs).store = s.store := by
  unfold State.completeBody; dsimp only; (repeat' split) <;> simp
@[simp] theorem State.completeBody_port (c f : Fin 8) (m v : Nat) (bs : List Bool) (s : State) : (s.completeBody c f m v bs).port = s.port := by
  unfold State.completeBody; dsimp only; (repeat' split) <;> simp
@[simp] theorem State.completeBody_startup (c f : Fin 8) (m v : Nat) (bs : List Bool) (s : State) : (s.completeBody c f m v bs).startup = s.startup := by
  unfold State.completeBody; dsimp only; (repeat' split) <;> simp
@[simp] theorem State.completeBody_storeFailed (c f : Fin 8) (m v : Nat) (bs : List Bool) (s : State) : (s.completeBody c f m v bs).storeFailed = s.storeFailed := by
  unfold State.completeBody; dsimp only; (repeat' split) <;> simp
@[simp] theorem State.completeBody_journal (c f : Fin 8) (m v : Nat) (bs : List Bool) (s : State) : (s.completeBody c f m v bs).journal = s.journal := by
  unfold State.completeBody; dsimp only; (repeat' split) <;> simp
@[simp] theorem State.completeBody_ue (c f : Fin 8) (m v : Nat) (bs : List Bool) (s : State) : (s.completeBody c f m v bs).ue = s.ue := by
  unfold State.completeBody; dsimp only; (repeat' split) <;> simp

@[simp] theorem State.huntBit_pending (c : Fin 8) (w : Word) (n : Nat) (b : Bool) (s : State) : (s.huntBit c w n b).pending = s.pending := by
  unfold State.huntBit; dsimp only; (repeat' split) <;> simp
@[simp] theorem State.huntBit_powered (c : Fin 8) (w : Word) (n : Nat) (b : Bool) (s : State) : (s.huntBit c w n b).powered = s.powered := by
  unfold State.huntBit; dsimp only; (repeat' split) <;> simp
@[simp] theorem State.huntBit_freeIndex (c : Fin 8) (w : Word) (n : Nat) (b : Bool) (s : State) : (s.huntBit c w n b).freeIndex = s.freeIndex := by
  unfold State.huntBit; dsimp only; (repeat' split) <;> simp
@[simp] theorem State.huntBit_ports (c : Fin 8) (w : Word) (n : Nat) (b : Bool) (s : State) : (s.huntBit c w n b).ports = s.ports := by
  unfold State.huntBit; dsimp only; (repeat' split) <;> simp
@[simp] theorem State.huntBit_families (c : Fin 8) (w : Word) (n : Nat) (b : Bool) (s : State) : (s.huntBit c w n b).families = s.families := by
  unfold State.huntBit; dsimp only; (repeat' split) <;> simp
@[simp] theorem State.huntBit_tb (c : Fin 8) (w : Word) (n : Nat) (b : Bool) (s : State) : (s.huntBit c w n b).tb = s.tb := by
  unfold State.huntBit; dsimp only; (repeat' split) <;> simp
@[simp] theorem State.huntBit_rm (c : Fin 8) (w : Word) (n : Nat) (b : Bool) (s : State) : (s.huntBit c w n b).rm = s.rm := by
  unfold State.huntBit; dsimp only; (repeat' split) <;> simp
@[simp] theorem State.huntBit_cl (c : Fin 8) (w : Word) (n : Nat) (b : Bool) (s : State) : (s.huntBit c w n b).cl = s.cl := by
  unfold State.huntBit; dsimp only; (repeat' split) <;> simp
@[simp] theorem State.huntBit_mc (c : Fin 8) (w : Word) (n : Nat) (b : Bool) (s : State) : (s.huntBit c w n b).mc = s.mc := by
  unfold State.huntBit; dsimp only; (repeat' split) <;> simp
@[simp] theorem State.huntBit_rules (c : Fin 8) (w : Word) (n : Nat) (b : Bool) (s : State) : (s.huntBit c w n b).rules = s.rules := by
  unfold State.huntBit; dsimp only; (repeat' split) <;> simp
@[simp] theorem State.huntBit_store (c : Fin 8) (w : Word) (n : Nat) (b : Bool) (s : State) : (s.huntBit c w n b).store = s.store := by
  unfold State.huntBit; dsimp only; (repeat' split) <;> simp
@[simp] theorem State.huntBit_port (c : Fin 8) (w : Word) (n : Nat) (b : Bool) (s : State) : (s.huntBit c w n b).port = s.port := by
  unfold State.huntBit; dsimp only; (repeat' split) <;> simp
@[simp] theorem State.huntBit_startup (c : Fin 8) (w : Word) (n : Nat) (b : Bool) (s : State) : (s.huntBit c w n b).startup = s.startup := by
  unfold State.huntBit; dsimp only; (repeat' split) <;> simp
@[simp] theorem State.huntBit_storeFailed (c : Fin 8) (w : Word) (n : Nat) (b : Bool) (s : State) : (s.huntBit c w n b).storeFailed = s.storeFailed := by
  unfold State.huntBit; dsimp only; (repeat' split) <;> simp
@[simp] theorem State.huntBit_journal (c : Fin 8) (w : Word) (n : Nat) (b : Bool) (s : State) : (s.huntBit c w n b).journal = s.journal := by
  unfold State.huntBit; dsimp only; (repeat' split) <;> simp
@[simp] theorem State.huntBit_ue (c : Fin 8) (w : Word) (n : Nat) (b : Bool) (s : State) : (s.huntBit c w n b).ue = s.ue := by
  unfold State.huntBit; dsimp only; (repeat' split) <;> simp
@[simp] theorem State.huntBit_tl (c : Fin 8) (w : Word) (n : Nat) (b : Bool) (s : State) : (s.huntBit c w n b).tl = s.tl := by
  unfold State.huntBit; dsimp only; (repeat' split) <;> simp
@[simp] theorem State.huntBit_counters (c : Fin 8) (w : Word) (n : Nat) (b : Bool) (s : State) : (s.huntBit c w n b).counters = s.counters := by
  unfold State.huntBit; dsimp only; (repeat' split) <;> simp

@[simp] theorem State.bodyBit_pending (c f : Fin 8) (m : Nat) (bs : List Bool) (v : Nat) (b : Bool) (s : State) : (s.bodyBit c f m bs v b).pending = s.pending := by
  unfold State.bodyBit; (repeat' split) <;> simp
@[simp] theorem State.bodyBit_powered (c f : Fin 8) (m : Nat) (bs : List Bool) (v : Nat) (b : Bool) (s : State) : (s.bodyBit c f m bs v b).powered = s.powered := by
  unfold State.bodyBit; (repeat' split) <;> simp
@[simp] theorem State.bodyBit_freeIndex (c f : Fin 8) (m : Nat) (bs : List Bool) (v : Nat) (b : Bool) (s : State) : (s.bodyBit c f m bs v b).freeIndex = s.freeIndex := by
  unfold State.bodyBit; (repeat' split) <;> simp
@[simp] theorem State.bodyBit_ports (c f : Fin 8) (m : Nat) (bs : List Bool) (v : Nat) (b : Bool) (s : State) : (s.bodyBit c f m bs v b).ports = s.ports := by
  unfold State.bodyBit; (repeat' split) <;> simp
@[simp] theorem State.bodyBit_families (c f : Fin 8) (m : Nat) (bs : List Bool) (v : Nat) (b : Bool) (s : State) : (s.bodyBit c f m bs v b).families = s.families := by
  unfold State.bodyBit; (repeat' split) <;> simp
@[simp] theorem State.bodyBit_tb (c f : Fin 8) (m : Nat) (bs : List Bool) (v : Nat) (b : Bool) (s : State) : (s.bodyBit c f m bs v b).tb = s.tb := by
  unfold State.bodyBit; (repeat' split) <;> simp
@[simp] theorem State.bodyBit_rm (c f : Fin 8) (m : Nat) (bs : List Bool) (v : Nat) (b : Bool) (s : State) : (s.bodyBit c f m bs v b).rm = s.rm := by
  unfold State.bodyBit; (repeat' split) <;> simp
@[simp] theorem State.bodyBit_cl (c f : Fin 8) (m : Nat) (bs : List Bool) (v : Nat) (b : Bool) (s : State) : (s.bodyBit c f m bs v b).cl = s.cl := by
  unfold State.bodyBit; (repeat' split) <;> simp
@[simp] theorem State.bodyBit_mc (c f : Fin 8) (m : Nat) (bs : List Bool) (v : Nat) (b : Bool) (s : State) : (s.bodyBit c f m bs v b).mc = s.mc := by
  unfold State.bodyBit; (repeat' split) <;> simp
@[simp] theorem State.bodyBit_rules (c f : Fin 8) (m : Nat) (bs : List Bool) (v : Nat) (b : Bool) (s : State) : (s.bodyBit c f m bs v b).rules = s.rules := by
  unfold State.bodyBit; (repeat' split) <;> simp
@[simp] theorem State.bodyBit_store (c f : Fin 8) (m : Nat) (bs : List Bool) (v : Nat) (b : Bool) (s : State) : (s.bodyBit c f m bs v b).store = s.store := by
  unfold State.bodyBit; (repeat' split) <;> simp
@[simp] theorem State.bodyBit_port (c f : Fin 8) (m : Nat) (bs : List Bool) (v : Nat) (b : Bool) (s : State) : (s.bodyBit c f m bs v b).port = s.port := by
  unfold State.bodyBit; (repeat' split) <;> simp
@[simp] theorem State.bodyBit_startup (c f : Fin 8) (m : Nat) (bs : List Bool) (v : Nat) (b : Bool) (s : State) : (s.bodyBit c f m bs v b).startup = s.startup := by
  unfold State.bodyBit; (repeat' split) <;> simp
@[simp] theorem State.bodyBit_storeFailed (c f : Fin 8) (m : Nat) (bs : List Bool) (v : Nat) (b : Bool) (s : State) : (s.bodyBit c f m bs v b).storeFailed = s.storeFailed := by
  unfold State.bodyBit; (repeat' split) <;> simp
@[simp] theorem State.bodyBit_journal (c f : Fin 8) (m : Nat) (bs : List Bool) (v : Nat) (b : Bool) (s : State) : (s.bodyBit c f m bs v b).journal = s.journal := by
  unfold State.bodyBit; (repeat' split) <;> simp
@[simp] theorem State.bodyBit_ue (c f : Fin 8) (m : Nat) (bs : List Bool) (v : Nat) (b : Bool) (s : State) : (s.bodyBit c f m bs v b).ue = s.ue := by
  unfold State.bodyBit; (repeat' split) <;> simp

@[simp] theorem State.frameItem_pending (c : Fin 8) (it : Item) (s : State) : (s.frameItem c it).pending = s.pending := by
  unfold State.frameItem; (repeat' split) <;> simp
@[simp] theorem State.frameItem_powered (c : Fin 8) (it : Item) (s : State) : (s.frameItem c it).powered = s.powered := by
  unfold State.frameItem; (repeat' split) <;> simp
@[simp] theorem State.frameItem_freeIndex (c : Fin 8) (it : Item) (s : State) : (s.frameItem c it).freeIndex = s.freeIndex := by
  unfold State.frameItem; (repeat' split) <;> simp
@[simp] theorem State.frameItem_ports (c : Fin 8) (it : Item) (s : State) : (s.frameItem c it).ports = s.ports := by
  unfold State.frameItem; (repeat' split) <;> simp
@[simp] theorem State.frameItem_families (c : Fin 8) (it : Item) (s : State) : (s.frameItem c it).families = s.families := by
  unfold State.frameItem; (repeat' split) <;> simp
@[simp] theorem State.frameItem_tb (c : Fin 8) (it : Item) (s : State) : (s.frameItem c it).tb = s.tb := by
  unfold State.frameItem; (repeat' split) <;> simp
@[simp] theorem State.frameItem_rm (c : Fin 8) (it : Item) (s : State) : (s.frameItem c it).rm = s.rm := by
  unfold State.frameItem; (repeat' split) <;> simp
@[simp] theorem State.frameItem_cl (c : Fin 8) (it : Item) (s : State) : (s.frameItem c it).cl = s.cl := by
  unfold State.frameItem; (repeat' split) <;> simp
@[simp] theorem State.frameItem_mc (c : Fin 8) (it : Item) (s : State) : (s.frameItem c it).mc = s.mc := by
  unfold State.frameItem; (repeat' split) <;> simp
@[simp] theorem State.frameItem_rules (c : Fin 8) (it : Item) (s : State) : (s.frameItem c it).rules = s.rules := by
  unfold State.frameItem; (repeat' split) <;> simp
@[simp] theorem State.frameItem_store (c : Fin 8) (it : Item) (s : State) : (s.frameItem c it).store = s.store := by
  unfold State.frameItem; (repeat' split) <;> simp
@[simp] theorem State.frameItem_port (c : Fin 8) (it : Item) (s : State) : (s.frameItem c it).port = s.port := by
  unfold State.frameItem; (repeat' split) <;> simp
@[simp] theorem State.frameItem_startup (c : Fin 8) (it : Item) (s : State) : (s.frameItem c it).startup = s.startup := by
  unfold State.frameItem; (repeat' split) <;> simp
@[simp] theorem State.frameItem_storeFailed (c : Fin 8) (it : Item) (s : State) : (s.frameItem c it).storeFailed = s.storeFailed := by
  unfold State.frameItem; (repeat' split) <;> simp
@[simp] theorem State.frameItem_journal (c : Fin 8) (it : Item) (s : State) : (s.frameItem c it).journal = s.journal := by
  unfold State.frameItem; (repeat' split) <;> simp
@[simp] theorem State.frameItem_ue (c : Fin 8) (it : Item) (s : State) : (s.frameItem c it).ue = s.ue := by
  unfold State.frameItem; (repeat' split) <;> simp

end Sys2Proof.Machine
end

