-- ==== Sys2Proof/Laws/Command.lean ====
section
/-! SUPPORT. What the common course of a command can do (R176, R177, R135), said once: `runCommand` answers by itself,
leaves the state, or hands the taken frame to the owning rule. -/

namespace Sys2Proof.Machine

variable {code tag : Byte} {args : List Byte} {heldToo lengthOk : Bool} {act : State → State} {s : State}

@[simp] theorem live_powered (h : s.powered = true) (t : State) : live s t = .next t := by simp [live, h]

theorem live_unpowered (h : s.powered = false) (t : State) : live s t = .next s := by simp [live, h]

/-- A frame that cannot be taken changes nothing. -/
theorem runCommand_not_taken (h : s.canTake ⟨tag, code :: args⟩ = false) :
    runCommand code heldToo lengthOk tag args act s = s := by
  simp [runCommand, h]

/-- Taken while a long operation holds the unit: BUSY. -/
theorem runCommand_busy (h : s.canTake ⟨tag, code :: args⟩ = true) (hl : s.tl.longOp ≠ none) :
    runCommand code false lengthOk tag args act s = s.replied tag code .busy [] := by
  cases hop : s.tl.longOp with
  | none => exact absurd hop hl
  | some l => simp [runCommand, h, State.takeFrame, State.answer, State.replied, Trunk.replyTo, hop]

/-- Taken with a body of the wrong length: BAD_ARG. -/
theorem runCommand_badArg (h : s.canTake ⟨tag, code :: args⟩ = true) (hf : s.tl.longOp = none ∨ heldToo = true) :
    runCommand code heldToo false tag args act s = s.replied tag code .badArg [] := by
  rcases hf with hf | hf <;> simp [runCommand, h, State.takeFrame, State.answer, State.replied, Trunk.replyTo, hf]

/-- Taken and well formed: the owning rule acts on the state without the frame. -/
theorem runCommand_acts (h : s.canTake ⟨tag, code :: args⟩ = true) (hf : s.tl.longOp = none ∨ heldToo = true) :
    runCommand code heldToo true tag args act s = act s.takeFrame := by
  rcases hf with hf | hf <;> simp [runCommand, h, State.takeFrame, hf]

/-- Everything the common course can do. -/
theorem runCommand_cases (P : State → Prop) (h0 : P s) (hr : ∀ rc : ReplyCode, P (s.replied tag code rc []))
    (ha : P (act s.takeFrame)) : P (runCommand code heldToo lengthOk tag args act s) := by
  have e : ∀ rc : ReplyCode, s.takeFrame.answer tag code rc [] = s.replied tag code rc [] := fun _ => rfl
  unfold runCommand
  simp only [e]
  split
  · split
    · exact hr _
    · split
      · exact hr _
      · exact ha
  · exact h0

theorem State.unlessScanning_scanning (h : s.journal.state = .scanning) :
    State.unlessScanning tag code act s = s.answer tag code .badState [] := by simp [State.unlessScanning, h]

theorem State.unlessScanning_acts (h : s.journal.state ≠ .scanning) :
    State.unlessScanning tag code act s = act s := by simp [State.unlessScanning, h]


/-- An accepted command runs its owning rule. -/
theorem State.accepts.runs (h : s.accepts tag code args) (hl : lengthOk = true) :
    live s (runCommand code heldToo lengthOk tag args act s) = .next (act s.takeFrame) := by
  obtain ⟨⟨hp, hc⟩, ho⟩ := h
  subst hl
  rw [runCommand_acts hc (.inl ho), live_powered hp]

/-- An accepted setting command runs its owning rule. -/
theorem State.acceptsSetting.runs (h : s.acceptsSetting tag code args) (hl : lengthOk = true) :
    live s (runCommand code heldToo lengthOk tag args (State.unlessScanning tag code act) s)
      = .next (act s.takeFrame) := by
  rw [h.1.runs hl, State.unlessScanning_acts (by simpa using h.2)]

/-- A command that executes beside a long operation runs its owning rule. -/
theorem State.takes.runs (h : s.takes tag code args) (hl : lengthOk = true) :
    live s (runCommand code true lengthOk tag args act s) = .next (act s.takeFrame) := by
  obtain ⟨hp, hc⟩ := h
  subst hl
  rw [runCommand_acts hc (.inr rfl), live_powered hp]

/-- The answer to the taken frame, in one record. -/
theorem State.takeFrame_answer (rc : ReplyCode) (r : List Byte) :
    s.takeFrame.answer tag code rc r = s.replied tag code rc r := rfl

end Sys2Proof.Machine
end

