-- ==== Sys2Proof/Laws/Memory.lean ====
section
/-! SUPPORT. The bulk store's bytes: every operation keeps the canonical form, and reads see what writes wrote. -/

namespace Sys2Proof.Machine

/-! ### The canonical form -/

theorem Memory.cells_ge (bs : List Byte) (a : Nat) (c : Host.Cell) (h : c ∈ Memory.cells a bs) :
    a ≤ c.1 ∧ c.1 < a + bs.length ∧ c.2 ≠ 0xFF#8 := by
  induction bs generalizing a with
  | nil => simp [Memory.cells] at h
  | cons b bs ih =>
    simp only [Memory.cells] at h
    split at h
    · have := ih (a + 1) h
      simp only [List.length_cons]
      exact ⟨by omega, by omega, this.2.2⟩
    · rcases List.mem_cons.1 h with rfl | h
      · exact ⟨Nat.le_refl _, by simp, by simpa⟩
      · have := ih (a + 1) h
        simp only [List.length_cons]
        exact ⟨by omega, by omega, this.2.2⟩

theorem Memory.cells_sorted (bs : List Byte) (a : Nat) :
    (Memory.cells a bs).Pairwise (fun x y => x.1 < y.1) := by
  induction bs generalizing a with
  | nil => simp [Memory.cells]
  | cons b bs ih =>
    simp only [Memory.cells]
    split
    · exact ih (a + 1)
    · refine List.pairwise_cons.2 ⟨fun c hc => ?_, ih (a + 1)⟩
      have := Memory.cells_ge bs (a + 1) c hc
      omega

theorem Memory.wf_nil : Memory.wf [] := by simp [Memory.wf]

/-- A replacement keeps the canonical form. -/
theorem Memory.wf_put (m : Memory) (a : Nat) (bs : List Byte) (h : m.wf) : (m.put a bs).wf := by
  obtain ⟨hs, hv⟩ := h
  refine ⟨?_, fun c hc => ?_⟩
  · unfold Memory.put
    rw [List.pairwise_append, List.pairwise_append]
    refine ⟨⟨hs.filter _, Memory.cells_sorted bs a, fun x hx y hy => ?_⟩, hs.filter _, fun x hx y hy => ?_⟩
    · have hx := (List.mem_filter.1 hx).2
      have := (Memory.cells_ge bs a y hy).1
      simp at hx
      omega
    · have hy := (List.mem_filter.1 hy).2
      simp at hy
      rcases List.mem_append.1 hx with hx | hx
      · have hx := (List.mem_filter.1 hx).2
        simp at hx
        omega
      · have := (Memory.cells_ge bs a x hx).2.1
        omega
  · simp only [Memory.put, List.mem_append] at hc
    rcases hc with (hc | hc) | hc
    · exact hv c (List.mem_filter.1 hc).1
    · exact (Memory.cells_ge bs a c hc).2.2
    · exact hv c (List.mem_filter.1 hc).1

/-- An erasure keeps the canonical form. -/
theorem Memory.wf_clear (m : Memory) (a n : Nat) (h : m.wf) : (m.clear a n).wf := by
  obtain ⟨hs, hv⟩ := h
  refine ⟨?_, fun c hc => ?_⟩
  · unfold Memory.clear
    rw [List.pairwise_append]
    refine ⟨hs.filter _, hs.filter _, fun x hx y hy => ?_⟩
    have hx := (List.mem_filter.1 hx).2
    have hy := (List.mem_filter.1 hy).2
    simp at hx hy
    omega
  · simp only [Memory.clear, List.mem_append] at hc
    rcases hc with hc | hc <;> exact hv c (List.mem_filter.1 hc).1

/-- A store operation that ends keeps the canonical form. -/
theorem StoreOp.wf_apply (op : StoreOp) (m : Memory) (h : m.wf) : (op.apply m).wf := by
  cases op with
  | read => exact h
  | program a bs => exact Memory.wf_put _ _ _ h
  | erase sec => exact Memory.wf_clear _ _ _ h

/-! ### Reads -/

/-- A byte found at the address, or none. -/
theorem Memory.find_filter (m : Memory) (p : Host.Cell → Bool) (x : Nat)
    (h : ∀ c : Host.Cell, c.1 = x → p c = true) :
    (m.filter p).find? (fun c => c.1 == x) = m.find? (fun c => c.1 == x) := by
  induction m with
  | nil => rfl
  | cons c m ih =>
    by_cases hc : c.1 = x
    · simp [h c hc, hc]
    · by_cases hp : p c = true
      · simp [hp, hc, ih]
      · simp [hp, hc, ih]

theorem Memory.find_filter_none (m : Memory) (p : Host.Cell → Bool) (x : Nat)
    (h : ∀ c : Host.Cell, c.1 = x → p c = false) :
    (m.filter p).find? (fun c => c.1 == x) = none := by
  rw [List.find?_eq_none]
  intro c hc
  simp only [beq_iff_eq]
  intro hx
  have := (List.mem_filter.1 hc).2
  rw [h c hx] at this
  exact absurd this (by simp)

theorem Memory.find_cells_none (bs : List Byte) (a x : Nat) (h : x < a ∨ a + bs.length ≤ x) :
    (Memory.cells a bs).find? (fun c => c.1 == x) = none := by
  rw [List.find?_eq_none]
  intro c hc
  have := Memory.cells_ge bs a c hc
  simp only [beq_iff_eq]
  omega

theorem Memory.read_cells (bs : List Byte) (a i : Nat) (h : i < bs.length) :
    Memory.read (Memory.cells a bs) (a + i) = bs[i] := by
  induction bs generalizing a i with
  | nil => simp at h
  | cons b bs ih =>
    simp only [Memory.cells]
    cases i with
    | zero =>
      split
      · rename_i hb
        simp only [Memory.read, Memory.find_cells_none bs (a + 1) (a + 0) (by omega)]
        simp [hb]
      · simp [Memory.read]
    | succ i =>
      have hi : i < bs.length := by simpa using h
      have e := ih (a + 1) i hi
      rw [show a + 1 + i = a + (i + 1) by omega] at e
      split
      · simpa using e
      · simp only [Memory.read] at e ⊢
        rw [List.find?_cons_of_neg (by simp)]
        simpa using e

/-- Reading outside a replaced region sees what was there before. -/
theorem Memory.read_put_outside (m : Memory) (a x : Nat) (bs : List Byte) (h : x < a ∨ a + bs.length ≤ x) :
    (m.put a bs).read x = m.read x := by
  unfold Memory.read Memory.put
  rw [List.find?_append, List.find?_append, Memory.find_cells_none bs a x h]
  rcases h with h | h
  · rw [Memory.find_filter m (fun c => c.1 < a) x (fun c hc => by simp [hc, h]),
      Memory.find_filter_none m (fun c => a + bs.length ≤ c.1) x (fun c hc => by simp [hc]; omega)]
    simp
  · rw [Memory.find_filter_none m (fun c => c.1 < a) x (fun c hc => by simp [hc]; omega),
      Memory.find_filter m (fun c => a + bs.length ≤ c.1) x (fun c hc => by simp [hc, h])]
    simp

/-- Reading inside a replaced region sees the new bytes. -/
theorem Memory.read_put_inside (m : Memory) (a i : Nat) (bs : List Byte) (h : i < bs.length) :
    (m.put a bs).read (a + i) = bs[i] := by
  have e := Memory.read_cells bs a i h
  unfold Memory.read Memory.put at *
  rw [List.find?_append, List.find?_append,
    Memory.find_filter_none m (fun c => c.1 < a) (a + i) (fun c hc => by simp [hc]),
    Memory.find_filter_none m (fun c => a + bs.length ≤ c.1) (a + i) (fun c hc => by simp [hc]; omega)]
  simpa using e

/-- Reading outside an erased region sees what was there before. -/
theorem Memory.read_clear_outside (m : Memory) (a n x : Nat) (h : x < a ∨ a + n ≤ x) :
    (m.clear a n).read x = m.read x := by
  unfold Memory.read Memory.clear
  rw [List.find?_append]
  rcases h with h | h
  · rw [Memory.find_filter m (fun c => c.1 < a) x (fun c hc => by simp [hc, h]),
      Memory.find_filter_none m (fun c => a + n ≤ c.1) x (fun c hc => by simp [hc]; omega)]
    simp
  · rw [Memory.find_filter_none m (fun c => c.1 < a) x (fun c hc => by simp [hc]; omega),
      Memory.find_filter m (fun c => a + n ≤ c.1) x (fun c hc => by simp [hc, h])]
    simp

/-- Reading inside an erased region sees FFH. -/
theorem Memory.read_clear_inside (m : Memory) (a n x : Nat) (h : a ≤ x) (h' : x < a + n) :
    (m.clear a n).read x = 0xFF#8 := by
  unfold Memory.read Memory.clear
  rw [List.find?_append,
    Memory.find_filter_none m (fun c => c.1 < a) x (fun c hc => by simp [hc]; omega),
    Memory.find_filter_none m (fun c => a + n ≤ c.1) x (fun c hc => by simp [hc]; omega)]
  rfl

/-! ### Runs of bytes -/

theorem Memory.foldFrom_eq {α : Type} (f : α → Byte → α) (n : Nat) (m : Memory) (a : Nat) (acc : α)
    (hs : m.Pairwise (fun x y => x.1 < y.1)) (ha : ∀ c ∈ m, a ≤ c.1) :
    Memory.foldFrom f m a n acc = (List.range n).foldl (fun acc i => f acc (m.read (a + i))) acc := by
  induction n generalizing m a acc with
  | zero => cases m <;> rfl
  | succ n ih =>
    rw [List.range_succ_eq_map, List.foldl_cons, List.foldl_map]
    cases m with
    | nil =>
      rw [Memory.foldFrom, ih [] (a + 1) _ List.Pairwise.nil (by simp)]
      rfl
    | cons c m =>
      have hc := (List.pairwise_cons.1 hs)
      rw [Memory.foldFrom]
      split
      · rename_i hca
        rw [ih m (a + 1) _ hc.2 (fun d hd => by have := hc.1 d hd; omega)]
        have h0 : Memory.read (c :: m) (a + 0) = c.2 := by simp [Memory.read, hca]
        rw [h0]
        refine congrArg (fun g => List.foldl g (f acc c.2) (List.range n)) ?_
        funext acc i
        have : Memory.read (c :: m) (a + (i + 1)) = Memory.read m (a + 1 + i) := by
          unfold Memory.read
          rw [List.find?_cons_of_neg (by simp [hca])]
          rw [show a + (i + 1) = a + 1 + i by omega]
        exact congrArg (f acc) this.symm
      · rename_i hca
        have hge := ha c (by simp)
        rw [ih (c :: m) (a + 1) _ hs (fun d hd => by
          rcases List.mem_cons.1 hd with rfl | hd
          · omega
          · have := hc.1 d hd; omega)]
        have h0 : Memory.read (c :: m) (a + 0) = 0xFF#8 := by
          unfold Memory.read
          have : List.find? (fun c : Host.Cell => c.1 == a + 0) (c :: m) = none := by
            rw [List.find?_eq_none]
            intro d hd
            simp only [beq_iff_eq]
            rcases List.mem_cons.1 hd with rfl | hd
            · omega
            · have := hc.1 d hd; omega
          rw [this]
        rw [h0]
        refine congrArg (fun g => List.foldl g (f acc 0xFF#8) (List.range n)) ?_
        funext acc i
        rw [show a + 1 + i = a + (i + 1) by omega]

theorem Memory.read_dropWhile (m : Memory) (a x : Nat) (h : a ≤ x) :
    Memory.read (m.dropWhile (fun c => c.1 < a)) x = m.read x := by
  induction m with
  | nil => rfl
  | cons c m ih =>
    by_cases hc : c.1 < a
    · rw [List.dropWhile_cons_of_pos (by simpa using hc), ih]
      unfold Memory.read
      rw [List.find?_cons_of_neg (by simp; omega)]
    · rw [List.dropWhile_cons_of_neg (by simpa using hc)]

/-- A fold over a run of bytes is the fold over the reads of each. -/
theorem Memory.foldBytes_eq {α : Type} (f : α → Byte → α) (m : Memory) (a n : Nat) (acc : α) (h : m.wf) :
    Memory.foldBytes f m a n acc = (List.range n).foldl (fun acc i => f acc (m.read (a + i))) acc := by
  unfold Memory.foldBytes
  have hs : (m.dropWhile (fun c => c.1 < a)).Pairwise (fun x y => x.1 < y.1) :=
    h.1.sublist (List.dropWhile_sublist _)
  rw [Memory.foldFrom_eq f n _ a acc hs]
  · refine congrArg (fun g => List.foldl g acc (List.range n)) ?_
    funext acc i
    rw [Memory.read_dropWhile m a (a + i) (by omega)]
  · have key : ∀ l : Memory, l.Pairwise (fun x y => x.1 < y.1) →
        ∀ c ∈ l.dropWhile (fun c => c.1 < a), a ≤ c.1 := by
      intro l hl
      induction l with
      | nil => simp
      | cons d l ih =>
        by_cases hd : d.1 < a
        · rw [List.dropWhile_cons_of_pos (by simpa using hd)]
          exact ih (List.pairwise_cons.1 hl).2
        · rw [List.dropWhile_cons_of_neg (by simpa using hd)]
          intro c hc
          rcases List.mem_cons.1 hc with rfl | hc
          · omega
          · have := (List.pairwise_cons.1 hl).1 c hc; omega
    exact key m h.1

/-- A run of bytes is the list of the reads. -/
theorem Memory.bytes_eq (m : Memory) (a n : Nat) (h : m.wf) :
    m.bytes a n = (List.range n).map (fun i => m.read (a + i)) := by
  unfold Memory.bytes
  rw [Memory.foldBytes_eq _ m a n [] h]
  simp

theorem Memory.bytes_length (m : Memory) (a n : Nat) (h : m.wf) : (m.bytes a n).length = n := by
  rw [Memory.bytes_eq m a n h]
  simp

/-- What a program leaves: the AND at its bytes (R129). -/
theorem StoreOp.read_program (m : Memory) (a i : Nat) (bs : List Byte) (h : m.wf) (hi : i < bs.length) :
    ((StoreOp.program a bs).apply m).read (a + i) = m.read (a + i) &&& bs[i] := by
  unfold StoreOp.apply
  have hl : (List.zipWith (· &&& ·) (m.bytes a bs.length) bs).length = bs.length := by
    simp [Memory.bytes_length m a bs.length h]
  rw [Memory.read_put_inside _ _ _ _ (by rw [hl]; exact hi)]
  simp [Memory.bytes_eq m a bs.length h]

end Sys2Proof.Machine
end

