-- ==== Sys2Proof/Laws/Cut.lean ====
section
/-! SUPPORT. Operations cut short: what each rule says of the bytes left behind, and that the store keeps its
canonical form. -/

namespace Sys2Proof.Machine

/-! ### Lengths -/

@[simp] theorem flipAt_length (i : Nat) (bs : List Byte) : (flipAt i bs).length = bs.length := by simp [flipAt]

@[simp] theorem unsealed_length (n : Nat) (bs : List Byte) : (unsealed n bs).length = bs.length := by
  unfold unsealed; split <;> simp

@[simp] theorem damagedSlot_length (n : Nat) (bs : List Byte) : (damagedSlot n bs).length = bs.length := by
  unfold damagedSlot; split <;> simp

@[simp] theorem leftValid_length (n : Nat) (old bs : List Byte) : (leftValid n old bs).length = bs.length := by
  unfold leftValid; split <;> simp

@[simp] theorem uncertain_length (bs : List Byte) : (uncertain bs).length = bs.length := by
  unfold uncertain; split <;> simp

theorem limitSlots_length (f : Nat → List Byte → List Byte) (hf : ∀ i x, (f i x).length = x.length)
    (bs : List Byte) (h : bs.length = sectorSize) : (limitSlots f bs).length = sectorSize := by
  have key : ∀ n, n ≤ sectorSlots →
      ((List.range n).flatMap (fun i => f i (slice bs (slotSize * i) slotSize))).length = slotSize * n := by
    intro n
    induction n with
    | zero => simp
    | succ n ih =>
      intro hn
      have := ih (by omega)
      simp only [List.range_succ, List.flatMap_append, List.length_append, this]
      simp only [List.flatMap_cons, List.flatMap_nil, List.append_nil, hf, slice, List.length_take, List.length_drop, h]
      simp only [sectorSize, slotSize, sectorSlots] at *
      omega
  have := key sectorSlots (Nat.le_refl _)
  simpa [limitSlots, slotSize, sectorSlots, sectorSize] using this

@[simp] theorem StoreOp.freeBytes_program_length (idx a : Nat) (bs : List Byte) :
    ((StoreOp.program a bs).freeBytes idx).length = bs.length := by simp [StoreOp.freeBytes]

@[simp] theorem StoreOp.freeBytes_erase_length (idx sec : Nat) :
    ((StoreOp.erase sec).freeBytes idx).length = sectorSize := by simp [StoreOp.freeBytes]

/-- A rule about one slot or byte keeps the number of bytes; so does a rule about a sector, of a sector's bytes. -/
theorem CutRule.limit_length (r : CutRule) (m : Memory) (a : Nat) (bs : List Byte)
    (h : bs.length = sectorSize ∨ (r ≠ .noHeaders ∧ ∀ b, r ≠ .sector b)) :
    (r.limit m a bs).length = bs.length := by
  cases r with
  | free => rfl
  | damaged => simp [CutRule.limit]
  | unsealed => simp [CutRule.limit]
  | mark => simp [CutRule.limit]
  | image => unfold CutRule.limit; dsimp only; split <;> simp
  | noHeaders =>
    have hl : bs.length = sectorSize := by simpa using h
    have := limitSlots_length (fun _ => Machine.unsealed 30) (fun _ _ => unsealed_length _ _) bs hl
    rw [hl]
    exact this
  | sector b =>
    have hl : bs.length = sectorSize := by simpa using h
    have := limitSlots_length (fun i x =>
      if i = 0 then if b then Machine.unsealed 30 x else leftValid 30 (m.bytes a slotSize) x
      else leftValid 29 (m.bytes (a + slotSize * i) slotSize) x)
      (fun i x => by split <;> [split; skip] <;> simp) bs hl
    rw [hl]
    exact this

/-! ### What a rule says of its bytes -/

/-- Flipping byte 31 spoils a CRC that agrees. -/
theorem crcAgrees_flip (n : Nat) (bs : List Byte) (hn : n ≤ 30) (hl : bs.length = 32) (h : crcAgrees bs n = true) :
    crcAgrees (flipAt 31 bs) n = false := by
  have ht : (flipAt 31 bs).take n = bs.take n := by
    unfold flipAt
    rw [List.take_set_of_le (by omega)]
  unfold crcAgrees at *
  rw [ht]
  rw [beq_iff_eq] at h
  rw [← h]
  rw [beq_eq_false_iff_ne]
  intro e
  have hx : (slice (flipAt 31 bs) 30 2)[1]? = (slice bs 30 2)[1]? := by rw [e]
  have h31 : 31 < bs.length := by omega
  simp only [slice, flipAt, List.getElem?_take, List.getElem?_drop, List.getElem?_set, hl, List.getD_eq_getElem?_getD,
    List.getElem?_eq_getElem h31, Option.getD_some] at hx
  simp at hx

/-- R141: such bytes are no valid record. -/
theorem unsealed_not_valid (n : Nat) (bs : List Byte) (hn : n ≤ 30) (hl : bs.length = 32) :
    crcAgrees (unsealed n bs) n = false := by
  unfold unsealed
  split
  · rename_i h; exact crcAgrees_flip n bs hn hl h
  · rename_i h; simpa using h

/-- Erased bytes are thirty-two bytes FFH. -/
theorem erasedBytes_eq (bs : List Byte) (hl : bs.length = 32) (h : erasedBytes bs = true) :
    bs = List.replicate 32 0xFF#8 := by
  rw [← hl]
  refine List.eq_replicate_of_mem (fun b hb => ?_)
  simpa using (List.all_eq_true.1 h) b hb

/-- An erased slot with its last bit cleared is neither erased nor valid, under both CRC lengths. -/
theorem flip_erased (n : Nat) (hn : n = 29 ∨ n = 30) :
    crcAgrees (flipAt 31 (List.replicate 32 0xFF#8)) n = false
      ∧ erasedBytes (flipAt 31 (List.replicate 32 0xFF#8)) = false := by
  rcases hn with rfl | rfl <;> decide +kernel

/-- R40, R42, R137: such bytes are damaged, or torn: neither erased nor valid. -/
theorem damagedSlot_damaged (n : Nat) (bs : List Byte) (hn : n = 29 ∨ n = 30) (hl : bs.length = 32) :
    crcAgrees (damagedSlot n bs) n = false ∧ erasedBytes (damagedSlot n bs) = false := by
  have h30 : n ≤ 30 := by omega
  unfold damagedSlot
  by_cases he : erasedBytes bs = true
  · rw [if_pos (by simp [he]), erasedBytes_eq bs hl he]
    exact flip_erased n hn
  · by_cases hc : crcAgrees bs n = true
    · rw [if_pos (by simp [hc])]
      refine ⟨crcAgrees_flip n bs h30 hl hc, ?_⟩
      rw [Bool.eq_false_iff]
      intro hf
      -- were the flipped bytes erased, the bytes before would be the erased slot with one bit cleared
      have hb : bs = flipAt 31 (List.replicate 32 0xFF#8) := by
        have h1 := erasedBytes_eq _ (by simpa using hl) hf
        rw [← h1]
        unfold flipAt
        rw [List.set_set]
        have : (bs.set 31 (bs.getD 31 0#8 ^^^ 1#8)).getD 31 0#8 = bs.getD 31 0#8 ^^^ 1#8 := by
          simp [List.getD_eq_getElem?_getD, hl]
        rw [this, BitVec.xor_assoc, BitVec.xor_self, BitVec.xor_zero]
        have h31 : 31 < bs.length := by omega
        simp [List.getD_eq_getElem?_getD, List.getElem?_eq_getElem h31]
      rw [hb] at hc
      rw [(flip_erased n hn).1] at hc
      cases hc
    · rw [if_neg (by simp [he, hc])]
      exact ⟨by simpa using hc, by simpa using he⟩

/-- R145: an uncertain mark is neither 00H nor FFH. -/
theorem uncertain_mark (b : Byte) :
    (uncertain [b]).getD 0 0#8 ≠ 0#8 ∧ (uncertain [b]).getD 0 0#8 ≠ 0xFF#8 := by
  revert b
  decide +kernel

/-! ### The store -/

/-- An operation that is cut short keeps the canonical form. -/
theorem StoreOp.wf_damage (i : Nat) (r : CutRule) (op : StoreOp) (m : Memory) (h : m.wf) : (op.damage i r m).wf := by
  cases op with
  | read => exact h
  | program a bs => exact Memory.wf_put _ _ _ h
  | erase sec => exact Memory.wf_put _ _ _ h

/-- What one cut can do: the store keeps its canonical form, and nothing else but the free numbers changes. -/
theorem State.cutOp_spec (lost : Bool) (op : StoreOp) (s : State) :
    (s.store.wf → (s.cutOp lost op).store.wf)
      ∧ s.cutOp lost op
        = { s with store := (s.cutOp lost op).store, freeIndex := (s.cutOp lost op).freeIndex } :=
  ⟨StoreOp.wf_damage _ _ _ _, rfl⟩

theorem State.wf_cutOps (lost : Bool) (ops : List StoreOp) (s : State) (h : s.store.wf) :
    (s.cutOps lost ops).store.wf := by
  unfold State.cutOps
  induction ops generalizing s with
  | nil => exact h
  | cons op ops ih => exact ih _ ((State.cutOp_spec lost op s).1 h)

/-- What several cuts can do: nothing but the store and the free numbers changes. -/
theorem State.cutOps_eq (lost : Bool) (ops : List StoreOp) (s : State) :
    s.cutOps lost ops
      = { s with store := (s.cutOps lost ops).store, freeIndex := (s.cutOps lost ops).freeIndex } := by
  unfold State.cutOps
  induction ops generalizing s with
  | nil => rfl
  | cons op ops ih =>
    rw [List.foldl_cons, ih]
    rfl

/-- A cut leaves every byte outside its program or sector. -/
theorem State.cutOp_outside (lost : Bool) (op : StoreOp) (s : State) (x : Nat)
    (h : match op with
      | .read _ _ => True
      | .program a bs => x < a ∨ a + bs.length ≤ x
      | .erase sec => x < sec * sectorSize ∨ sec * sectorSize + sectorSize ≤ x) :
    (s.cutOp lost op).store.read x = s.store.read x := by
  cases op with
  | read => rfl
  | program a bs =>
    refine Memory.read_put_outside _ _ _ _ ?_
    have hr : s.cutRule lost (.program a bs) ≠ .noHeaders ∧ ∀ b, s.cutRule lost (.program a bs) ≠ .sector b := by
      unfold State.cutRule
      dsimp only
      repeat' split
      all_goals simp
    rw [CutRule.limit_length _ _ _ _ (Or.inr hr), StoreOp.freeBytes_program_length]
    exact h
  | erase sec =>
    refine Memory.read_put_outside _ _ _ _ ?_
    have hl : ((StoreOp.erase sec).freeBytes s.freeIndex).length = sectorSize := StoreOp.freeBytes_erase_length _ _
    rw [CutRule.limit_length _ _ _ _ (Or.inl hl), hl]
    exact h

end Sys2Proof.Machine
end

