-- ==== Sys2Proof/Laws/Layout.lean ====
section
/-! SUPPORT. The layouts of section 9.8: numbers in bytes, fields of a body, and the entries of the configuration image,
which are read back as they were written. -/

namespace Sys2Proof.Machine

/-! ### Numbers and bytes -/

/-- A number in `n` bytes has `n` bytes. -/
theorem beBytes_length (n w : Nat) : (beBytes n w).length = n := by
  induction n with
  | zero => rfl
  | succ n ih => simp [beBytes, ih]

/-- A number in four bytes is read back. -/
theorem beNat_beBytes4 (n : Nat) (h : n < 2 ^ 32) : beNat (beBytes 4 n) = n := by simp [beBytes, beNat]; omega

/-- A number in two bytes is read back. -/
theorem beNat_beBytes2 (n : Nat) (h : n < 65536) : beNat (beBytes 2 n) = n := by simp [beBytes, beNat]; omega

/-- A number in one byte is read back. -/
theorem byteOf_toNat (n : Nat) (h : n < 256) : (byteOf n).toNat = n := by simp [byteOf]; omega

/-- A word in four bytes is read back. -/
theorem beNat_beBytes_word (w : Word) : BitVec.ofNat 32 (beNat (beBytes 4 w.toNat)) = w := by
  rw [beNat_beBytes4 _ w.isLt]; simp

/-! ### Fields of a body -/

/-- A field beyond a prefix of known length. -/
theorem slice_append_add (pre l : List Byte) (k n j : Nat) (h : pre.length = k) :
    slice (pre ++ l) (k + j) n = slice l j n := by
  unfold slice
  rw [← List.drop_drop, List.drop_left' h]

/-- A byte of a field. -/
theorem getD_add_slice (bs : List Byte) (i k j : Nat) (h : j < k) :
    bs.getD (i + j) 0#8 = (slice bs i k).getD j 0#8 := by
  simp only [List.getD_eq_getElem?_getD, slice, List.getElem?_take, List.getElem?_drop, if_pos h]

/-- A one-byte number of a field. -/
theorem natAt_add_slice (bs : List Byte) (i k j : Nat) (h : j < k) : natAt bs (i + j) = natAt (slice bs i k) j := by
  rw [natAt, natAt, getD_add_slice bs i k j h]

/-- A number of a field. -/
theorem numAt_add_slice (bs : List Byte) (i k j n : Nat) (h : j + n ≤ k) :
    numAt bs (i + j) n = numAt (slice bs i k) j n := by
  rw [numAt, numAt, slice, slice, slice, List.drop_take, List.drop_drop, List.take_take, Nat.min_eq_left (by omega)]

/-- The length of a table whose entries have `k` bytes each. -/
theorem flatMap_length_of {α β} (l : List α) (g : α → List β) (k : Nat) (h : ∀ x ∈ l, (g x).length = k) :
    (l.flatMap g).length = k * l.length := by
  induction l with
  | nil => simp
  | cons a l ih =>
    rw [List.flatMap_cons, List.length_append, h a (by simp), ih (fun x hx => h x (by simp [hx])),
      List.length_cons, Nat.mul_succ]
    omega

/-- Entry `i` of a table whose entries have `k` bytes each. -/
theorem flatMap_slice {α β} (l : List α) (g : α → List β) (k i : Nat) (h : ∀ x ∈ l, (g x).length = k)
    (hi : i < l.length) (rest : List β) :
    ((l.flatMap g ++ rest).drop (k * i)).take k = g l[i] := by
  induction l generalizing i with
  | nil => simp at hi
  | cons a l ih =>
    cases i with
    | zero => simp [List.flatMap_cons, List.append_assoc, List.take_left' (h a (by simp))]
    | succ i =>
      have := ih i (fun x hx => h x (by simp [hx])) (by simpa using hi)
      rw [List.flatMap_cons, List.append_assoc, Nat.mul_succ, Nat.add_comm, ← List.drop_drop,
        List.drop_left' (h a (by simp)), this]
      rfl

/-! ### The entries of the image -/

theorem portBytes_length (x : PortSettings) : (portBytes x).length = 7 := by simp [portBytes, beBytes_length]

theorem channelBytes_length (x : ChannelSettings) : (channelBytes x).length = 3 := by simp [channelBytes]

theorem familyBytes_length (x : Family) : (familyBytes x).length = 16 := by
  unfold familyBytes; split <;> simp [beBytes_length, zeros]

theorem rangeBytes_length (x : RangeEntry) : (rangeBytes x).length = 11 := by
  unfold rangeBytes; split <;> simp [beBytes_length, zeros]

theorem ruleBytes_length (x : Rule) : (ruleBytes x).length = 4 := by simp [ruleBytes, beBytes_length]

/-- A port entry is read back. -/
theorem portOf_portBytes (x : PortSettings) (h : x.bitRate < 2 ^ 32) : portOf (portBytes x) 0 = x := by
  rcases x with ⟨m, iv, r, c⟩
  simp only [portOf, portBytes]
  have : numAt ([byteOf m.code, boolByte iv] ++ beBytes 4 r ++ [boolByte c]) (0 + 2) 4 = r := beNat_beBytes4 r h
  rw [this]
  cases m <;> cases iv <;> cases c <;> rfl

/-- A channel entry is read back. -/
theorem channelOf_channelBytes (x : ChannelSettings) (h : x.threshold < 256) : channelOf (channelBytes x) 0 = x := by
  rcases x with ⟨s, m, t⟩
  have e : natAt (channelBytes ⟨s, m, t⟩) 2 = t := byteOf_toNat t h
  have e1 : (channelBytes ⟨s, m, t⟩).getD 1 0#8 = m := rfl
  have e0 : (channelBytes ⟨s, m, t⟩).getD 0 0#8 = sourceByte s := rfl
  simp only [channelOf, Nat.zero_add, e, e1, e0]
  congr
  rcases s with _ | s
  · rfl
  · have : ∀ s : Fin 8, sourceOf (sourceByte (some s)) = some s := by decide
    exact this s

/-- A family entry is read back. -/
theorem familyOf_familyBytes (x : Family) (h : x.fits) : familyOf (familyBytes x) 0 = x := by
  rcases x with ⟨v, a1, p, a2, a3, a4, a5, a6, a7, en, a8, m, c⟩
  cases v
  · simp only [Family.fits, Bool.false_eq_true, if_false] at h
    rw [h]; rfl
  · simp only [Family.fits, if_true] at h
    obtain ⟨h1, h2, h3, h4, h5, h6, h7, h8⟩ := h
    generalize hx : familyBytes ⟨true, a1, p, a2, a3, a4, a5, a6, a7, en, a8, m, c⟩ = B
    have e0 : natAt B 0 = 1 := by subst hx; rfl
    have e1 : natAt B 1 = a1 := by subst hx; exact byteOf_toNat _ h1
    have e2 : BitVec.ofNat 32 (numAt B 2 4) = p := by subst hx; exact beNat_beBytes_word p
    have e3 : natAt B 6 = a2 := by subst hx; exact byteOf_toNat _ h2
    have e4 : natAt B 7 = a3 := by subst hx; exact byteOf_toNat _ h3
    have e5 : natAt B 8 = a4 := by subst hx; exact byteOf_toNat _ h4
    have e6 : natAt B 9 = a5 := by subst hx; exact byteOf_toNat _ h5
    have e7 : natAt B 10 = a6 := by subst hx; exact byteOf_toNat _ h6
    have e8 : natAt B 11 = a7 := by subst hx; exact byteOf_toNat _ h7
    have e9 : (ValueEncoding.ofCode? (natAt B 12)).getD .bin = en := by subst hx; cases en <;> rfl
    have e10 : natAt B 13 = a8 := by subst hx; exact byteOf_toNat _ h8
    have e11 : B.getD 14 0#8 = m := by subst hx; rfl
    have e12 : (CrcKind.ofCode? (natAt B 15)).getD .none = c := by subst hx; cases c <;> rfl
    simp only [familyOf, Nat.zero_add, e0, e1, e2, e3, e4, e5, e6, e7, e8, e9, e10, e11, e12]
    rfl

/-- A range entry is read back. -/
theorem rangeOf_rangeBytes (x : RangeEntry) (h : x.fits) : rangeOf (rangeBytes x) 0 = x := by
  rcases x with ⟨v, b, k, m, u, c, r, f⟩
  cases v
  · simp only [RangeEntry.fits, Bool.false_eq_true, if_false] at h
    rw [h]; rfl
  · simp only [RangeEntry.fits, if_true] at h
    obtain ⟨h1, h2, h3, h4⟩ := h
    have hf : familyCode f < 256 ∧ familyOfCode (familyCode f) = f := by
      rcases f with _ | f
      · exact ⟨by decide, rfl⟩
      · have := h4 f rfl
        exact ⟨Nat.lt_succ_of_lt this, if_neg (Nat.ne_of_lt this)⟩
    generalize hx : rangeBytes ⟨true, b, k, m, u, c, r, f⟩ = B
    have e0 : natAt B 0 = 1 := by subst hx; rfl
    have e1 : BitVec.ofNat 32 (numAt B 1 4) = b := by subst hx; exact beNat_beBytes_word b
    have e2 : natAt B 5 = k := by subst hx; exact byteOf_toNat k h1
    have e3 : (RangeMode.ofCode? (natAt B 6)).getD .direct = m := by subst hx; cases m <;> rfl
    have e4 : natAt B 7 = u := by subst hx; exact byteOf_toNat u h2
    have e5 : (RoutingClass.ofCode? (natAt B 8)).getD .live = c := by subst hx; cases c <;> rfl
    have e6 : natAt B 9 = r := by subst hx; exact byteOf_toNat r h3
    have e7 : natAt B 10 = familyCode f := by subst hx; exact byteOf_toNat _ hf.1
    simp only [rangeOf, Nat.zero_add, e0, e1, e2, e3, e4, e5, e6, e7, hf.2]
    rfl

/-- A rule entry is read back. -/
theorem ruleOf_ruleBytes (x : Rule) (h : x.fits) : ruleOf (ruleBytes x) 0 = x := by
  rcases x with ⟨c, t, s⟩
  obtain ⟨h, h1, h2⟩ := h
  have e : numAt (ruleBytes ⟨c, t, s⟩) 0 2 = c := beNat_beBytes2 c h
  have e1 : natAt (ruleBytes ⟨c, t, s⟩) 2 = t := byteOf_toNat t h1
  have e0 : natAt (ruleBytes ⟨c, t, s⟩) 3 = s := byteOf_toNat s h2
  simp only [ruleOf, Nat.zero_add, e, e1, e0]

/-- A port entry is read from its seven bytes alone. -/
theorem portOf_slice (bs i) : portOf bs i = portOf (slice bs i 7) 0 := by
  have a := natAt_add_slice bs i 7 0 (by omega)
  rw [Nat.add_zero] at a
  simp only [portOf, a, natAt_add_slice bs i 7 1 (by omega), natAt_add_slice bs i 7 6 (by omega),
    numAt_add_slice bs i 7 2 4 (by omega)]

/-- A channel entry is read from its three bytes alone. -/
theorem channelOf_slice (bs i) : channelOf bs i = channelOf (slice bs i 3) 0 := by
  have a := getD_add_slice bs i 3 0 (by omega)
  rw [Nat.add_zero] at a
  simp only [channelOf, a, getD_add_slice bs i 3 1 (by omega), natAt_add_slice bs i 3 2 (by omega)]

/-- A family entry is read from its sixteen bytes alone. -/
theorem familyOf_slice (bs i) : familyOf bs i = familyOf (slice bs i 16) 0 := by
  have a := natAt_add_slice bs i 16 0 (by omega)
  rw [Nat.add_zero] at a
  have b := fun j (h : j < 16) => natAt_add_slice bs i 16 j h
  simp only [familyOf, a, Nat.zero_add, numAt_add_slice bs i 16 2 4 (by omega), getD_add_slice bs i 16 14 (by omega),
    b 1 (by omega), b 6 (by omega), b 7 (by omega), b 8 (by omega), b 9 (by omega), b 10 (by omega),
    b 11 (by omega), b 12 (by omega), b 13 (by omega), b 15 (by omega)]

/-- A range entry is read from its eleven bytes alone. -/
theorem rangeOf_slice (bs i) : rangeOf bs i = rangeOf (slice bs i 11) 0 := by
  have a := natAt_add_slice bs i 11 0 (by omega)
  rw [Nat.add_zero] at a
  have b := fun j (h : j < 11) => natAt_add_slice bs i 11 j h
  simp only [rangeOf, a, Nat.zero_add, numAt_add_slice bs i 11 1 4 (by omega), b 5 (by omega), b 6 (by omega),
    b 7 (by omega), b 8 (by omega), b 9 (by omega), b 10 (by omega)]

/-- A rule entry is read from its four bytes alone. -/
theorem ruleOf_slice (bs i) : ruleOf bs i = ruleOf (slice bs i 4) 0 := by
  have a := numAt_add_slice bs i 4 0 2 (by omega)
  rw [Nat.add_zero] at a
  simp only [ruleOf, a, natAt_add_slice bs i 4 3 (by omega), natAt_add_slice bs i 4 2 (by omega)]

/-! ### The image -/

/-- The image of a state's settings as the join of its parts, each of its own length (section 9.8). -/
theorem imageBytes_eq (s : State) : ∃ ports channels families ranges rules crc : List Byte,
    imageBytes s.settings =
      (beBytes 2 418 ++ beBytes 2 379) ++ (ports ++ (channels ++ (families ++
        ([byteOf s.tb.mode.code, byteOf s.tb.window] ++ (ranges ++ (rules ++
          (([byteOf s.cl.policy.code] ++ beBytes 2 s.mc.hold ++ beBytes 2 s.mc.quiet
            ++ beBytes 2 s.cl.utilities.toNat ++ beBytes 2 s.tl.mask.toNat) ++ crc)))))))
    ∧ ports = s.settings.ports.flatMap portBytes ∧ channels = s.settings.channels.flatMap channelBytes
    ∧ families = s.settings.families.flatMap familyBytes ∧ ranges = s.settings.ranges.flatMap rangeBytes
    ∧ rules = s.settings.rules.flatMap ruleBytes
    ∧ ports.length = 56 ∧ channels.length = 24 ∧ families.length = 128 ∧ ranges.length = 88 ∧ rules.length = 64
    ∧ crc = beBytes 4 (crc32 (imageBody s.settings)).toNat := by
  refine ⟨_, _, _, _, _, _, ?_, rfl, rfl, rfl, rfl, rfl, ?_, ?_, ?_, ?_, ?_, rfl⟩
  · simp only [imageBytes, imageBody, State.settings, List.append_assoc]; rfl
  · rw [flatMap_length_of _ _ 7 (fun x _ => portBytes_length x)]; simp [State.settings]
  · rw [flatMap_length_of _ _ 3 (fun x _ => channelBytes_length x)]; simp [State.settings]
  · rw [flatMap_length_of _ _ 16 (fun x _ => familyBytes_length x)]; simp [State.settings]
  · rw [flatMap_length_of _ _ 11 (fun x _ => rangeBytes_length x)]; simp [State.settings]
  · rw [flatMap_length_of _ _ 4 (fun x _ => ruleBytes_length x)]; simp [State.settings]

end Sys2Proof.Machine
end

