-- ==== Sys2Proof/WellFormed.lean ====
section
/-! DEFINITION. Well-formed commands: what a sender may put into the queue. -/

namespace Sys2Proof

/-- The argument bytes of a command frame: with the command code they fill a body of at most 1,024 bytes
(section 9.2). -/
def argsFit (args : List Byte) : Bool := args.length + 1 ≤ 1024

/-- A command is well formed: its arguments fit a frame body, an unknown command has a code that names no
command (R176), and a measured rate is a 32-bit count of baud. -/
def Instr.wellFormed : Instr → Bool
  | .unknownCommand _ code args => !Machine.commandCodes.contains code && argsFit args
  | .linkTuned rate => rate < 4294967296
  | .portSet _ args | .mapSet _ args | .familySet _ args | .channelSet _ args | .checkRead _ args
  | .timeSet _ args | .timeRead _ args | .pulseMode _ args
  | .routeClear _ args | .routeLoad _ args | .routeFinish _ args | .routeDigest _ args | .routeOpen _ args
  | .routeClose _ args | .routeQuery _ args | .segmentRead _ args | .unreadList _ args
  | .cacheFlush _ args | .cacheProbe _ args | .rangeSet _ args | .rangeClear _ args | .foreignPolicy _ args
  | .utilitySet _ args | .mergeSet _ args | .flushMerge _ args | .ruleSet _ args | .ruleRead _ args
  | .configSave _ args | .journalStatus _ args | .journalErase _ args
  | .uploadStart _ args | .uploadStop _ args | .uploadAck _ args
  | .status _ args | .countersRead _ args | .countersClear _ args | .eventsClear _ args | .eventMask _ args
  | .reset _ args => argsFit args
  | .powerOnReset | .lineReset | .commandReset | .storeReady | .storeReadyTimeout | .configLoadDone
  | .journalScanDone | .routeHeaderReadDone | .resumeRebuildDone | .journalReplayDone
  | .rxcInactive _ | .rxcActive _ | .pn9Locked _ _ | .pn9Lost _ _ | .syncMatch _ _ | .badcodeAbort _ _
  | .frameBodyComplete _ _ | .noisy _ _ | .noiseWindowEnd | .tpiEdge | .pulseLost | .frameTake
  | .bucketReadDone | .walkCompleteFound _ | .walkCompleteNotFound _ | .walkCompleteFailed _
  | .mergeExpiry _ | .flushMergeCommit | .flushMergeDone | .appendProgramDone | .journalSectorOpened
  | .reclaimEraseDone | .markSlotReadDone | .markProgramDone | .programTimeout | .eraseTimeout
  | .uploadReadDone | .uploadTimeout | .linkBreak | .linkFramingError | .linkFrameReceived _ | .longOpReply
  | .transmitBegin | .transmitEnd | .routeClearDone | .routeLoadStoreOpDone | .routeFinishReadDone
  | .routeHeaderWriteDone | .routeDigestDone | .routeOpenReadDone | .routeCloseWalksEnded | .routeCloseDone
  | .routeQueryReadDone | .configSaveDone | .journalEraseDone | .itemDelivered _ _ | .checkerBit _ _
  | .runClockMillisecond | .characterAccepted _ | .lossOfPower => true

end Sys2Proof
end

