-- ==== Sys2Proof/Laws/PerInstr.lean ====
section
/-! SUPPORT. One lemma per command: the argument bytes of a well-formed command fit a frame body (section 9.2). -/

namespace Sys2Proof

/-- The argument bytes a command carries; none for a row that is no command of the link. -/
def Instr.linkArgs : Instr → List Byte
  | .unknownCommand _ _ a
  | .portSet _ a | .mapSet _ a | .familySet _ a | .channelSet _ a | .checkRead _ a | .timeSet _ a
  | .timeRead _ a | .pulseMode _ a | .routeClear _ a | .routeLoad _ a | .routeFinish _ a | .routeDigest _ a
  | .routeOpen _ a | .routeClose _ a | .routeQuery _ a | .segmentRead _ a | .unreadList _ a
  | .cacheFlush _ a | .cacheProbe _ a | .rangeSet _ a | .rangeClear _ a | .foreignPolicy _ a
  | .utilitySet _ a | .mergeSet _ a | .flushMerge _ a | .ruleSet _ a | .ruleRead _ a | .configSave _ a
  | .journalStatus _ a | .journalErase _ a | .uploadStart _ a | .uploadStop _ a | .uploadAck _ a
  | .status _ a | .countersRead _ a | .countersClear _ a | .eventsClear _ a | .eventMask _ a | .reset _ a => a
  | _ => []

namespace Laws.WellFormedArgs

/-- With the command code, the arguments of a well-formed command are at most 1,024 bytes. -/
def Statement (i : Instr) : Prop := i.wellFormed = true → i.linkArgs.length < 1024

/-- The bound for a command of the link. -/
theorem fits {a : List Byte} (h : argsFit a = true) : a.length < 1024 := by
  simp only [argsFit, decide_eq_true_eq] at h; omega

/-- The bound for a row that carries no arguments. -/
theorem empty : ([] : List Byte).length < 1024 := by decide

theorem powerOnReset : Statement (.powerOnReset) := fun _ => empty
theorem lineReset : Statement (.lineReset) := fun _ => empty
theorem commandReset : Statement (.commandReset) := fun _ => empty
theorem storeReady : Statement (.storeReady) := fun _ => empty
theorem storeReadyTimeout : Statement (.storeReadyTimeout) := fun _ => empty
theorem configLoadDone : Statement (.configLoadDone) := fun _ => empty
theorem journalScanDone : Statement (.journalScanDone) := fun _ => empty
theorem routeHeaderReadDone : Statement (.routeHeaderReadDone) := fun _ => empty
theorem resumeRebuildDone : Statement (.resumeRebuildDone) := fun _ => empty
theorem journalReplayDone : Statement (.journalReplayDone) := fun _ => empty
theorem rxcInactive (p : Fin 8) : Statement (.rxcInactive p) := fun _ => empty
theorem rxcActive (p : Fin 8) : Statement (.rxcActive p) := fun _ => empty
theorem pn9Locked (p : Fin 8) (level : Bool) : Statement (.pn9Locked p level) := fun _ => empty
theorem pn9Lost (p : Fin 8) (level : Bool) : Statement (.pn9Lost p level) := fun _ => empty
theorem syncMatch (c : Fin 8) (smp : Sample) : Statement (.syncMatch c smp) := fun _ => empty
theorem badcodeAbort (c : Fin 8) (smp : Sample) : Statement (.badcodeAbort c smp) := fun _ => empty
theorem frameBodyComplete (c : Fin 8) (smp : Sample) : Statement (.frameBodyComplete c smp) := fun _ => empty
theorem noisy (c : Fin 8) (cause : NoiseCause) : Statement (.noisy c cause) := fun _ => empty
theorem noiseWindowEnd : Statement (.noiseWindowEnd) := fun _ => empty
theorem tpiEdge : Statement (.tpiEdge) := fun _ => empty
theorem pulseLost : Statement (.pulseLost) := fun _ => empty
theorem frameTake : Statement .frameTake := fun _ => empty
theorem bucketReadDone : Statement (.bucketReadDone) := fun _ => empty
theorem walkCompleteFound (w : Fin 4) : Statement (.walkCompleteFound w) := fun _ => empty
theorem walkCompleteNotFound (w : Fin 4) : Statement (.walkCompleteNotFound w) := fun _ => empty
theorem walkCompleteFailed (w : Fin 4) : Statement (.walkCompleteFailed w) := fun _ => empty
theorem mergeExpiry (e : Fin 32) : Statement (.mergeExpiry e) := fun _ => empty
theorem flushMergeCommit : Statement (.flushMergeCommit) := fun _ => empty
theorem flushMergeDone : Statement (.flushMergeDone) := fun _ => empty
theorem appendProgramDone : Statement (.appendProgramDone) := fun _ => empty
theorem journalSectorOpened : Statement (.journalSectorOpened) := fun _ => empty
theorem reclaimEraseDone : Statement (.reclaimEraseDone) := fun _ => empty
theorem markSlotReadDone : Statement (.markSlotReadDone) := fun _ => empty
theorem markProgramDone : Statement (.markProgramDone) := fun _ => empty
theorem programTimeout : Statement (.programTimeout) := fun _ => empty
theorem eraseTimeout : Statement (.eraseTimeout) := fun _ => empty
theorem uploadReadDone : Statement (.uploadReadDone) := fun _ => empty
theorem uploadTimeout : Statement (.uploadTimeout) := fun _ => empty
theorem linkTuned (rate : Nat) : Statement (.linkTuned rate) := fun _ => empty
theorem linkBreak : Statement (.linkBreak) := fun _ => empty
theorem linkFramingError : Statement (.linkFramingError) := fun _ => empty
theorem linkFrameReceived (b : Byte) : Statement (.linkFrameReceived b) := fun _ => empty
theorem unknownCommand (tag code : Byte) (args : List Byte) : Statement (.unknownCommand tag code args) := fun h => fits (by simp only [Instr.wellFormed, Bool.and_eq_true] at h; exact h.2)
theorem longOpReply : Statement (.longOpReply) := fun _ => empty
theorem transmitBegin : Statement (.transmitBegin) := fun _ => empty
theorem transmitEnd : Statement (.transmitEnd) := fun _ => empty
theorem portSet (tag : Byte) (args : List Byte) : Statement (.portSet tag args) := fun h => fits h
theorem mapSet (tag : Byte) (args : List Byte) : Statement (.mapSet tag args) := fun h => fits h
theorem familySet (tag : Byte) (args : List Byte) : Statement (.familySet tag args) := fun h => fits h
theorem channelSet (tag : Byte) (args : List Byte) : Statement (.channelSet tag args) := fun h => fits h
theorem checkRead (tag : Byte) (args : List Byte) : Statement (.checkRead tag args) := fun h => fits h
theorem timeSet (tag : Byte) (args : List Byte) : Statement (.timeSet tag args) := fun h => fits h
theorem timeRead (tag : Byte) (args : List Byte) : Statement (.timeRead tag args) := fun h => fits h
theorem pulseMode (tag : Byte) (args : List Byte) : Statement (.pulseMode tag args) := fun h => fits h
theorem routeClear (tag : Byte) (args : List Byte) : Statement (.routeClear tag args) := fun h => fits h
theorem routeClearDone : Statement (.routeClearDone) := fun _ => empty
theorem routeLoad (tag : Byte) (args : List Byte) : Statement (.routeLoad tag args) := fun h => fits h
theorem routeLoadStoreOpDone : Statement (.routeLoadStoreOpDone) := fun _ => empty
theorem routeFinish (tag : Byte) (args : List Byte) : Statement (.routeFinish tag args) := fun h => fits h
theorem routeFinishReadDone : Statement (.routeFinishReadDone) := fun _ => empty
theorem routeHeaderWriteDone : Statement (.routeHeaderWriteDone) := fun _ => empty
theorem routeDigest (tag : Byte) (args : List Byte) : Statement (.routeDigest tag args) := fun h => fits h
theorem routeDigestDone : Statement (.routeDigestDone) := fun _ => empty
theorem routeOpen (tag : Byte) (args : List Byte) : Statement (.routeOpen tag args) := fun h => fits h
theorem routeOpenReadDone : Statement (.routeOpenReadDone) := fun _ => empty
theorem routeClose (tag : Byte) (args : List Byte) : Statement (.routeClose tag args) := fun h => fits h
theorem routeCloseWalksEnded : Statement (.routeCloseWalksEnded) := fun _ => empty
theorem routeCloseDone : Statement (.routeCloseDone) := fun _ => empty
theorem routeQuery (tag : Byte) (args : List Byte) : Statement (.routeQuery tag args) := fun h => fits h
theorem routeQueryReadDone : Statement (.routeQueryReadDone) := fun _ => empty
theorem segmentRead (tag : Byte) (args : List Byte) : Statement (.segmentRead tag args) := fun h => fits h
theorem unreadList (tag : Byte) (args : List Byte) : Statement (.unreadList tag args) := fun h => fits h
theorem cacheFlush (tag : Byte) (args : List Byte) : Statement (.cacheFlush tag args) := fun h => fits h
theorem cacheProbe (tag : Byte) (args : List Byte) : Statement (.cacheProbe tag args) := fun h => fits h
theorem rangeSet (tag : Byte) (args : List Byte) : Statement (.rangeSet tag args) := fun h => fits h
theorem rangeClear (tag : Byte) (args : List Byte) : Statement (.rangeClear tag args) := fun h => fits h
theorem foreignPolicy (tag : Byte) (args : List Byte) : Statement (.foreignPolicy tag args) := fun h => fits h
theorem utilitySet (tag : Byte) (args : List Byte) : Statement (.utilitySet tag args) := fun h => fits h
theorem mergeSet (tag : Byte) (args : List Byte) : Statement (.mergeSet tag args) := fun h => fits h
theorem flushMerge (tag : Byte) (args : List Byte) : Statement (.flushMerge tag args) := fun h => fits h
theorem ruleSet (tag : Byte) (args : List Byte) : Statement (.ruleSet tag args) := fun h => fits h
theorem ruleRead (tag : Byte) (args : List Byte) : Statement (.ruleRead tag args) := fun h => fits h
theorem configSave (tag : Byte) (args : List Byte) : Statement (.configSave tag args) := fun h => fits h
theorem configSaveDone : Statement (.configSaveDone) := fun _ => empty
theorem journalStatus (tag : Byte) (args : List Byte) : Statement (.journalStatus tag args) := fun h => fits h
theorem journalErase (tag : Byte) (args : List Byte) : Statement (.journalErase tag args) := fun h => fits h
theorem journalEraseDone : Statement (.journalEraseDone) := fun _ => empty
theorem uploadStart (tag : Byte) (args : List Byte) : Statement (.uploadStart tag args) := fun h => fits h
theorem uploadStop (tag : Byte) (args : List Byte) : Statement (.uploadStop tag args) := fun h => fits h
theorem uploadAck (tag : Byte) (args : List Byte) : Statement (.uploadAck tag args) := fun h => fits h
theorem status (tag : Byte) (args : List Byte) : Statement (.status tag args) := fun h => fits h
theorem countersRead (tag : Byte) (args : List Byte) : Statement (.countersRead tag args) := fun h => fits h
theorem countersClear (tag : Byte) (args : List Byte) : Statement (.countersClear tag args) := fun h => fits h
theorem eventsClear (tag : Byte) (args : List Byte) : Statement (.eventsClear tag args) := fun h => fits h
theorem eventMask (tag : Byte) (args : List Byte) : Statement (.eventMask tag args) := fun h => fits h
theorem reset (tag : Byte) (args : List Byte) : Statement (.reset tag args) := fun h => fits h
theorem itemDelivered (p : Fin 8) (smp : Sample) : Statement (.itemDelivered p smp) := fun _ => empty
theorem checkerBit (p : Fin 8) (level : Bool) : Statement (.checkerBit p level) := fun _ => empty
theorem runClockMillisecond : Statement (.runClockMillisecond) := fun _ => empty
theorem characterAccepted (b : Byte) : Statement (.characterAccepted b) := fun _ => empty
theorem lossOfPower : Statement (.lossOfPower) := fun _ => empty

end Laws.WellFormedArgs

end Sys2Proof
end

