-- ==== Sys2Proof/Laws/Port.lean ====
section
/-! SUPPORT. The store port once its operation ends: when the port has nothing to end by itself, and what the end of an
operation leaves (R129, log 2); what a store failure leaves of the upload engine and the link (R132, R166), and a link break of the state (R168). -/

namespace Sys2Proof.Machine

variable {s : State} {c : Client} {op : StoreOp} {code tag : Byte} {w : Work}

/-- A port with no operation that ends by itself is settled. -/
theorem State.settled_eq (h : s.advance? = none) : s.settled = s := by
  unfold State.settled settleBound State.settle
  simp only [h]

/-- A free port is settled. -/
theorem State.settled_of_free (h : s.port.active = none) : s.settled = s :=
  State.settled_eq (by simp only [State.advance?, h])

theorem State.unanswered.settled (h : s.unanswered c) : s.settled = s := State.settled_of_free h.1

theorem State.unanswered.mem (h : s.unanswered c) : c ∈ s.port.failed := h.2

/-- Every end of an operation of these requesters has a row. -/
theorem State.inPort.settled (h : s.inPort c op) (h1 : c ≠ .opening) (h2 : c ≠ .longOp) (h3 : c ≠ .startup) :
    s.settled = s := by
  obtain ⟨⟨since, spent, h⟩, -⟩ := h
  apply State.settled_eq
  cases c <;> simp_all [State.advance?]

/-- The header program of an opening has a row. -/
theorem State.inPort.settled_opening {a : Nat} {bs : List Byte} (h : s.inPort .opening (.program a bs)) :
    s.settled = s := by
  obtain ⟨⟨since, spent, h⟩, -⟩ := h
  exact State.settled_eq (by simp only [State.advance?, h])

/-- An operation of a long operation's work has a row where the work does not go on after it. -/
theorem State.inPort.settled_longOp {r : Option (List Byte)} (h : s.inPort .longOp op)
    (hl : s.tl.longOp = some ⟨code, tag, w, r⟩) (hw : s.afterLongOp w op = none) : s.settled = s := by
  obtain ⟨⟨since, spent, h⟩, -⟩ := h
  exact State.settled_eq (by simp only [State.advance?, h, hl, hw, Option.map_none])

/-- An operation of the start-up path has a row where the path does not go on after it. -/
theorem State.inPort.settled_startup (h : s.inPort .startup op) (hw : s.afterStartup op = none) : s.settled = s := by
  obtain ⟨⟨since, spent, h⟩, -⟩ := h
  exact State.settled_eq (by simp only [State.advance?, h, hw, Option.map_none])

/-- The end of the operation in the port. -/
theorem State.inPort.endOp (h : s.inPort c op) :
    s.endOp = { s with store := op.apply s.store, port := s.port.freed } := by
  obtain ⟨⟨since, spent, h⟩, -⟩ := h
  simp only [State.endOp, h, StorePort.freed]

theorem State.inPort.inFlight (h : s.inPort c op) : s.inFlight = some c := by
  obtain ⟨⟨since, spent, h⟩, -⟩ := h
  simp only [State.inFlight, h, Option.map_some]

theorem State.inPort.notMem (h : s.inPort c op) : c ∉ s.port.failed := h.2

/-- A free port has nothing in flight. -/
theorem State.unanswered.inFlight (h : s.unanswered c) : s.inFlight = none := by
  simp only [State.inFlight, h.1, Option.map_none]

/-- The answer of failure taken. -/
theorem State.takeFailed_eq : s.takeFailed c = { s with port := s.port.told c } := rfl

/-- The end of a long operation's work. -/
theorem State.endLong_eq {r : Option (List Byte)} (h : s.tl.longOp = some ⟨code, tag, w, r⟩) (rc : ReplyCode)
    (results : List Byte) : s.endLong rc results = { s with tl := s.tl.ended code tag rc results } := by
  simp only [State.endLong, h, Trunk.ended]

/-- The work of a long operation moved on. -/
theorem State.setWork_eq {r : Option (List Byte)} (h : s.tl.longOp = some ⟨code, tag, w, r⟩) (w' : Work) :
    s.setWork w' = { s with tl := { s.tl with longOp := some ⟨code, tag, w', r⟩ } } := by
  simp only [State.setWork, h]

/-- Everything the begin of a JOURNAL ERASE can do (R146, R154): wait, answer NOT_UPLOADED, or ask for the first
operation of its work, and that only with every record uploaded and nothing of the journal in flight. -/
theorem State.beginErase_cases (P : State → Prop) (h0 : P s) (hn : P (s.endLong .notUploaded []))
    (hw : ∀ (l : LongOp) (w : Work) (op : StoreOp), s.tl.longOp = some l → l.work = .eraseWait →
      s.allUploaded = true → s.port.outstanding .append = false →
      P (({ s with tl := { s.tl with longOp := some { l with work := w } } } : State).request .longOp op)) :
    P s.beginErase := by
  unfold State.beginErase
  split
  · next l hl =>
    split
    · next hc =>
      split
      · exact hn
      · next hu =>
        have hu : s.allUploaded = true := by simpa using hu
        split <;> exact hw l _ _ hl hc.1 hu hc.2.1
    · exact h0
  · exact h0

/-- What raising an event does to the link depends on the link and the run clock alone (R182). -/
theorem State.raise_tl_congr {t : State} (hl : t.tl = s.tl) (hb : t.tb = s.tb) (e : Event) (d : Word) :
    (t.raise e d).tl = (s.raise e d).tl := by
  simp only [State.raise, hl]
  (repeat' split) <;> simp [State.queueNotice, hl, hb]; (repeat' split) <;> simp_all

/-- A store failure leaves an engine without a read as it is, and stalls one that reads (R132, R166). -/
theorem State.failStore_upload (d : Word) (s : State) :
    (s.port.outstanding .upload = false →
      (s.failStore d).ue = s.ue ∧ (s.failStore d).tl = (s.raise .storeFault d).tl) ∧
    (s.port.outstanding .upload = true →
      (s.failStore d).ue = { s.rewindUpload.ue with state := .stalled } ∧
        (s.failStore d).tl = ((s.raise .storeFault d).rewindUpload.raise .uploadStalled 1#32).tl) := by
  unfold State.failStore
  dsimp only
  refine ⟨fun h => ?_, fun h => ?_⟩
  · rw [State.discardQueue_ue, State.discardQueue_tl, h, if_neg (by simp), State.cutOps_eq]
    simp
  · rw [State.discardQueue_ue, State.discardQueue_tl, h, if_pos rfl, State.failUploadRead_ue]
    refine ⟨?_, ?_⟩
    · rw [State.rewindUpload_ue_congr (s := s)]
      all_goals (rw [State.cutOps_eq]; simp)
    · unfold State.failUploadRead State.stallUpload
      apply State.raise_tl_congr
      · rw [State.setUpload_tl, State.rewindUpload_tl, State.rewindUpload_tl, State.cutOps_eq]; simp
      · rw [State.setUpload_tb, State.rewindUpload_tb, State.rewindUpload_tb, State.cutOps_eq]; simp

/-! ### A link break (R168, R172) -/

theorem State.putBack_eq (s : State) : s.putBack = { s with ue := s.putBack.ue } := by
  unfold State.putBack; split <;> rfl

theorem State.closeGathering_eq (s : State) : s.closeGathering = { s with ue := s.closeGathering.ue } := by
  unfold State.closeGathering; simp only []; split <;> rfl

/-- A rewind of the pointer touches the engine, and takes from it a frame in transmission. -/
theorem State.rewindPointer_eq (s : State) : s.rewindPointer =
    { s with ue := s.rewindPointer.ue, tl := { s.tl with tx := s.tl.tx.map Transmission.disown } } := by
  obtain ⟨u, h⟩ : ∃ u, s.rewindPointer = State.closeGathering
      { s with ue := u, tl := { s.tl with tx := s.tl.tx.map Transmission.disown } } := by
    unfold State.rewindPointer
    split <;> exact ⟨_, rfl⟩
  rw [h, State.closeGathering_eq]

/-- The rewind of a break touches the engine and the clients of the port, and takes a frame in transmission from the
engine (R168). -/
theorem State.breakUpload_eq (s : State) : s.breakUpload =
    { s with ue := s.breakUpload.ue, port := s.breakUpload.port,
             tl := { s.tl with tx := s.tl.tx.map Transmission.disown } } := by
  obtain ⟨u, p, h⟩ : ∃ u p, s.breakUpload = State.rewindPointer { s with ue := u, port := p } := by
    refine ⟨s.putBack.ue, s.putBack.leaveUploadRead.port, ?_⟩
    unfold State.breakUpload
    rw [State.leaveUploadRead, State.putBack_eq]
  rw [h, State.rewindPointer_eq]

end Sys2Proof.Machine
end

