-- ==== Sys2Proof/Laws/Receive.lean ====
section
/-! SUPPORT. What events, framing errors and items do to the trunk link and to the channels, and the mismatches of a
sync pattern. -/

namespace Sys2Proof.Machine

/-- The trunk link with other event flags, notices and overrun mark. -/
def Trunk.signal (t u : Trunk) : Trunk := { t with flags := u.flags, notices := u.notices, overrun := u.overrun }

theorem Trunk.signal_self (t : Trunk) : t.signal t = t := rfl

theorem Trunk.signal_trans {t u v : Trunk} (h : u = t.signal u) (k : v = u.signal v) : v = t.signal v := by
  rw [k, h]; rfl

/-- A notice touches the notice queue, the overrun mark and a counter. -/
theorem State.queueNotice_tl (n : Notice) (s : State) :
    (s.queueNotice n).tl = s.tl.signal (s.queueNotice n).tl := by
  unfold State.queueNotice; split <;> rfl

/-- An event touches flags, notices, overrun mark and a counter. -/
theorem State.raise_tl (e : Event) (d : Word) (s : State) : (s.raise e d).tl = s.tl.signal (s.raise e d).tl := by
  unfold State.raise
  dsimp only
  split
  · rfl
  · split
    · exact Trunk.signal_trans (u := ({ s with tl := { s.tl with flags := s.tl.flags ||| (1#16 <<< e.number) } }).tl)
        rfl (State.queueNotice_tl _ _)
    · rfl

/-- A raised event has its flag set. -/
theorem State.raise_flag (e : Event) (d : Word) (s : State) : (s.raise e d).tl.flags.getLsbD e.number = true := by
  have hn : e.number < 16 := by cases e <;> decide
  have hq : ∀ (n : Notice) (t : State), (t.queueNotice n).tl.flags = t.tl.flags := by
    intro n t; unfold State.queueNotice; split <;> rfl
  unfold State.raise
  dsimp only
  split
  · assumption
  · have : (s.tl.flags ||| (1#16 <<< e.number)).getLsbD e.number = true := by
      simp [hn]
    split
    · rw [hq]; exact this
    · exact this

/-- The notice queue gains at most one notice, and only where it has room (R180). -/
theorem State.queueNotice_notices (n : Notice) (s : State) :
    (s.queueNotice n).tl.notices.length ≤ max s.tl.notices.length 16 := by
  unfold State.queueNotice
  split
  · rename_i h; simp only [noticeRoom] at h; simp only [List.length_append, List.length_singleton]; omega
  · exact Nat.le_max_left _ _

/-- The same for an event. -/
theorem State.raise_notices (e : Event) (d : Word) (s : State) :
    (s.raise e d).tl.notices.length ≤ max s.tl.notices.length 16 := by
  unfold State.raise
  dsimp only
  split
  · omega
  · split
    · exact State.queueNotice_notices _ _
    · exact Nat.le_max_left _ _

/-! ### Items -/

/-- What an item leaves of a channel, and what of the trunk link. -/
theorem State.noiseError_tl (c : Fin 8) (s : State) : (s.noiseError c).tl = s.tl.signal (s.noiseError c).tl := by
  unfold State.noiseError
  dsimp only
  split
  · exact State.raise_tl _ _ _
  · rfl

theorem State.putSlot_tl (c : Fin 8) (r : FrameRecord) (s : State) :
    (s.putSlot c r).tl = s.tl.signal (s.putSlot c r).tl := by
  unfold State.putSlot
  dsimp only
  split
  · rfl
  · exact State.raise_tl _ _ _

theorem State.completeBody_tl (c fam : Fin 8) (m v : Nat) (bits : List Bool) (s : State) :
    (s.completeBody c fam m v bits).tl = s.tl.signal (s.completeBody c fam m v bits).tl := by
  unfold State.completeBody
  dsimp only
  repeat' split
  · exact State.putSlot_tl _ _ _
  · exact State.noiseError_tl _ _
  · exact State.noiseError_tl _ _

theorem State.bodyBit_tl (c fam : Fin 8) (m v : Nat) (bits : List Bool) (b : Bool) (s : State) :
    (s.bodyBit c fam m bits v b).tl = s.tl.signal (s.bodyBit c fam m bits v b).tl := by
  unfold State.bodyBit
  split
  · exact State.completeBody_tl _ _ _ _ _ _
  · rfl

theorem State.frameItem_tl (c : Fin 8) (it : Item) (s : State) :
    (s.frameItem c it).tl = s.tl.signal (s.frameItem c it).tl := by
  unfold State.frameItem
  split
  · rfl
  · rw [State.huntBit_tl]; rfl
  · rfl
  · exact State.bodyBit_tl _ _ _ _ _ _ _
  · split
    · exact State.noiseError_tl _ _
    · exact State.bodyBit_tl _ _ _ _ _ _ _
  · exact State.noiseError_tl _ _


/-! ### Channels -/

theorem channels_set_other (v : Vector Channel 8) (i j : Fin 8) (x : Channel) (h : i ≠ j) : (v.set i x)[j] = v[j] := by
  have : i.val ≠ j.val := fun e => h (Fin.ext e)
  simp [this]

/-- frameItem leaves other channels -/
theorem State.frameItem_other (c d : Fin 8) (h : c ≠ d) (it : Item) (s : State) : (s.frameItem c it).channels[d] = s.channels[d] := by
  have hn : ∀ t : State, (t.noiseError c).channels[d] = t.channels[d] := by
    intro t; unfold State.noiseError; dsimp only; split <;> simp only [State.raise_channels, State.setChannel_channels] <;> exact channels_set_other _ _ _ _ h
  have hp : ∀ (r : FrameRecord) (t : State), (t.putSlot c r).channels[d] = t.channels[d] := by
    intro r t; unfold State.putSlot; dsimp only; split
    · exact channels_set_other _ _ _ _ h
    · simp
  have hpl : ∀ t : State, (t.placeFramer c).channels[d] = t.channels[d] := fun t => channels_set_other _ _ _ _ h
  have hsf : ∀ (f : Framer) (t : State), (t.setFramer c f).channels[d] = t.channels[d] := fun f t => channels_set_other _ _ _ _ h
  have hcb : ∀ f m v bits (t : State), (t.completeBody c f m v bits).channels[d] = t.channels[d] := by
    intro f m v bits t; unfold State.completeBody; dsimp only
    repeat' split
    all_goals simp only [hn, hp, hpl, State.bump_channels]
  have hbb : ∀ f m bits v b (t : State), (t.bodyBit c f m bits v b).channels[d] = t.channels[d] := by
    intro f m bits v b t; unfold State.bodyBit; split <;> simp only [hcb, hsf]
  unfold State.frameItem
  split
  · rfl
  · unfold State.huntBit; dsimp only; split <;> simp only [hsf]
  · simp only [hsf]
  · simp only [hbb]
  · split <;> simp only [hn, hbb, hpl, State.bump_channels]
  · simp only [hn, hpl, State.bump_channels]

/-- congruence: channel c after frameItem depends on the channel c, ports, families, tb alone -/
theorem State.frameItem_congr (c : Fin 8) (it : Item) (s t : State) (hc : s.channels[c] = t.channels[c]) (hp : s.ports = t.ports)
   (hf : s.families = t.families) (ht : s.tb = t.tb) : (s.frameItem c it).channels[c] = (t.frameItem c it).channels[c] := by
  have sc : ∀ (v : Vector Channel 8) (x : Channel), (v.set c x)[c] = x := by intro v x; simp
  have hfr : ∀ s t : State, s.channels[c] = t.channels[c] → s.ports = t.ports → s.families = t.families → s.freshFramer c = t.freshFramer c := by
    intro s t a b d; simp only [State.freshFramer, State.framerRuns, State.effective, a, b, d]; rfl
  have hn : ∀ s t : State, s.channels[c] = t.channels[c] → (s.noiseError c).channels[c] = (t.noiseError c).channels[c] := by
    intro s t a; unfold State.noiseError; dsimp only; rw [a]
    split <;> simp only [State.raise_channels, State.setChannel_channels, sc]
  have hpl : ∀ s t : State, s.channels[c] = t.channels[c] → s.ports = t.ports → s.families = t.families → (s.placeFramer c).channels[c] = (t.placeFramer c).channels[c] := by
    intro s t a b d; simp only [State.placeFramer, State.setFramer, State.setChannel_channels, sc, hfr s t a b d, a]
  have hputs : ∀ (r : FrameRecord) (s t : State), s.channels[c] = t.channels[c] → (s.putSlot c r).channels[c] = (t.putSlot c r).channels[c] := by
    intro r s t a; unfold State.putSlot; dsimp only; rw [a]; split
    · simp only [State.setChannel_channels, sc]
    · simpa using a
  have hcb : ∀ f m v bits, (s.completeBody c f m v bits).channels[c] = (t.completeBody c f m v bits).channels[c] := by
    intro f m v bits; unfold State.completeBody State.frameRecord; dsimp only; rw [hf, ht]
    repeat' split
    · apply hputs; exact hpl s t hc hp hf
    · apply hn; exact hpl s t hc hp hf
    · apply hn; exact hpl s t hc hp hf
  have hbb : ∀ f m bits v b, (s.bodyBit c f m bits v b).channels[c] = (t.bodyBit c f m bits v b).channels[c] := by
    intro f m bits v b; unfold State.bodyBit; rw [hf]; split
    · exact hcb _ _ _ _
    · simp only [State.setFramer, State.setChannel_channels, sc, hc]
  obtain ⟨fr, hfm⟩ : ∃ fr, t.channels[c].framer = fr := ⟨_, rfl⟩
  have hfm' : s.channels[c].framer = fr := hc ▸ hfm
  have hsf : ∀ f, (s.setFramer c f).channels[c] = (t.setFramer c f).channels[c] := by
    intro f; simp only [State.setFramer, State.setChannel_channels, sc, hc]
  unfold State.frameItem
  rw [hfm, hfm']
  cases fr with
  | off => exact hc
  | hunt w n => cases it with
    | bit b =>
      have : s.syncFamily c (pushBit w b) (n + 1) = t.syncFamily c (pushBit w b) (n + 1) := by
        unfold State.syncFamily State.effective; simp only [hc, hf]
      obtain ⟨o, ho⟩ : ∃ o, t.syncFamily c (pushBit w b) (n + 1) = o := ⟨_, rfl⟩
      rw [ho] at this
      cases o with
      | none => simp only [State.huntBit, this, ho]; exact hsf _
      | some f => simp only [State.huntBit, this, ho, hf]; exact hsf _
    | violation => exact hsf _
    | loss => exact hsf _
  | body f m bits v => cases it with
    | bit b => exact hbb _ _ _ _ _
    | violation =>
      dsimp only
      split
      · exact hn _ _ (hpl s t hc hp hf)
      · exact hbb _ _ _ _ _
    | loss => exact hn _ _ (hpl s t hc hp hf)

theorem State.frameItem_source (c d : Fin 8) (it : Item) (s : State) : (s.frameItem c it).channels[d].source = s.channels[d].source := by
  by_cases h : c = d
  · subst h
    have sc : ∀ (v : Vector Channel 8) (x : Channel), (v.set c x)[c] = x := by intro v x; simp
    have hn : ∀ t : State, (t.noiseError c).channels[c].source = t.channels[c].source := by
      intro t; unfold State.noiseError; dsimp only; split <;> simp only [State.raise_channels, State.setChannel_channels, sc]
    have hp : ∀ (r : FrameRecord) (t : State), (t.putSlot c r).channels[c].source = t.channels[c].source := by
      intro r t; unfold State.putSlot; dsimp only; split
      · simp only [State.setChannel_channels, sc]
      · simp
    have hsf : ∀ (f : Framer) (t : State), (t.setFramer c f).channels[c].source = t.channels[c].source := by
      intro f t; simp only [State.setFramer, State.setChannel_channels, sc]
    have hpl : ∀ t : State, (t.placeFramer c).channels[c].source = t.channels[c].source := fun t => hsf _ t
    have hcb : ∀ f m v bits (t : State), (t.completeBody c f m v bits).channels[c].source = t.channels[c].source := by
      intro f m v bits t; unfold State.completeBody; dsimp only
      repeat' split
      all_goals simp only [hn, hp, hpl, State.bump_channels]
    have hbb : ∀ f m bits v b (t : State), (t.bodyBit c f m bits v b).channels[c].source = t.channels[c].source := by
      intro f m bits v b t; unfold State.bodyBit; split <;> simp only [hcb, hsf]
    unfold State.frameItem
    split
    · rfl
    · unfold State.huntBit; dsimp only; split <;> simp only [hsf]
    · simp only [hsf]
    · simp only [hbb]
    · split <;> simp only [hn, hbb, hpl, State.bump_channels]
    · simp only [hn, hpl, State.bump_channels]
  · rw [State.frameItem_other c d h]


/-- One step of a delivery. -/
theorem State.deliver_eq (p : Fin 8) (it : Item) (s : State) :
    s.deliver p it = eight.foldl (fun t c => if t.channels[c].source = some p then t.frameItem c it else t) s := rfl

/-- A property that each framer's item keeps is kept by a delivery. -/
theorem State.deliver_induct (P : State → Prop) (p : Fin 8) (it : Item)
    (h : ∀ (t : State) (c : Fin 8), P t → P (t.frameItem c it)) (s : State) (hs : P s) : P (s.deliver p it) := by
  rw [State.deliver_eq]
  generalize eight = l
  induction l generalizing s with
  | nil => exact hs
  | cons a l ih =>
    rw [List.foldl_cons]
    apply ih
    split
    · exact h _ _ hs
    · exact hs

/-- What a delivery leaves of a channel: its framer's item where it is mapped to the port (R5). -/
theorem State.deliver_channel (p : Fin 8) (it : Item) (s : State) (c : Fin 8) :
    (s.deliver p it).channels[c] =
      if s.channels[c].source = some p then (s.frameItem c it).channels[c] else s.channels[c] := by
  have key : ∀ (l : List (Fin 8)) (s : State), l.Nodup →
      (l.foldl (fun t c => if t.channels[c].source = some p then t.frameItem c it else t) s).channels[c] =
        if c ∈ l ∧ s.channels[c].source = some p then (s.frameItem c it).channels[c] else s.channels[c] := by
    intro l
    induction l with
    | nil => intro s _; simp
    | cons a l ih =>
      intro s hnd
      obtain ⟨ha, hl⟩ := List.nodup_cons.1 hnd
      rw [List.foldl_cons, ih _ hl]
      by_cases hs : s.channels[a].source = some p
      · simp only [hs, if_true]
        by_cases hca : a = c
        · subst hca; simp [ha, hs, -Fin.getElem_fin]
        · have hc := State.frameItem_other a c hca it s
          rw [hc, State.frameItem_congr c it (s.frameItem a it) s hc (by simp) (by simp) (by simp)]
          simp [Ne.symm hca]
      · simp only [hs, if_false]
        by_cases hca : c = a
        · subst hca; simp [hs, -Fin.getElem_fin]
        · simp [hca]
  have hm : ∀ c : Fin 8, c ∈ eight := by decide
  rw [State.deliver_eq, key eight s (by decide)]
  simp [hm c, -Fin.getElem_fin]

theorem State.deliver_tl (p : Fin 8) (it : Item) (s : State) :
    (s.deliver p it).tl = s.tl.signal (s.deliver p it).tl :=
  State.deliver_induct (fun t => t.tl = s.tl.signal t.tl) p it
    (fun t c h => Trunk.signal_trans h (State.frameItem_tl c it t)) s rfl

@[simp] theorem State.deliver_pending (p : Fin 8) (it : Item) (s : State) : (s.deliver p it).pending = s.pending :=
  State.deliver_induct (fun t => t.pending = s.pending) p it (fun t c h => by rw [State.frameItem_pending, h]) s rfl
@[simp] theorem State.deliver_powered (p : Fin 8) (it : Item) (s : State) : (s.deliver p it).powered = s.powered :=
  State.deliver_induct (fun t => t.powered = s.powered) p it (fun t c h => by rw [State.frameItem_powered, h]) s rfl
@[simp] theorem State.deliver_freeIndex (p : Fin 8) (it : Item) (s : State) : (s.deliver p it).freeIndex = s.freeIndex :=
  State.deliver_induct (fun t => t.freeIndex = s.freeIndex) p it (fun t c h => by rw [State.frameItem_freeIndex, h]) s rfl
@[simp] theorem State.deliver_ports (p : Fin 8) (it : Item) (s : State) : (s.deliver p it).ports = s.ports :=
  State.deliver_induct (fun t => t.ports = s.ports) p it (fun t c h => by rw [State.frameItem_ports, h]) s rfl
@[simp] theorem State.deliver_families (p : Fin 8) (it : Item) (s : State) : (s.deliver p it).families = s.families :=
  State.deliver_induct (fun t => t.families = s.families) p it (fun t c h => by rw [State.frameItem_families, h]) s rfl
@[simp] theorem State.deliver_tb (p : Fin 8) (it : Item) (s : State) : (s.deliver p it).tb = s.tb :=
  State.deliver_induct (fun t => t.tb = s.tb) p it (fun t c h => by rw [State.frameItem_tb, h]) s rfl
@[simp] theorem State.deliver_rm (p : Fin 8) (it : Item) (s : State) : (s.deliver p it).rm = s.rm :=
  State.deliver_induct (fun t => t.rm = s.rm) p it (fun t c h => by rw [State.frameItem_rm, h]) s rfl
@[simp] theorem State.deliver_cl (p : Fin 8) (it : Item) (s : State) : (s.deliver p it).cl = s.cl :=
  State.deliver_induct (fun t => t.cl = s.cl) p it (fun t c h => by rw [State.frameItem_cl, h]) s rfl
@[simp] theorem State.deliver_mc (p : Fin 8) (it : Item) (s : State) : (s.deliver p it).mc = s.mc :=
  State.deliver_induct (fun t => t.mc = s.mc) p it (fun t c h => by rw [State.frameItem_mc, h]) s rfl
@[simp] theorem State.deliver_rules (p : Fin 8) (it : Item) (s : State) : (s.deliver p it).rules = s.rules :=
  State.deliver_induct (fun t => t.rules = s.rules) p it (fun t c h => by rw [State.frameItem_rules, h]) s rfl
@[simp] theorem State.deliver_store (p : Fin 8) (it : Item) (s : State) : (s.deliver p it).store = s.store :=
  State.deliver_induct (fun t => t.store = s.store) p it (fun t c h => by rw [State.frameItem_store, h]) s rfl
@[simp] theorem State.deliver_port (p : Fin 8) (it : Item) (s : State) : (s.deliver p it).port = s.port :=
  State.deliver_induct (fun t => t.port = s.port) p it (fun t c h => by rw [State.frameItem_port, h]) s rfl
@[simp] theorem State.deliver_startup (p : Fin 8) (it : Item) (s : State) : (s.deliver p it).startup = s.startup :=
  State.deliver_induct (fun t => t.startup = s.startup) p it (fun t c h => by rw [State.frameItem_startup, h]) s rfl
@[simp] theorem State.deliver_storeFailed (p : Fin 8) (it : Item) (s : State) : (s.deliver p it).storeFailed = s.storeFailed :=
  State.deliver_induct (fun t => t.storeFailed = s.storeFailed) p it (fun t c h => by rw [State.frameItem_storeFailed, h]) s rfl
@[simp] theorem State.deliver_journal (p : Fin 8) (it : Item) (s : State) : (s.deliver p it).journal = s.journal :=
  State.deliver_induct (fun t => t.journal = s.journal) p it (fun t c h => by rw [State.frameItem_journal, h]) s rfl
@[simp] theorem State.deliver_ue (p : Fin 8) (it : Item) (s : State) : (s.deliver p it).ue = s.ue :=
  State.deliver_induct (fun t => t.ue = s.ue) p it (fun t c h => by rw [State.frameItem_ue, h]) s rfl

/-! ### The sync pattern (R15) -/

/-- Counting along a list by a fold. -/
theorem foldl_countP (p : Nat → Bool) (l : List Nat) (n : Nat) :
    l.foldl (fun acc i => if p i then acc + 1 else acc) n = n + l.countP p := by
  induction l generalizing n with
  | nil => simp
  | cons a l ih => simp only [List.foldl_cons, List.countP_cons]; rw [ih]; split <;> omega

/-- Of the first `n` numbers, those below `m` that `q` accepts. -/
theorem countP_range_lt (m n : Nat) (q : Nat → Bool) :
    (List.range n).countP (fun i => decide (i < m) && q i) = (List.range (min m n)).countP q := by
  induction n with
  | zero => simp
  | succ n ih =>
    rw [List.range_succ, List.countP_append, ih]
    by_cases h : n < m
    · rw [show min m (n + 1) = min m n + 1 by omega, List.range_succ, List.countP_append, show min m n = n by omega]
      simp [h]
    · rw [show min m (n + 1) = min m n by omega]; simp [h]

/-- The mismatches are the bit positions below the sync length at which window and pattern differ (R15). -/
theorem Family.mismatches_eq (f : Family) (w : Word) :
    f.mismatches w = (List.range f.syncLen).countP (fun i => w.getLsbD i != f.pattern.getLsbD i) := by
  have bit : ∀ i, (((w ^^^ f.pattern) &&& BitVec.ofNat 32 (2 ^ f.syncLen - 1)).getLsbD i)
      = (decide (i < f.syncLen) && (w.getLsbD i != f.pattern.getLsbD i)) := by
    intro i
    rw [BitVec.getLsbD_and, BitVec.getLsbD_xor, BitVec.getLsbD_ofNat, Nat.testBit_two_pow_sub_one]
    by_cases h : i < 32
    · simp [h, Bool.and_comm]
    · simp [h, BitVec.getLsbD_of_ge w i (by omega), BitVec.getLsbD_of_ge f.pattern i (by omega)]
  have short : ∀ m, (List.range m).countP (fun i => w.getLsbD i != f.pattern.getLsbD i)
      = (List.range (min m 32)).countP (fun i => w.getLsbD i != f.pattern.getLsbD i) := by
    intro m
    induction m with
    | zero => simp
    | succ m ih =>
      by_cases h : m < 32
      · rw [show min (m + 1) 32 = m + 1 by omega]
      · rw [List.range_succ, List.countP_append, ih, show min (m + 1) 32 = min m 32 by omega]
        simp [BitVec.getLsbD_of_ge w m (by omega), BitVec.getLsbD_of_ge f.pattern m (by omega)]
  unfold Family.mismatches popCount
  rw [foldl_countP, Nat.zero_add, short, ← countP_range_lt]
  exact List.countP_congr (fun i _ => by simp only [bit i])

end Sys2Proof.Machine
end

