-- ==== Sys2Proof/Tests/Slice0.lean ====
section
/-! SUPPORT. Tests with figures taken from the manual, and for every statement that has hypotheses a witness that
meets them. -/

set_option Elab.async false

open Sys2Proof Sys2Proof.Machine

namespace Sys2Proof.Tests

/-! ### Well-formed commands: one ill-formed term for each check -/

theorem test_ill_formed_long_body : (Instr.status 0#8 (List.replicate 1024 0#8)).wellFormed = false := by decide +kernel
theorem test_well_formed_longest_body : (Instr.status 0#8 (List.replicate 1023 0#8)).wellFormed = true := by decide +kernel
theorem test_ill_formed_unknown_names_status : (Instr.unknownCommand 0#8 0x90#8 []).wellFormed = false := by decide
theorem test_ill_formed_unknown_long_body :
    (Instr.unknownCommand 0#8 0xFF#8 (List.replicate 1024 0#8)).wellFormed = false := by decide +kernel
theorem test_ill_formed_rate : (Instr.linkTuned 4294967296).wellFormed = false := by decide

/-! ### Figures of the manual -/

/-- The nine characters "123456789" of the CRC figures of R19. -/
def digits : List Byte := [0x31#8, 0x32#8, 0x33#8, 0x34#8, 0x35#8, 0x36#8, 0x37#8, 0x38#8, 0x39#8]

/-- R19, the table's last column. -/
theorem test_crc_k1_figure : crcK1 digits = 0x29B1#16 := by decide +kernel
theorem test_crc_k2_figure : crcK2 digits = 0xC2B7#16 := by decide +kernel

/-- R47: the nine bytes of the digest's figure. -/
theorem test_digest_figure : crc32 digits = 0xFC891918#32 := by decide +kernel

/-- R41, the three examples of home buckets with the bucket's store address. -/
theorem test_home_bucket_1 : homeBucket 1#32 = 2531 ∧ bucketAddr 2531 = 779008 := by decide +kernel
theorem test_home_bucket_2 : homeBucket 2#32 = 966 ∧ bucketAddr 966 = 378368 := by decide +kernel
theorem test_home_bucket_3 : homeBucket 3#32 = 3498 ∧ bucketAddr 3498 = 1026560 := by decide +kernel

/-- R134: the image is 379 bytes long; R188: 32-byte records. -/
theorem test_image_length : (imageBytes State.reset.settings).length = 379 := by decide +kernel

/-- R184: counter numbers of the table. -/
theorem test_counter_numbers :
    (Counter.slotOverflow 7).index = 55 ∧ Counter.replaySkip.index = 57 ∧ Counter.joinDrop.index = 62
      ∧ Counter.unstored.index = 71 ∧ Counter.eraseSuspends.index = 76 ∧ Counter.liveDrop.index = 87 := by decide

/-- Section 6.5: the inputs of a worked case with one family seen, the expected one. -/
def screened (M v P dp C T seconds : Nat) : ScreenOut :=
  screen { value := v, modulus := M, prior := some (P, dp), seconds := BitVec.ofNat 32 seconds, timeValid := true,
           rule := ⟨C, T, 0⟩, expected := some 0, seen := 1#8, clash := false, indicators := 0#8, unsteady := false,
           last := none }

/-- Section 6.5, "Rollover, forward". -/
theorem test_screen_rollover :
    screened 1000000 1430 998750 9131 120 5 (9162 * 86400) = ⟨0#16, 1430, 2680, some 86, some 31⟩ := by decide +kernel

/-- Section 6.5, "Reversal" (with the days of section 10.3). -/
theorem test_screen_reversal :
    screened 1000000 45180 45210 9150 200 5 (9162 * 86400) = ⟨flagReversed, 45180, 0, some 0, some 12⟩ := by
  decide +kernel

/-- Section 6.5, "Overrate". -/
theorem test_screen_overrate :
    screened 100000 20400 20000 9159 50 5 (9162 * 86400) = ⟨flagOverrate, 20400, 400, some 133, some 3⟩ := by
  decide +kernel

/-- Section 10.3, second pass: B's re-read is UNSTEADY against L = 310,900, with rate 72. -/
theorem test_screen_second_pass :
    (let i : ScreenIn := { value := 310870, modulus := 1000000, prior := some (310000, 9150),
                           seconds := BitVec.ofNat 32 (9162 * 86400), timeValid := true, rule := ⟨200, 5, 0⟩,
                           expected := some 0, seen := 1#8, clash := false, indicators := 0#8, unsteady := false,
                           last := some 310900 }
     ((screen i).flags, (screen i).rate)) = (flagUnsteady, some 72) := by decide +kernel

/-- Section 9.2: the layout of a link frame, here a TIME READ command frame with tag 5 (code 21H), six bytes before the
CRC. -/
theorem test_frame_layout : (frameBytes 0x01#8 0x05#8 [0x21#8]).take 6
    = [0xA5#8, 0x00#8, 0x01#8, 0x01#8, 0x05#8, 0x21#8] := by decide +kernel

/-! ### States for tests and witnesses -/

/-- A part whose start-up is over, with an empty journal, no route and a tuned link. -/
def base : State :=
  { State.reset with
    startup := .over,
    journal := { Journal.reset with
      state := .ready, tail := 18, head := 18, headNext := 1, ahead := 493, cursorSector := 18, cursorSlot := 1 },
    ue := { UploadEngine.reset with sector := 18 },
    rm := { RouteManager.reset with state := .empty },
    tl := { Trunk.reset with rate := some 115200 } }

/-- A long operation at work. -/
def held (code : Byte) (w : Work) : State := { base with tl := { base.tl with longOp := some ⟨code, 5#8, w, none⟩ } }

/-- A client's operation in the port. -/
def porting (s : State) (c : Client) (op : StoreOp) : State :=
  { s with port := { StorePort.idle with active := some ⟨c, op, 0#32, 0⟩ } }

/-- A client's request answered failed. -/
def refused (s : State) (c : Client) : State := { s with port := { StorePort.idle with failed := [c] } }

/-- A start-up phase. -/
def starting (ph : StartPhase) : State := { base with startup := ph }

/-- A command frame with tag 1 stands in the inbound buffer. -/
def asking (code : Byte) (args : List Byte) (s : State) : State :=
  { s with tl := { s.tl with inbound := [⟨1#8, code :: args⟩] } }

/-- Nothing of R176 and R186 but the frame itself decides whether a frame in the buffer is taken. -/
theorem asking_takes (code : Byte) (args : List Byte) {s : State} (hp : s.powered = true)
    (h : (asking 0#8 [] s).canTake ⟨1#8, [0#8]⟩ = true) : (asking code args s).takes 1#8 code args :=
  ⟨hp, by simpa [State.canTake, asking] using h⟩

/-- With its frame in the buffer, a command is taken; taken with the unit free; taken as a setting command. -/
abbrev taken (code : Byte) (args : List Byte) (s : State) : Prop := (asking code args s).takes 1#8 code args
abbrev accepted (code : Byte) (args : List Byte) (s : State) : Prop := (asking code args s).accepts 1#8 code args
abbrev acceptedSetting (code : Byte) (args : List Byte) (s : State) : Prop :=
  (asking code args s).acceptsSetting 1#8 code args

theorem base_accepts (code : Byte) (args : List Byte) : accepted code args base :=
  ⟨asking_takes code args rfl rfl, rfl⟩

theorem base_acceptsSetting (code : Byte) (args : List Byte) : acceptedSetting code args base :=
  ⟨base_accepts code args, fun h => by cases h⟩

theorem held_working (code : Byte) (w : Work) : (held code w).working code 5#8 w := ⟨rfl, rfl⟩

theorem porting_inPort (s : State) (c : Client) (op : StoreOp) : (porting s c op).inPort c op :=
  ⟨⟨_, _, rfl⟩, by simp [porting, StorePort.idle]⟩

theorem porting_working (code : Byte) (w : Work) (op : StoreOp) :
    (porting (held code w) .longOp op).working code 5#8 w ∧ (porting (held code w) .longOp op).inPort .longOp op :=
  ⟨⟨rfl, rfl⟩, porting_inPort _ _ _⟩

theorem refused_unanswered (s : State) (c : Client) : (refused s c).unanswered c := ⟨rfl, by simp [refused]⟩

theorem refused_working (code : Byte) (w : Work) :
    (refused (held code w) .longOp).working code 5#8 w ∧ (refused (held code w) .longOp).unanswered .longOp :=
  ⟨⟨rfl, rfl⟩, refused_unanswered _ _⟩

/-- A part in a route state. -/
def routed (st : RouteState) : State := { base with rm := { base.rm with state := st } }

/-- The state after a command. -/
def after (c : Instr) (s : State) : State :=
  match exec c s with
  | .next t => t
  | _ => s

/-- The state after a command of the link whose frame stands in the inbound buffer. -/
def ask (c : Instr) (s : State) : State :=
  match c.form? with
  | some f => after c (asking f.code f.args s)
  | none => s

/-! ### Witnesses: the machine as a whole -/

/-- A command taken; one that finds the unit held; one of the wrong length; one during the scan. -/
theorem witness_CommandFramesTakenBusyOrMalformed :
    Instr.form? (.ruleSet 1#8 [0#8]) = some ⟨0x60#8, 1#8, [0#8], false, false, true⟩
      ∧ base.powered = true ∧ (held 0x30#8 (.clear 17)).tl.longOp ≠ none
      ∧ taken 0x60#8 [0#8] (held 0x30#8 (.clear 17)) ∧ taken 0x60#8 [0#8] base
      ∧ base.journal.state ≠ .scanning ∧ accepted 0x60#8 [0#8, 0#8, 0#8, 0#8, 0#8] State.reset
      ∧ State.reset.journal.state = .scanning ∧ taken 0x60#8 [0#8] State.reset
      ∧ base.canTake ⟨1#8, [0x60#8, 0#8]⟩ = false :=
  ⟨rfl, rfl, by decide, asking_takes _ _ rfl rfl, asking_takes _ _ rfl rfl, by decide,
    ⟨asking_takes _ _ rfl rfl, rfl⟩, rfl, asking_takes _ _ rfl rfl, rfl⟩

/-- R177: UTILITY SET while a ROUTE CLOSE holds the unit is BUSY, at any length and in any route state (log 41). -/
theorem test_utility_set_during_a_close :
    (let closing (st : RouteState) (w : Work) : State := { held 0x35#8 w with rm := { base.rm with state := st } }
     let code (args : List Byte) (s : State) := ((ask (.utilitySet 1#8 args) s).tl.reply).map (·.body)
     (code [1#8] (closing .opened .closeWalks), code [0#8] (closing .opened .closeWalks),
       code [0#8] (closing .closed (.closeEnd true)))) = (some [0x45#8, 1#8], some [0x45#8, 1#8], some [0x45#8, 1#8]) := by decide +kernel

/-- R176: the frame taken is the oldest of the buffer, and no other. -/
theorem test_oldest_frame :
    (let s := { base with tl := { base.tl with inbound := [⟨1#8, [0x90#8]⟩, ⟨2#8, [0x21#8]⟩] } }
     (s.canTake ⟨1#8, [0x90#8]⟩, s.canTake ⟨2#8, [0x21#8]⟩)) = (true, false) := by decide +kernel

/-- A safe state and its step, for each invariant. -/
theorem witness_StepKeepsStoreForm : base.storeOk ∧ step base = .next base := ⟨by decide, rfl⟩
theorem witness_StepKeepsQueueBounds : base.queuesOk ∧ step base = .next base :=
  ⟨by unfold State.queuesOk; decide +kernel, rfl⟩
theorem base_settingsOk : base.settingsOk :=
  ⟨by decide, by decide, by unfold Family.fits; decide +kernel, by decide,
    fun | 0 | 1 | 2 | 3 | 4 | 5 | 6 | 7 => rfl, by unfold Rule.fits; decide +kernel, by decide, by decide⟩

theorem witness_StepKeepsCountersInRange : base.countersOk ∧ base.settingsOk ∧ step base = .next base :=
  ⟨by unfold State.countersOk; decide +kernel, base_settingsOk, rfl⟩
theorem witness_StepKeepsUploadWindow : base.windowOk ∧ step base = .next base :=
  ⟨⟨by decide, fun _ _ h => by simp [base, Trunk.reset] at h, .inl rfl⟩, rfl⟩
theorem witness_StepKeepsAcknowledgedSerial : base.ackOk ∧ step base = .next base := ⟨⟨rfl, by decide⟩, rfl⟩

/-! ### Chapter 1 -/

/-- A family of 16 sync bits and twelve body bytes. -/
def family0 : Family := ⟨true, 16, 0x2DD4#32, 1, 12, 0, 4, 4, 4, .bin, 8, 0xFF#8, .k1⟩

/-- Port 0 in NRZ, channel 0 looking for family 0. -/
def hunting : State :=
  { base with
    ports := base.ports.set 0 { Port.reset with settings := ⟨.nrz, false, 4800, false⟩ },
    families := base.families.set 0 family0,
    channels := base.channels.set 0 { Channel.reset 0 with mask := 1#8, framer := .hunt 0#32 0 } }

/-- Channel 0 with a framer and its noise count one below the threshold. -/
def framing (f : Framer) : State :=
  { hunting with
    channels := hunting.channels.set 0 { Channel.reset 0 with mask := 1#8, framer := f, windowCount := 15 } }

/-- The body of meter 1 with value 12,400. -/
def body1 : List Byte :=
  let d := beBytes 4 1 ++ beBytes 4 12400 ++ [0#8, 0#8]
  d ++ beBytes 2 (crcK1 d).toNat

/-- Bytes as bits, most significant first. -/
def bitsOf (bs : List Byte) : List Bool := bs.flatMap (fun x => (List.range 8).map (fun i => x.getLsbD (7 - i)))

theorem witness_SampledItemsFollowThePortMode : hunting.powered = true := rfl

/-- OFF; HUNT with and without a hit; BODY short of its end, with violations below and at the limit. -/
theorem witness_FramerTakesItems :
    base.channels[(0 : Fin 8)].framer = .off ∧ hunting.channels[(0 : Fin 8)].framer = .hunt 0#32 0
      ∧ (framing (.hunt 0x16EA#32 31)).channels[(0 : Fin 8)].framer = .hunt 0x16EA#32 31
      ∧ (framing (.body 0 0 [] 6)).channels[(0 : Fin 8)].framer = .body 0 0 [] 6
      ∧ ([] : List Bool).length + 1 < 8 * (framing (.body 0 0 [] 6)).families[(0 : Fin 8)].bodyLen := by decide +kernel

/-- Section 1.3: the last bit of the sync pattern matches family 0 exactly. -/
theorem test_sync_match :
    (after (.syncMatch 0 ⟨false, false⟩) (framing (.hunt 0x16EA#32 31))).channels[(0 : Fin 8)].framer
      = .body 0 0 [] 0 := by decide +kernel

/-- The last body bit of a frame; an eighth violation; a loss. -/
theorem witness_FrameEndsInRecordOrError :
    (framing (.body 0 0 ((bitsOf body1).take 95) 6)).channels[(0 : Fin 8)].framer
        = .body 0 0 ((bitsOf body1).take 95) 6
      ∧ 8 * (framing (.body 0 0 [] 0)).families[(0 : Fin 8)].bodyLen = ((bitsOf body1).take 95).length + 1
      ∧ (framing (.body 0 0 [] 7)).channels[(0 : Fin 8)].framer = .body 0 0 [] 7
      ∧ 95 / 8 < (bitsOf body1).length / 8 ∧ 9 < (0x1A#8 : Byte).toNat % 16 ∧ (0x99#8 : Byte).toNat / 16 ≤ 9 := by
  decide +kernel

/-- A frame whose CRC agrees leaves a record with the meter's ID and value. -/
theorem test_frame_record :
    ((after (.frameBodyComplete 0 ⟨(bitsOf body1).getLast!, false⟩)
        (framing (.body 0 0 ((bitsOf body1).take 95) 0))).channels[(0 : Fin 8)].slots.map (fun r => (r.meterId, r.value)))
      = [(1#32, 12400)] := by decide +kernel

/-- Port 0 feeds channel 0; a hit in HUNT; the last body bit; the eighth violation in MAN. -/
theorem witness_FramerRowsAreTheirItems :
    (framing (.hunt 0x16EA#32 31)).channels[(0 : Fin 8)].source = some 0
      ∧ (framing (.hunt 0x16EA#32 31)).ports[(0 : Fin 8)].item ⟨false, false⟩ = some (.bit false, none)
      ∧ (framing (.hunt 0x16EA#32 31)).syncFamily 0 (pushBit 0x16EA#32 false) 32 = some 0
      ∧ 8 * (framing (.body 0 0 [] 0)).families[(0 : Fin 8)].bodyLen = ((bitsOf body1).take 95).length + 1
      ∧ ({ Port.reset with settings := ⟨.man, false, 4800, false⟩ } : Port).item ⟨true, true⟩
          = some (.violation, some true) := by decide +kernel

/-- A body but for its last bit, of family 0 and of a family whose value is in decimal digits. -/
def lastBit (fam : Family) : State :=
  let s := framing (.body 0 0 (List.replicate 95 true) 0)
  { s with families := s.families.set 0 fam }

/-- Section 1.5, the example's N = 16: the sixteenth error of a window, brought by a violation, by a carrier loss, or by
the last body bit. -/
theorem witness_CarrierAndNoiseRows :
    (framing (.body 0 0 [] 7)).channels[(0 : Fin 8)].source = some 0
      ∧ (framing (.body 0 0 [] 7)).channels[(0 : Fin 8)].noisy = false
      ∧ (framing (.body 0 0 [] 7)).channels[(0 : Fin 8)].threshold
          ≤ min 255 ((framing (.body 0 0 [] 7)).channels[(0 : Fin 8)].windowCount + 1)
      ∧ ({ Port.reset with settings := ⟨.man, false, 4800, true⟩, carrier := true } : Port).item ⟨true, true⟩
          = some (.violation, some true)
      ∧ (lastBit family0).channels[(0 : Fin 8)].framer = .body 0 0 (List.replicate 95 true) 0
      ∧ (lastBit family0).ports[(0 : Fin 8)].item ⟨true, true⟩ = some (.bit true, none)
      ∧ 8 * (lastBit family0).families[(0 : Fin 8)].bodyLen ≤ (List.replicate 95 true).length + 1
      ∧ family0.crcOk (bytesOfBits (List.replicate 95 true ++ [true])) = false
      ∧ ({ family0 with encoding := .bcd, crc := .none } : Family).value?
          (bytesOfBits (List.replicate 95 true ++ [true])) = none := by decide +kernel

/-- R24: the sixteenth error is a CRCERR, or a BADVALUE, at the last body bit. -/
theorem test_noisy_at_the_last_bit :
    (let t := after (.noisy 0 (.item ⟨true, true⟩)) (lastBit family0)
     let u := after (.noisy 0 (.item ⟨true, true⟩)) (lastBit { family0 with encoding := .bcd, crc := .none })
     (t.channels[(0 : Fin 8)].noisy, t.count (.crcErr 0), u.channels[(0 : Fin 8)].noisy, u.count (.badValue 0)))
      = (true, 1, true, 1) := by decide +kernel

/-- A qualified carrier lost in BODY: CUT, the sixteenth error, and the channel is NOISY. -/
theorem test_noisy_at_sixteen :
    (let s := framing (.body 0 0 [] 0)
     let t := after (.noisy 0 .carrierLoss) { s with
       ports := s.ports.set 0 { Port.reset with settings := ⟨.nrz, false, 4800, true⟩, carrier := true } }
     (t.channels[(0 : Fin 8)].noisy, t.channels[(0 : Fin 8)].windowCount, t.count (.cut 0))) = (true, 16, 1) := by
  decide +kernel

/-- A port in CHECK mode with a checker. -/
def checking (k : Checker) : State :=
  { base with ports := base.ports.set 0 { Port.reset with settings := ⟨.check, false, 4800, false⟩, checker := k } }

/-- SEARCH filling, filled, one short of lock; LOCKED with few and with fifteen wrong outcomes; CHECK READ. -/
theorem witness_CheckerFollowsTheSequence :
    (checking .start).powered = true ∧ (checking .start).ports[(0 : Fin 8)].settings.mode = .check
      ∧ (checking .start).ports[(0 : Fin 8)].checker.filled < 9
      ∧ (checking ⟨.search, 1#9, 9, 31, 0, 0, []⟩).ports[(0 : Fin 8)].checker.run = 31
      ∧ (checking ⟨.locked, 1#9, 9, 32, 0, 0, List.replicate 15 true⟩).ports[(0 : Fin 8)].checker.phase = .locked
      ∧ ((true :: List.replicate 15 true).take 64).count true = 16
      ∧ base.ports[(0 : Fin 8)].settings.mode ≠ .check
      ∧ (asking 0x14#8 [0#8] (checking .start)).canTake ⟨1#8, [0x14#8, 0#8]⟩ = true
      ∧ (checking .start).tl.longOp = none := by decide +kernel

/-- R6: the thirty-second agreement in a row locks the checker. -/
theorem test_pn9_locked :
    (after (.pn9Locked 0 false) (checking ⟨.search, 1#9, 9, 31, 0, 0, []⟩)).ports[(0 : Fin 8)].checker.phase
      = .locked := by decide +kernel

/-- R7: the sixteenth wrong outcome of the last 64 loses the sequence. -/
theorem test_pn9_lost :
    (after (.pn9Lost 0 true) (checking ⟨.locked, 1#9, 9, 32, 0, 0, List.replicate 15 true⟩)).ports[(0 : Fin 8)].checker.phase
      = .lost := by decide +kernel

/-- Every argument in range and each out of it; port 0 feeds channel 0. -/
theorem witness_PortAndChannelSettings :
    acceptedSetting 0x10#8 [0#8, 1#8, 0#8, 0#8, 0#8, 3#8, 0xE8#8, 1#8] hunting
      ∧ numAt [0#8, 1#8, 0#8, 0#8, 0#8, 3#8, 0xE8#8, 1#8] 3 4 = 1000
      ∧ numAt [7#8, 3#8, 1#8, 0#8, 1#8, 0x86#8, 0xA1#8, 0#8] 3 4 = 100001
      ∧ acceptedSetting 0x11#8 [7#8, 255#8] hunting ∧ acceptedSetting 0x13#8 [0#8, 3#8, 255#8] hunting
      ∧ hunting.channels[(0 : Fin 8)].source = some 0
      ∧ (framing (.body 0 0 [] 0)).channels[(0 : Fin 8)].framer = .body 0 0 [] 0 :=
  ⟨⟨⟨asking_takes _ _ rfl rfl, rfl⟩, by decide +kernel⟩, by decide, by decide,
    ⟨⟨asking_takes _ _ rfl rfl, rfl⟩, by decide +kernel⟩,
    ⟨⟨asking_takes _ _ rfl rfl, rfl⟩, by decide +kernel⟩, by decide +kernel, by decide +kernel⟩

/-- R9: PORT SET to CHECK starts the checker, and the reply carries the settings. -/
theorem test_port_set :
    (ask (.portSet 1#8 [2#8, 3#8, 1#8, 0#8, 0#8, 0x12#8, 0xC0#8, 0#8]) base).ports[(2 : Fin 8)].settings
      = ⟨.check, true, 4800, false⟩ := by decide +kernel

/-- R22: PORT SET aborts the frame of the channel that the port feeds, with RECONF. -/
theorem test_port_set_reconf :
    (let t := ask (.portSet 1#8 [0#8, 1#8, 0#8, 0#8, 0#8, 0x12#8, 0xC0#8, 0#8]) (framing (.body 0 0 [] 0))
     (t.count (.reconf 0), t.channels[(0 : Fin 8)].framer)) = (1, .hunt 0#32 0) := by decide +kernel

/-- FAMILY SET with its arguments in range, at a boundary, and refused while a frame of the family is taken. -/
def familyArgs : List Byte :=
  [0#8, 1#8, 16#8, 0#8, 0#8, 0x2D#8, 0xD4#8, 1#8, 12#8, 0#8, 4#8, 4#8, 4#8, 0#8, 8#8, 0xFF#8, 1#8]

theorem witness_FamilySetReplacesTheEntry :
    familyArgs.length = 17 ∧ acceptedSetting 0x12#8 familyArgs base
      ∧ acceptedSetting 0x12#8 familyArgs (framing (.body 0 0 [] 0))
      ∧ (framing (.body 0 0 [] 0)).channels[(0 : Fin 8)].framer = .body 0 0 [] 0
      ∧ natAt familyArgs 8 - 2 = natAt familyArgs 14 + 2 :=
  ⟨rfl, base_acceptsSetting _ _, ⟨⟨asking_takes _ _ rfl rfl, rfl⟩, by decide +kernel⟩, by decide +kernel, by decide⟩

theorem test_family_set : (ask (.familySet 1#8 familyArgs) base).families[(0 : Fin 8)] = family0 := by decide +kernel

/-! ### Chapter 2 -/

/-- A part whose pulse is PRESENT in CONTINUOUS mode; section 2.5. -/
def pulsing (run : Nat) (ms : Nat) (last : Option Nat) (expiry : Option Nat) : State :=
  { base with tb := { TimeBase.reset with
      runClock := BitVec.ofNat 32 run, todSeconds := 1000#32, todMs := ms, timeValid := true, mode := .continuous,
      present := last.isSome, lastEdge := last.map (BitVec.ofNat 32), lossExpiry := expiry.map (BitVec.ofNat 32) } }

/-- A millisecond inside a run-clock second and one that ends it. -/
theorem witness_MillisecondMovesTheClocks :
    base.powered = true ∧ (base.tb.runClock + 1).toNat % 1000 ≠ 0
      ∧ ((pulsing 999 999 none none).tb.runClock + 1).toNat % 1000 = 0 := by decide +kernel

/-- Section 2.5: a glitch, an accepted edge, OFF; and the loss expiry reached. -/
theorem witness_PulseEdgesAndTheirLoss :
    (pulsing 700310 314 (some 700000) (some 701500)).powered = true
      ∧ (pulsing 700310 314 (some 700000) (some 701500)).tb.lastEdge = some 700000#32
      ∧ ((700310#32 : Word) - 700000#32).toNat < 500 ∧ (pulsing 746720 724 none none).tb.present = false
      ∧ base.tb.mode = .off ∧ (pulsing 703500 504 (some 702000) (some 703500)).tb.lossExpiry = some 703500#32
      ∧ ((703500#32 : Word) - 703500#32).toNat < 2 ^ 31 := by decide +kernel

/-- Section 2.5, the edge at 746,720: aligned forward by 276 ms. -/
theorem test_edge_aligns :
    (let t := (after .tpiEdge (pulsing 746720 724 none none)).tb
     (t.todSeconds, t.todMs, t.snapshot, t.present)) = (1001#32, 0, -276, true) := by decide +kernel

/-- Section 2.5, the edge at 700,310: a glitch. -/
theorem test_edge_glitch :
    (after .tpiEdge (pulsing 700310 314 (some 700000) (some 701500))).count .tpiGlitch = 1 := by decide +kernel

/-- Section 2.5, the loss at 703,500. -/
theorem test_pulse_lost :
    (after .pulseLost (pulsing 703500 504 (some 702000) (some 703500))).tb.present = false := by decide +kernel

/-- Boundary arguments of TIME SET and PULSE MODE. -/
theorem witness_TimeBaseCommands :
    accepted 0x20#8 [0#8, 0#8, 0#8, 1#8, 0x03#8, 0xE7#8] base ∧ numAt [0#8, 0#8, 0#8, 1#8, 0x03#8, 0xE7#8] 4 2 = 999
      ∧ numAt [0#8, 0#8, 0#8, 1#8, 0x03#8, 0xE8#8] 4 2 = 1000 ∧ taken 0x21#8 [] base
      ∧ acceptedSetting 0x22#8 [3#8, 250#8] base ∧ acceptedSetting 0x22#8 [4#8, 251#8] base :=
  ⟨base_accepts _ _, by decide, by decide, ⟨rfl, rfl⟩, base_acceptsSetting _ _, base_acceptsSetting _ _⟩

/-! ### Chapter 3 -/

/-- Attributes of the meters of section 10.3. -/
def attrs3 : RouteAttrs := ⟨0, 1, 17, .both, 3, 6, 45210, 9150⟩

/-- A store with one route record, of meter 1 with index 0, in the first slot of its home bucket. -/
def oneRecord : Memory := Memory.cells (bucketAddr 2531) (routeRecordBytes ⟨1#32, 0, attrs3⟩)

/-- A route of one meter, its tables built. -/
def driven (st : MeterStatus) : State :=
  { routed .opened with
    store := oneRecord
    rm := { RouteManager.reset with
      state := .opened, meterCount := 1, firstSerial := 1, openDay := 9162, built := true,
      status := [⟨1#32, 17, st, none, none⟩],
      segments := (Vector.replicate 256 SegmentEntry.empty).set 17 ⟨1, 0, 0, 0, false⟩ }
    cl := { Classifier.reset with policy := .both } }

theorem witness_RouteClearErasesTheDirectory :
    accepted 0x30#8 [] base ∧ (porting (held 0x30#8 (.clear 1)) .longOp (.erase 17)).working 0x30#8 5#8 (.clear 1)
      ∧ (porting (held 0x30#8 (.clear 1)) .longOp (.erase 17)).inPort .longOp (.erase 17)
      ∧ (porting (held 0x30#8 (.clear 17)) .longOp (.erase (18 - 17))).working 0x30#8 5#8 (.clear 17)
      ∧ (porting (held 0x30#8 (.clear 2)) .longOp (.erase (18 - 2))).inPort .longOp (.erase (18 - 2)) ∧ base.pending = []
      ∧ (refused (held 0x30#8 (.clear 17)) .longOp).unanswered .longOp :=
  ⟨base_accepts _ _, (porting_working _ _ _).1, porting_inPort _ _ _, (porting_working _ _ _).1, porting_inPort _ _ _,
    rfl, refused_unanswered _ _⟩

/-- R44: the last erase of a clear leaves LOADING. -/
theorem test_clear_done :
    (after .routeClearDone (porting (held 0x30#8 (.clear 1)) .longOp (.erase 17))).rm.state = .loading := by
  decide +kernel

/-- A load of one record and of thirty; its program, its read, its failure. -/
theorem witness_RouteLoadTakesRecordsInOrder :
    accepted 0x31#8 (1#8 :: zeros 32) (routed .loading)
      ∧ (1#8 :: zeros 32).length = 1 + 32 * natAt (1#8 :: zeros 32) 0
      ∧ (30#8 :: zeros 960).length = 1 + 32 * natAt (30#8 :: zeros 960) 0
      ∧ (porting (held 0x31#8 (.load [zeros 32] 0 1 1)) .longOp (.program 0 [0#8])).working 0x31#8 5#8 (.load [zeros 32] 0 1 1)
      ∧ (porting (held 0x31#8 (.load [zeros 32] 0 1 4)) .longOp (.read 0 256)).inPort .longOp (.read 0 256)
      ∧ (refused (held 0x31#8 (.load [zeros 32] 0 1 1)) .longOp).unanswered .longOp :=
  ⟨⟨asking_takes _ _ rfl rfl, rfl⟩, by decide +kernel, by decide +kernel, (porting_working _ _ _).1, porting_inPort _ _ _,
    refused_unanswered _ _⟩

/-- R41: an empty store ends a probe as absent in its first slot; the one record is found; a bucket of damaged slots is
passed. -/
theorem witness_ProbeFollowsTheSlots :
    judgeDir (Memory.bytes [] (131072 + 256 * 966) 32) = .erased
      ∧ judgeDir (oneRecord.bytes (131072 + 256 * 2531) 32) = .valid ⟨1#32, 0, attrs3⟩
      ∧ judgeDir (Memory.bytes (Memory.cells 131072 [1#8]) 131072 32) = .damaged := by decide +kernel

theorem test_probe_finds : oneRecord.examine 1#32 2531 8 = (some (.found ⟨1#32, 0, attrs3⟩), 0) := by decide +kernel

/-- The commands; the ends of their reads over a whole and an unfinished directory; their failures. -/
theorem witness_FinishAndDigestReadTheDirectory :
    accepted 0x32#8 [] base ∧ accepted 0x33#8 [] base
      ∧ (porting (held 0x32#8 (.finishRead 1)) .longOp (.read 0 65536)).working 0x32#8 5#8 (.finishRead 1)
      ∧ (porting (held 0x33#8 (.digest 1)) .longOp (.read 0 65536)).inPort .longOp (.read 0 65536)
      ∧ (porting (held 0x32#8 (.finishRead 16)) .longOp (.read 131072 65536)).working 0x32#8 5#8 (.finishRead 16)
      ∧ (porting (held 0x33#8 (.digest 2)) .longOp (.read 1048576 65536)).working 0x33#8 5#8 (.digest 2)
      ∧ (driven .unread).rm.meterCount ≠ 0 ∧ oneRecord.damagedBuckets = []
      ∧ oneRecord.routeRecords.length = (driven .unread).rm.meterCount
      ∧ oneRecord.routeRecords.any (fun r => r.index == 0) = true ∧ base.rm.meterCount = 0
      ∧ (refused (held 0x32#8 (.finishRead 16)) .longOp).unanswered .longOp
      ∧ (refused (held 0x33#8 (.digest 16)) .longOp).unanswered .longOp :=
  ⟨base_accepts _ _, base_accepts _ _, (porting_working _ _ _).1, porting_inPort _ _ _, (porting_working _ _ _).1,
    (porting_working _ _ _).1, by decide +kernel,
    by decide +kernel, by decide +kernel, by decide +kernel, by decide, refused_unanswered _ _, refused_unanswered _ _⟩

/-- R47: a refused finish carries the counts found: one record, no damaged slot, one record of segment 17. -/
theorem test_finish_counts :
    (let bs := oneRecord.finishCounts
     (bs.length, bs.take 4, slice bs 38 2, slice bs 40 2)) = (516, [0#8, 1#8, 0#8, 0#8], [0#8, 1#8], [0#8, 0#8]) := by
  decide +kernel

theorem witness_RouteOpenBuildsTheTables :
    accepted 0x34#8 [] (routed .ready)
      ∧ (porting (held 0x34#8 (.openRead 1)) .longOp (.read 0 65536)).working 0x34#8 5#8 (.openRead 1)
      ∧ (porting (held 0x34#8 (.openRead 1)) .longOp (.read 0 65536)).inPort .longOp (.read 0 65536)
      ∧ (porting (held 0x34#8 (.openRead 16)) .longOp (.read 131072 65536)).working 0x34#8 5#8 (.openRead 16)
      ∧ (porting (held 0x34#8 (.openRead 2)) .longOp (.read 1048576 65536)).working 0x34#8 5#8 (.openRead 2)
      ∧ oneRecord.routeRecords.length = (driven .unread).rm.meterCount ∧ oneRecord.damagedBuckets = []
      ∧ Memory.damagedBuckets (Memory.cells 131072 [1#8]) = [0] ∧ oneRecord.wf
      ∧ judgeDir (zeros 32) = .damaged ∧ judgeDir (List.replicate 32 0xFF#8) = .erased
      ∧ (refused (held 0x34#8 (.openRead 16)) .longOp).unanswered .longOp :=
  ⟨⟨asking_takes _ _ rfl rfl, rfl⟩, (porting_working _ _ _).1, porting_inPort _ _ _, (porting_working _ _ _).1,
    (porting_working _ _ _).1, by decide +kernel, by decide +kernel, by decide +kernel, by decide +kernel,
    by decide +kernel, by decide +kernel, refused_unanswered _ _⟩

/-- R49: an open of one meter of an active utility builds one UNREAD entry. -/
theorem test_open_builds :
    (after .routeOpenReadDone { porting (held 0x34#8 (.openRead 1)) .longOp (.read 0 65536) with
        store := oneRecord, rm := { base.rm with state := .ready, meterCount := 1 } }).rm.status
      = [⟨1#32, 17, .unread, none, none⟩] := by decide +kernel

/-- R49: the read of sector 2 counts its damaged slot at once, in bucket 0. -/
theorem test_damaged_at_the_sector :
    (let s := { porting (held 0x34#8 (.openRead 16)) .longOp (.read 131072 65536) with store := [(131072, 1#8)] }
     (s.idle.count .dirCrc, s.idle.tl.notices)) = (1, [.event 5 0#32 0x0020#16 0#32]) := by decide +kernel

/-- A header record in a slot of sector 1. -/
def headerAt (i : Nat) : Memory := Memory.cells (65536 + 32 * i) (headerBytes ⟨.opened, 1, 0#32, 1, 9162⟩)

theorem witness_HeaderWritesMoveTheRouteState :
    (held 0x32#8 (.finishHeader 1)).startup ≠ .resumeClose
      ∧ (porting (held 0x32#8 (.finishHeader 1)) .longOp (.program 65536 [0#8])).working 0x32#8 5#8 (.finishHeader 1)
      ∧ (porting (held 0x34#8 (.openHeader 1 9162)) .longOp (.program 65536 [0#8])).inPort .longOp (.program 65536 [0#8])
      ∧ (porting (held 0x35#8 .closeHeader) .longOp (.program 65536 [0#8])).working 0x35#8 5#8 .closeHeader
      ∧ (refused (held 0x32#8 (.finishHeader 1)) .longOp).unanswered .longOp
      ∧ (refused (held 0x34#8 (.openHeader 1 9162)) .longOp).unanswered .longOp
      ∧ (refused (held 0x35#8 .closeHeader) .longOp).unanswered .longOp
      ∧ Memory.wf (headerAt 0) ∧ Memory.wf (headerAt 2047)
      ∧ headerOf? ((headerAt 2047).bytes (65536 + 32 * 2047) 32) = some ⟨.opened, 1, 0#32, 1, 9162⟩
      ∧ erasedBytes ((headerAt 0).bytes 65536 32) = false ∧ erasedBytes ((headerAt 0).bytes (65536 + 32) 32) = true
      ∧ (porting (held 0x35#8 .closeHeader) .longOp (.erase 1)).inPort .longOp (.erase 1)
      ∧ (porting (held 0x32#8 (.finishHeader 1)) .longOp (.erase 1)).working 0x32#8 5#8 (.finishHeader 1)
      ∧ (porting (held 0x34#8 (.openHeader 1 9162)) .longOp (.erase 1)).pending = [] :=
  ⟨by decide, (porting_working _ _ _).1, porting_inPort _ _ _, (porting_working _ _ _).1, refused_unanswered _ _,
    refused_unanswered _ _, refused_unanswered _ _, by decide +kernel, by decide +kernel, by decide +kernel,
    by decide +kernel, by decide +kernel, porting_inPort _ _ _, (porting_working _ _ _).1, rfl⟩

/-- R42: the header that follows the first goes to slot 1; the full sector is erased first. -/
theorem test_header_op :
    (let op (i : Nat) := State.headerOp ⟨.closed, 1, 0#32, 1, 9162⟩ { base with store := headerAt i }
     ((op 0).start, (op 2047).isErase, (headerAt 2047).latestHeader.map (·.firstSerial))) = (65568, true, some 1) := by
  decide +kernel

theorem witness_RouteCloseRunsItsSteps :
    accepted 0x35#8 [] (driven .unread) ∧ (held 0x35#8 .closeWalks).working 0x35#8 5#8 .closeWalks
      ∧ (∀ w : Fin 4, (held 0x35#8 .closeWalks).cl.walks[w] = none) ∧ (held 0x35#8 .closeWalks).cl.held = none
      ∧ (held 0x35#8 (.closeEnd true)).settled.working 0x35#8 5#8 (.closeEnd true)
      ∧ (porting (held 0x35#8 (.closeEnd false)) .mark (.read 1179680 32)).ownRow
      ∧ (porting (held 0x35#8 (.closeEnd false)) .mark (.read 1179680 32)).settled.working 0x35#8 5#8 (.closeEnd false)
      ∧ (porting (held 0x35#8 .closeHeader) .longOp (.program 65536 [0#8])).inPort .longOp (.program 65536 [0#8])
      ∧ (refused (held 0x35#8 .closeHeader) .longOp).working 0x35#8 5#8 .closeHeader
      ∧ (refused (held 0x35#8 .closeHeader) .longOp).unanswered .longOp
      ∧ (∀ i : Fin 32, (held 0x35#8 .closeWalks).mc.table[i] = none) :=
  ⟨⟨asking_takes _ _ rfl rfl, rfl⟩, held_working _ _, by decide +kernel, rfl, ⟨by decide +kernel, by decide +kernel⟩,
    (by intro a h; cases h; decide), ⟨by decide +kernel, by decide +kernel⟩, porting_inPort _ _ _, ⟨rfl, rfl⟩,
    refused_unanswered _ _, by decide +kernel⟩

/-- R56: a store that fails between the end of the header write and ROUTE_CLOSE_DONE makes the reply STORE_FAULT. -/
theorem test_close_store_fault :
    ((after .routeCloseDone { held 0x35#8 (.closeEnd true) with storeFailed := true }).tl.longOp.bind (·.reply)).map
      (·.take 2) = some [0x35#8, 9#8] := by decide +kernel

theorem witness_RouteQueryProbesAndReports :
    accepted 0x36#8 [0#8, 0#8, 0#8, 1#8] (driven .unread)
      ∧ (porting (held 0x36#8 (.query 1#32 1)) .query (.read 779008 256)).working 0x36#8 5#8 (.query 1#32 1)
      ∧ (porting (held 0x36#8 (.query 1#32 4)) .query (.read 779008 256)).inPort .query (.read 779008 256)
      ∧ (refused (held 0x36#8 (.query 1#32 1)) .query).unanswered .query :=
  ⟨⟨asking_takes _ _ rfl rfl, rfl⟩, ⟨rfl, rfl⟩, porting_inPort _ _ _, refused_unanswered _ _⟩

theorem witness_SegmentReadAnswersTheCounts :
    accepted 0x37#8 [17#8] (driven .unread) ∧ (driven .unread).rm.state = .opened := ⟨⟨asking_takes _ _ rfl rfl, rfl⟩, rfl⟩

/-- R61: the reply for segment 17 of a route of one UNREAD meter. -/
theorem test_segment_read :
    ((ask (.segmentRead 1#8 [17#8]) (driven .unread)).tl.reply.map (fun r => r.body.take 10))
      = some [0x37#8, 0#8, 0#8, 1#8, 0#8, 0#8, 0#8, 0#8, 0#8, 0#8] := by decide +kernel

theorem witness_UnreadListReportsInOrder :
    accepted 0x38#8 [17#8, 0x3F#8, 0xFF#8] (driven .unread) ∧ 0x3F * 256 + 0xFF = 16383
      ∧ (driven .unread).rm.state = .opened :=
  ⟨⟨asking_takes _ _ rfl rfl, rfl⟩, rfl, rfl⟩

/-- R62: the one UNREAD meter is listed, with its index, and nothing follows. -/
theorem test_unread_list :
    ((ask (.unreadList 1#8 [17#8, 0#8, 0#8]) (driven .unread)).tl.reply.map (·.body))
      = some [0x38#8, 0#8, 1#8, 0#8, 0#8, 0#8, 1#8, 0#8, 0#8, 0xFF#8, 0xFF#8] := by decide +kernel

/-- The last meter of segment 17 is read: the segment and the route are done. -/
theorem witness_StatusChangesMoveTheSegment :
    (driven .unread).rm.segments[(17 : Fin 256)] = ⟨1, 0, 0, 0, false⟩ ∧ (driven .unread).rm.routeDone = false
      ∧ base.tl.mask.getLsbD 14 = true ∧ base.tl.mask.getLsbD 15 = true ∧ base.tl.notices.length < 16
      ∧ (0x3FFF#16).getLsbD 14 = false ∧ (0x3FFF#16).getLsbD 15 = false
      ∧ 16 ≤ (List.replicate 16 (Notice.event 0 0#32 0#16 0#32)).length := by
  decide +kernel

theorem test_segment_done :
    (let t := (driven .unread).moveSegment 17 .unread .flagged
     (t.rm.segments[(17 : Fin 256)], t.rm.routeDone, t.tl.notices.length)) = (⟨1, 0, 1, 1, true⟩, true, 2) := by
  decide +kernel

/-- A journal of one sector, 18, with one unmarked record of serial 1, of route index 0, in slot 1. -/
def oneEntry : Memory :=
  Memory.cells 1179648 (sectorHeaderBytes 1 1)
    ++ Memory.cells 1179680 (recordBytes ⟨1, 1#32, 0, .new, 0, 0, 12400, 0#32, 0, 0#16, 1, 3, 1#8, 17, 3, 1⟩ 0xFF#8)

/-- A replay that reads that record, of a meter with a status entry. -/
def replaying (st : MeterStatus) : State :=
  porting { driven st with
    startup := .replay 18 1 0 0, store := oneEntry, journal := { base.journal with headNext := 2, nextSerial := 2 } }
    .startup (.read 1179680 32)

theorem witness_StartUpTakesTheRouteHeader :
    (refused (starting .headerRead) .startup).startsAt .headerRead
      ∧ (refused (starting .headerRead) .startup).unanswered .startup
      ∧ (porting (starting .headerRead) .startup (.read 65536 65536)).inPort .startup (.read 65536 65536)
      ∧ (porting (starting .headerRead) .startup (.read 65536 65536)).store.latestHeader = none
      ∧ Memory.latestHeader (Memory.cells 65536 (headerBytes ⟨.opened, 1, 0#32, 1, 9162⟩))
          = some ⟨.opened, 1, 0#32, 1, 9162⟩
      ∧ (refused (starting (.rebuild 16)) .startup).startsAt (.rebuild 16)
      ∧ (porting (starting (.rebuild 1)) .startup (.read 0 65536)).inPort .startup (.read 0 65536)
      ∧ (refused (starting (.replay 18 1 0 0)) .startup).startsAt (.replay 18 1 0 0)
      ∧ (refused (starting (.replay 18 1 0 0)) .startup).settled = refused (starting (.replay 18 1 0 0)) .startup
      ∧ (replaying .unread).settled.startsAt (.replay 18 2 1 0)
      ∧ (replaying .unread).settled.port.failed = []
      ∧ (replaying .unread).settled.port.outstanding .startup = false
      ∧ (porting (starting .resumeClose) .startup (.program 65536 [0#8])).inPort .startup (.program 65536 [0#8])
      ∧ (porting (starting (.rebuild 16)) .startup (.read 131072 65536)).startsAt (.rebuild 16)
      ∧ (replaying .unread).startsAt (.replay 18 1 0 0) ∧ (replaying .unread).inPort .startup (.read 1179680 32)
      ∧ judgeJournal (oneEntry.bytes (18 * 65536 + 1 * 32) 32) = .valid (oneEntry.slot 18 1)
      ∧ recIndex (oneEntry.slot 18 1) = 0 ∧ (replaying .unread).rm.firstSerial ≤ recSerial (oneEntry.slot 18 1)
      ∧ (replaying .unread).rm.status[0]? = some ⟨1#32, 17, .unread, none, none⟩
      ∧ (replaying .excluded).rm.status[0]? = some ⟨1#32, 17, .excluded, none, none⟩
      ∧ judgeJournal (oneEntry.bytes (18 * 65536 + 2 * 32) 32) = .erased
      ∧ (porting (starting .resumeClose) .startup (.erase 1)).inPort .startup (.erase 1) :=
  ⟨⟨rfl, rfl⟩, refused_unanswered _ _, porting_inPort _ _ _, by decide +kernel, by decide +kernel, ⟨rfl, rfl⟩,
    porting_inPort _ _ _, ⟨rfl, rfl⟩, by decide +kernel, ⟨by decide +kernel, by decide +kernel⟩, by decide +kernel,
    by decide +kernel, porting_inPort _ _ _, ⟨rfl, rfl⟩, ⟨rfl, rfl⟩, porting_inPort _ _ _,
    by decide +kernel, by decide +kernel, by decide +kernel, rfl, rfl, by decide +kernel, porting_inPort _ _ _⟩

/-- R58, R59: the record is replayed into its entry, and the segment counted afterwards is done. -/
theorem test_replay :
    (let t := after .journalReplayDone (replaying .unread).idle
     (t.rm.status.map (fun e => (e.status, e.lastValue)), t.rm.segments[(17 : Fin 256)], t.rm.state))
      = ([(.read, some 12400)], ⟨1, 0, 1, 0, true⟩, .opened) := by decide +kernel

/-! ### Chapter 4 -/

/-- A frame of a meter. -/
def frameOf (id value : Nat) : FrameRecord := ⟨0, 0, BitVec.ofNat 32 id, value, 0#8, 3, 0#32, true⟩

/-- The range of section 4.9: FALLBACK at 30,000,000H with k = 12. -/
def fallback2 : RangeEntry := ⟨true, 0x30000000#32, 12, .fallback, 1, .both, 4, none⟩

/-- An open route with a range, and a walk in entry 0. -/
def walking (k : Walk) : State :=
  { driven .unread with
    cl := { (driven .unread).cl with
      ranges := Vector.replicate 8 RangeEntry.invalid |>.set 2 fallback2,
      walks := (Vector.replicate 4 none).set 0 (some k),
      pool := (Vector.replicate 16 none).set 0 (some (frameOf k.meterId.toNat 12400)) } }

/-- A cache entry at 0. -/
def cached (e : CacheEntry) : State :=
  { driven .unread with cl := { (driven .unread).cl with cache := (Vector.replicate 64 none).set 0 (some e) } }

theorem witness_FrameTakeServesTheChannelsInTurn :
    base.powered = true ∧ base.cl.stalled = false ∧ base.rm.state ≠ .resuming
      ∧ (∀ (w : Fin 4) (k : Walk), base.cl.walks[w] = some k → k.outcome = none) ∧ base.cl.held = none
      ∧ base.cl.stopped = false ∧ (∀ c : Fin 8, base.channels[c].slots = [])
      ∧ State.reset.rm.state = .resuming :=
  ⟨rfl, rfl, by decide, (by
    intro w k h
    have e : ∀ w : Fin 4, base.cl.walks[w] = none := by decide +kernel
    rw [e w] at h; cases h), rfl, rfl, by decide +kernel, rfl⟩

/-- A frame of meter 1 in the slots of channel 1, the route open. -/
def waitingFrame : State :=
  { driven .unread with channels := base.channels.set 1 { Channel.reset 1 with slots := [frameOf 1 12400] } }

/-- R131: a read that comes together with the end of the erase in flight, and is taken first, is served next with no
suspension; one that comes earlier suspends the erase. -/
theorem test_read_before_the_end :
    (let s := porting waitingFrame .reclaim (.erase 18)
     let late := after .reclaimEraseDone (after .frameTake { s with pending := [.reclaimEraseDone] })
     let early := after .frameTake s
     (late.inFlight, late.count .eraseSuspends, early.inFlight, early.count .eraseSuspends))
      = (some (.walk 0), 0, some (.walk 0), 1) := by decide +kernel

/-- R63: after channel 7 the turn comes to channel 0, then to channel 1. -/
theorem test_frame_take :
    (let t := after .frameTake waitingFrame
     (t.cl.lastServed, (t.cl.walks[(0 : Fin 4)]).map (fun k => (k.home, k.waiting)), t.count .walks))
      = (1, some (2531, [0]), 1) := by decide +kernel

/-- Closed and open routes; a range's ID and another; a cached meter and one that is not; a walk's meter. -/
theorem witness_ClassifierDecidesByTheFirstThatApplies :
    base.rm.state ≠ .opened ∧ (walking ⟨1#32, 2531, 1, none, [0]⟩).rm.state = .opened
      ∧ 0x3000A17 * 16 / 2 ^ 12 * 2 ^ 12 ≠ 0x30000000 ∧ 0x30000A17 / 2 ^ 12 * 2 ^ 12 = 0x30000000
      ∧ (cached ⟨.route 0 attrs3, 1#32, 0⟩).cl.cache[(0 : Fin 64)] = some ⟨.route 0 attrs3, 1#32, 0⟩
      ∧ (cached ⟨.foreign, 2#32, 0⟩).cl.cache[(0 : Fin 64)] = some ⟨.foreign, 2#32, 0⟩
      ∧ (∀ i : Fin 64, (driven .unread).cl.cache[i] = none)
      ∧ (walking ⟨1#32, 2531, 1, none, [0]⟩).cl.walks[(0 : Fin 4)] = some ⟨1#32, 2531, 1, none, [0]⟩
      ∧ (walking ⟨1#32, 2531, 1, none, [0]⟩).cl.pool[(1 : Fin 16)] = none
      ∧ (List.replicate 8 (0 : Fin 16)).length = 8 ∧ (∀ w : Fin 4, (driven .unread).cl.walks[w] = none)
      ∧ (driven .unread).cl.pool[(0 : Fin 16)] = none := by decide +kernel

/-- Section 4.9: a FOREIGN cache entry, then the FALLBACK range, then the merge table. -/
theorem test_foreign_entry_then_fallback :
    (let s := walking ⟨1#32, 2531, 1, none, [0]⟩
     let s := { s with cl := { s.cl with cache := (Vector.replicate 64 none).set 0 (some ⟨.foreign, 0x30000A17#32, 0⟩) } }
     ((s.classify (frameOf 0x30000A17 7)).mc.table[(0 : Fin 32)]).map (·.source))
      = some (.range 2 ⟨none, 1, .both, 4⟩) := by decide +kernel

theorem witness_BucketReadMovesTheWalk :
    (walking ⟨1#32, 2531, 1, none, [0]⟩).cl.walks[(0 : Fin 4)] = some ⟨1#32, 2531, 1, none, [0]⟩
      ∧ (porting (walking ⟨1#32, 2531, 1, none, [0]⟩) (.walk 0) (.read 779008 256)).inPort (.walk 0) (.read 779008 256)
      ∧ (walking ⟨1#32, 2531, 1, none, [0]⟩).powered = true :=
  ⟨by decide +kernel, porting_inPort _ _ _, rfl⟩

/-- R80: the home bucket holds the record. -/
theorem test_bucket_found :
    (after .bucketReadDone (porting (walking ⟨1#32, 2531, 1, none, [0]⟩) (.walk 0) (.read 779008 256))).cl.walks[(0 : Fin 4)]
      = some ⟨1#32, 2531, 1, some (.found ⟨1#32, 0, attrs3⟩), [0]⟩ := by decide +kernel

theorem witness_WalkCompletionsHandTheFramesOn :
    (walking ⟨1#32, 2531, 1, some (.found ⟨1#32, 0, attrs3⟩), [0]⟩).cl.walks[(0 : Fin 4)]
        = some ⟨1#32, 2531, 1, some (.found ⟨1#32, 0, attrs3⟩), [0]⟩
      ∧ (walking ⟨1#32, 2531, 1, some .notFound, [0]⟩).powered = true
      ∧ (walking ⟨1#32, 2531, 1, some .failed, [0]⟩).powered = true := by decide +kernel

/-- R83: the frame reaches the merge table with the record's source, and the buffer is free. -/
theorem test_walk_found :
    (let t := after (.walkCompleteFound 0) (walking ⟨1#32, 2531, 1, some (.found ⟨1#32, 0, attrs3⟩), [0]⟩)
     ((t.mc.table[(0 : Fin 32)]).map (·.source), t.cl.pool[(0 : Fin 16)], t.cl.walks[(0 : Fin 4)]))
      = (some (.route 0 attrs3), none, none) := by decide +kernel

/-- R85: frames of a failed walk are foreign, with the no-directory mark. -/
theorem test_walk_failed :
    ((after (.walkCompleteFailed 0) (walking ⟨1#32, 2531, 1, some .failed, [0]⟩)).mc.table[(0 : Fin 32)]).map
      (fun e => (e.source, e.noDir)) = some (.foreign, true) := by decide +kernel

theorem witness_CacheAgesStayAnOrder :
    (base.cacheOk ∧ step base = .next base) ∧ (cached ⟨.foreign, 2#32, 0⟩).cl.cache[(0 : Fin 64)] = some ⟨.foreign, 2#32, 0⟩
      ∧ (∀ a, a < 3 → (cached ⟨.foreign, 2#32, 0⟩).cl.cache.toList.countP (fun x => x.any (·.age == a))
          = if a < (cached ⟨.foreign, 2#32, 0⟩).cl.cache.toList.countP Option.isSome then 1 else 0) := by
  have hc : ∀ i : Fin 64, base.cl.cache[i] = none := by decide +kernel
  have hw : ∀ w : Fin 4, base.cl.walks[w] = none := by decide +kernel
  refine ⟨⟨⟨?_, ?_, ?_, ?_⟩, rfl⟩, by decide +kernel, by decide +kernel⟩
  · intro i e h
    rw [hc] at h
    cases h
  · intro i j e f h
    rw [hc] at h
    cases h
  · intro v w k l h
    rw [hw] at h
    cases h
  · intro i w e k h
    rw [hc] at h
    cases h

theorem witness_CacheCommands :
    accepted 0x40#8 [] base ∧ accepted 0x41#8 [63#8] base ∧ accepted 0x41#8 [64#8] base :=
  ⟨base_accepts _ _, base_accepts _ _, base_accepts _ _⟩

/-- RANGE SET of section 4.9's range, in range and overlapping; the other settings at their boundaries. -/
def rangeArgs2 : List Byte := [2#8, 0x30#8, 0#8, 0#8, 0#8, 12#8, 1#8, 1#8, 2#8, 4#8, 255#8]

theorem witness_ClassifierAndMergeSettings :
    acceptedSetting 0x42#8 rangeArgs2 base ∧ rangeArgs2.length = 11 ∧ numAt rangeArgs2 1 4 % 2 ^ 12 = 0
      ∧ fallback2.holds 0x30000000#32 = true ∧ acceptedSetting 0x43#8 [7#8] base ∧ acceptedSetting 0x44#8 [3#8] base
      ∧ acceptedSetting 0x45#8 [4#8, 0#8, 1#8, 2#8, 15#8] base ∧ base.rm.state ≠ .opened
      ∧ acceptedSetting 0x45#8 [1#8, 1#8] (driven .unread) ∧ acceptedSetting 0x50#8 [0#8, 100#8, 0#8, 0#8] base
      ∧ acceptedSetting 0x50#8 [0x27#8, 0x11#8, 0#8, 0#8] base :=
  ⟨base_acceptsSetting _ _, rfl, by decide, by decide, base_acceptsSetting _ _, base_acceptsSetting _ _,
    base_acceptsSetting _ _, by decide, ⟨⟨asking_takes _ _ rfl rfl, rfl⟩, by decide⟩, base_acceptsSetting _ _,
    base_acceptsSetting _ _⟩

theorem test_range_set : (ask (.rangeSet 1#8 rangeArgs2) base).cl.ranges[(2 : Fin 8)] = fallback2 := by decide +kernel

/-! ### Chapters 5 and 6 -/

/-- The entry of section 5.3's example after its first reception, at run clock 5,200,000. -/
def entry4 : MergeEntry :=
  (base.newEntry { frameOf 0x0041A7C2 123456 with quality := 18, channel := 2, family := 3 }
    (.route 0 { attrs3 with family := 3, prior := 123000 }) false)

/-- A merge table with an entry at 4. -/
def merging (e : MergeEntry) (s : State) : State := { s with mc := { s.mc with table := s.mc.table.set 4 (some e) } }

/-- A table in which every entry is in use. -/
def full : State := { base with mc := { base.mc with table := Vector.replicate 32 (some entry4) } }

theorem witness_ReceptionsMergeOrMakeEntries :
    (merging entry4 base).mc.table[(4 : Fin 32)] = some entry4 ∧ entry4.meterId = 0x0041A7C2#32
      ∧ (∀ j : Fin 32, base.mc.table[j] = none) ∧ (∀ j : Fin 32, full.mc.table[j] ≠ none)
      ∧ earliestEntry (fun _ => true) full.mc.table = some 0 := by decide +kernel

/-- Section 5.2's example: 123,457 goes forward, then 123,450 is a reversal and the kept value stays. -/
theorem test_merge_reversal :
    (let e := (entry4.merge (frameOf 0x0041A7C2 123457)).merge (frameOf 0x0041A7C2 123450)
     (e.kept, e.unsteady, e.count)) = (123457, true, 3) := by decide +kernel

theorem witness_EarliestEntryIsChosen :
    (∀ i : Fin 32, full.mc.table[i] = some entry4) ∧ (entry4.expiry - base.tb.runClock + 10000#32).toNat ≤ 20000 := by
  decide +kernel

/-- Section 5.3, "a full table": entries 9 and 22 are the earliest, and 9 is committed. -/
theorem test_earliest_of_equals :
    earliestEntry (fun _ => true)
      (((Vector.replicate 32 (some { entry4 with expiry := 7302181#32 })).set 9 (some { entry4 with expiry := 7302180#32 })).set
        22 (some { entry4 with expiry := 7302180#32 })) = some 9 := by decide +kernel

/-- A live queue of 64 frames, the one at `i` with an alarm flag. -/
def liveFull (i : Nat) : List LiveFrame :=
  (List.range 64).map (fun n => ⟨{ Reading.mk 0 1#32 0 .new 0 0 0 0#32 0 0#16 1 3 1#8 17 3 1 with
    meterId := BitVec.ofNat 32 n, flags := if n = i then flagReversed else 0#16 }, false⟩)

/-- The same route with its meter read a moment ago. -/
def readNow : State :=
  { driven .read with rm := { (driven .read).rm with status := [⟨1#32, 17, .read, some 123456, some 0#32⟩] } }

theorem witness_CommitMakesAReading :
    (merging entry4 (driven .unread)).mc.table[(4 : Fin 32)] = some entry4
      ∧ (merging entry4 { driven .unread with tb := { base.tb with runClock := entry4.expiry } }).powered = true
      ∧ (liveFull 0).length = 64
      ∧ (liveFull 0).map (fun g => g.reading.flags &&& 0x003F#16) = 1#16 :: List.replicate 63 0#16
      ∧ (liveFull 64).map (fun g => g.reading.flags &&& 0x003F#16) = List.replicate 64 0#16
      ∧ (driven .unread).rm.status[0]? = some ⟨1#32, 17, .unread, none, none⟩ ∧ (driven .unread).powered = true
      ∧ (entry4.expiry - entry4.expiry).toNat < 2 ^ 31
      ∧ (merging entry4 (driven .unread)).journal.queue.length < 64 ∧ (driven .unread).tl.live.length < 64
      ∧ 2 ^ 31 ≤ ((merging entry4 (driven .unread)).tb.runClock - entry4.expiry).toNat
      ∧ readNow.rm.status[0]? = some ⟨1#32, 17, .read, some 123456, some 0#32⟩
      ∧ ((merging entry4 readNow).tb.runSeconds - 0#32).toNat < readNow.mc.quiet
      ∧ (screen ((merging entry4 readNow).screenInput entry4)).flags &&& 0x003F#16 = 0#16 := by
  decide +kernel

/-- R100, R108: a second reading within Q is a REPEAT, and the first of the route is an offer. -/
theorem test_commit_counts :
    (((merging entry4 readNow).commit 4 true).2, ((merging entry4 (driven .unread)).commit 4 true).2)
      = (⟨true, false, false⟩, ⟨false, true, false⟩) := by decide +kernel

/-- A first commit of a route meter at run-clock second 0: READ, journaled as serial 1, sent live. -/
theorem test_commit :
    (let s := merging entry4 (driven .unread)
     let t := (s.commit 4 false).1
     (t.rm.status.map (·.status), t.journal.nextSerial, t.tl.live.length, t.count .readings)) = ([.read], 2, 1, 1) := by
  decide +kernel

theorem witness_FlushCommitsTheMarkedEntries :
    accepted 0x51#8 [] base ∧ (held 0x51#8 (.flush 0 0 0 0 0)).working 0x51#8 5#8 (.flush 0 0 0 0 0)
      ∧ (held 0x51#8 (.flush 0 0 0 0 0)).journal.queue = []
      ∧ earliestEntry (·.flush) (merging { entry4 with flush := true } (held 0x51#8 (.flush 0 0 0 0 0))).mc.table = some 4 :=
  ⟨base_accepts _ _, held_working _ _, rfl, by decide +kernel⟩

theorem witness_ScreenSetsItsFlags :
    2 ≤ (merging entry4 base).mc.hold ∧ 2 ≤ entry4.source.modulus ∧ (65534 : Nat) ≠ 65535 := by decide +kernel

theorem witness_RuleCommands :
    acceptedSetting 0x60#8 [15#8, 0#8, 200#8, 5#8, 0#8] base ∧ acceptedSetting 0x60#8 [16#8, 0#8, 0#8, 0#8, 0#8] base
      ∧ accepted 0x61#8 [15#8] base ∧ accepted 0x61#8 [16#8] base
      ∧ (let s := asking 0x60#8 [15#8, 0#8, 0#8, 0#8, 0#8] base
         s.acceptsSetting 1#8 0x60#8 [15#8, 0#8, 0#8, 0#8, 0#8]
           ∧ s.rules[(15 : Fin 16)] = ⟨(0#8).toNat * 256 + (0#8).toNat, (0#8).toNat, (0#8).toNat⟩) :=
  ⟨base_acceptsSetting _ _, base_acceptsSetting _ _, base_accepts _ _, base_accepts _ _, base_acceptsSetting _ _,
    by decide +kernel⟩

/-- R112 with the rule of section 10.3: C = 200, T = 5, S = 0. -/
theorem test_rule_set : (ask (.ruleSet 1#8 [3#8, 0#8, 200#8, 5#8, 0#8]) base).rules[(3 : Fin 16)] = ⟨200, 5, 0⟩ := by
  decide +kernel

/-! ### Chapter 7 -/

/-- A part that sends the reply to an accepted RESET. -/
def resetting : State := { base with tl := { base.tl with tx := some ⟨.reply true, [0xA5#8]⟩ } }

theorem witness_ResetsAndPower :
    base.powered = true ∧ resetting.tl.tx = some ⟨.reply true, [0xA5#8]⟩ ∧ (base.cutPower).powered = false
      ∧ (porting base .longOp (.erase 17)).port.begun = [.erase 17] ∧ base.storeOk := by decide +kernel

/-- R40, R42, R44: a record program, a header program and the first erase of a clear, cut short by a loss of power. -/
theorem witness_cutLeaves :
    (porting base .longOp (.program (1 * 65536 + 0 * 32) (zeros 32))).port.begun
        = [.program (1 * 65536 + 0 * 32) (zeros 32)]
      ∧ (porting base .longOp (.program (17 * 65536 + 2047 * 32) (zeros 32))).port.begun
        = [.program (17 * 65536 + 2047 * 32) (zeros 32)]
      ∧ (porting (held 0x30#8 (.clear 17)) .longOp (.erase 1)).port.begun = [.erase 1]
      ∧ (porting (held 0x30#8 (.clear 17)) .longOp (.erase 1)).tl.longOp = some ⟨0x30#8, 5#8, .clear 17, none⟩
      ∧ (porting base .mark (.program 1179709 [0#8])).port.begun = [.program 1179709 [0#8]] := by decide +kernel

/-- R33, R152, R182: a line reset clears the event flags and keeps the counts of the last scan. -/
theorem test_line_reset :
    (let s := { base with
       journal := { base.journal with torn := 2, uncertain := 1, queue := [] }, tl := { base.tl with flags := 0x0020#16 } }
     let t := after .lineReset s
     (t.journal.torn, t.journal.uncertain, t.tl.flags)) = (2, 1, 0#16) := by decide +kernel

/-- R186: the end of the RESET reply resets the part and keeps the rate. -/
theorem test_command_reset :
    (let t := after .commandReset resetting
     (t.startup, t.tl.rate, t.rm.state)) = (.readyWait, some 115200, .resuming) := by decide +kernel

/-- The image of those settings is good. -/
theorem good_image : goodImage (imageBytes hunting.settings) = true := by
  have h : (imageBody hunting.settings).length = 375 := by decide +kernel
  have h1 : (numAt (imageBytes hunting.settings) 0 2 == partCode && numAt (imageBytes hunting.settings) 2 2 == imageLength)
      = true := by decide +kernel
  have h2 : (imageBytes hunting.settings).take 375 = imageBody hunting.settings := by
    rw [imageBytes, ← h]; exact List.take_left' rfl
  have h3 : (imageBytes hunting.settings).drop 375 = beBytes 4 (crc32 (imageBody hunting.settings)).toNat := by
    rw [imageBytes, ← h]; exact List.drop_left' rfl
  have h4 : ∀ n, n < 2 ^ 32 → beNat ((beBytes 4 n).take 4) = n := by
    intro n hn
    simp [beBytes, beNat]
    omega
  rw [goodImage, h1, h2, numAt, slice, h3, h4 _ (BitVec.isLt _)]
  simp

theorem witness_StartUpLoadsTheImage :
    State.reset.startsAt .readyWait ∧ State.reset.tb.runClock.toNat < 3000
      ∧ ({ State.reset with tb := { TimeBase.reset with runClock := 3000#32 } } : State).tb.runClock.toNat = 3000
      ∧ (refused (starting .configLoad) .startup).startsAt .configLoad
      ∧ (refused (starting .configLoad) .startup).unanswered .startup
      ∧ (porting (starting .configLoad) .startup (.read 0 65536)).inPort .startup (.read 0 65536)
      ∧ goodImage (imageBytes hunting.settings) = true ∧ goodImage (List.replicate 379 0xFF#8) = false :=
  ⟨⟨rfl, rfl⟩, by decide, by decide, ⟨rfl, rfl⟩, refused_unanswered _ _, porting_inPort _ _ _, good_image,
    by decide +kernel⟩

/-- R134, R136: an image of settings reads back as the settings. -/
theorem test_image_reads_back : settingsOf (imageBytes hunting.settings) = hunting.settings := by decide +kernel

theorem witness_ScanSetsThePointers :
    (refused (starting .scan) .startup).startsAt .scan ∧ (refused (starting .scan) .startup).unanswered .startup
      ∧ (porting (starting .scan) .startup (.read 1179648 32374784)).inPort .startup (.read 1179648 32374784)
      ∧ (StoreOp.read 1179648 32374784).isErase = false ∧ Memory.wf oneEntry ∧ oneEntry.validHeaders = [(18, 1, 1)]
      ∧ (porting (starting .scan) .startup (.read 1179648 32374784)).store.validHeaders = []
      ∧ (porting (starting .scan) .startup (.erase 18)).inPort .startup (.erase 18) ∧ (starting .scan).pending = [] :=
  ⟨⟨rfl, rfl⟩, refused_unanswered _ _, porting_inPort _ _ _, rfl, by decide +kernel, by decide +kernel,
    by decide +kernel, porting_inPort _ _ _, rfl⟩

/-- R151, R152: the scan of that journal. -/
theorem test_scan :
    (let j := (after .journalScanDone { porting (starting .scan) .startup (.read 1179648 32374784) with
        store := oneEntry }).journal
     [j.tail, j.head, j.headNext, j.ahead, j.nextSerial, j.markDone, j.cursorSector, j.cursorSlot])
      = [18, 18, 2, 493, 2, 0, 18, 1] := by decide +kernel

/-- A journal of all 494 sectors with a full head, 18, its tail at 19 and holes between. -/
def fullJournal : Memory :=
  Memory.cells 1179648 (sectorHeaderBytes 494 2) ++ Memory.cells (18 * 65536 + 2047 * 32) [0#8]
    ++ Memory.cells (19 * 65536) (sectorHeaderBytes 1 1) ++ Memory.cells (19 * 65536 + 32)
      (recordBytes ⟨1, 1#32, 0, .new, 0, 0, 12400, 0#32, 0, 0#16, 1, 3, 1#8, 17, 3, 1⟩ 0xFF#8)

/-- R151, R152, R148, R142: its scan counts one torn slot, and raises JOURNAL_LOW and then JOURNAL_FULL. -/
theorem test_scan_of_a_full_journal :
    (let t := after .journalScanDone { porting (starting .scan) .startup (.read 1179648 32374784) with
        store := fullJournal }
     ([t.journal.tail, t.journal.head, t.journal.headNext, t.journal.ahead, t.journal.nextSerial, t.journal.torn],
       t.journal.state, t.tl.flags, t.tl.notices.length)) = ([19, 18, 2048, 0, 2, 1], .full, 0x0180#16, 2) := by
  decide +kernel

/-- Requests of classes 6 and 1 wait; an erase in flight; an erase suspended. -/
def requesting : State :=
  { base with port := { StorePort.idle with waiting := [⟨.longOp, .erase 0⟩, ⟨.walk 0, .read 779008 256⟩] } }

theorem witness_ArbiterServesByClass :
    requesting.port.waiting = [⟨.longOp, .erase 0⟩] ++ ⟨.walk 0, .read 779008 256⟩ :: []
      ∧ requesting.port.active = none ∧ requesting.port.suspended = none
      ∧ (porting base .reclaim (.erase 18)).port.active = some ⟨.reclaim, .erase 18, 0#32, 0⟩
      ∧ (Client.walk 0).cls < Client.longOp.cls
      ∧ (let s := porting base .reclaim (.erase 18)
         let s := { s with port := { s.port with waiting := [⟨.walk 0, .read 779008 256⟩] } }
         s.port.active = some ⟨.reclaim, .erase 18, 0#32, 0⟩
           ∧ s.port.waiting = [] ++ ⟨.walk 0, .read 779008 256⟩ :: []
           ∧ s.port.suspended = none ∧ s.pending = []) := by decide +kernel

/-- R130: the lookup goes first. -/
theorem test_lookup_first : requesting.grant.inFlight = some (.walk 0) := by decide +kernel

theorem witness_RecordsReadBackAsWritten :
    attrs3.family < 256 ∧ attrs3.utility < 256 ∧ attrs3.rule < 256 ∧ attrs3.digits < 256 ∧ attrs3.prior < 2 ^ 32
      ∧ attrs3.priorDay < 65536 ∧ (65535 : Nat) < 65536 ∧ (4294967295 : Nat) < 2 ^ 32
      ∧ Memory.wf oneEntry ∧ erasedBytes (oneEntry.bytes 1179712 32) = true ∧ base.settingsOk :=
  ⟨by decide, by decide, by decide, by decide, by decide, by decide, by decide, by decide, by decide +kernel,
    by decide +kernel, base_settingsOk⟩

/-- R129: a mark program clears the mark of that record, and an erase of its sector leaves FFH. -/
theorem test_program_and_erase :
    (let m := (StoreOp.program 1179709 [0#8]).apply oneEntry
     (m.read 1179709, m.read 1179708 = oneEntry.read 1179708, m.read 1179710 = oneEntry.read 1179710,
       ((StoreOp.erase 18).apply m).read 1179648)) = (0#8, True, True, 0xFF#8) := by
  simp only [Prod.mk.injEq, eq_iff_iff, iff_true]
  decide +kernel

/-- A queued record of serial `n`. -/
def queued (n : Nat) : QueuedRecord :=
  ⟨⟨n, 1#32, 0, .new, 0, 0, 12400, 0#32, 0, 0#16, 1, 3, 1#8, 17, 3, 1⟩, false⟩

/-- A part whose journal holds that one record, with a record queued. -/
def journaled : State :=
  { base with
    store := oneEntry, journal := { base.journal with headNext := 2, nextSerial := 3, markTarget := 1, queue := [queued 2] } }

/-- The same with a full head. -/
def headFull : State := { journaled with journal := { journaled.journal with headNext := 2048 } }

theorem witness_AppendsOpeningsAndReclaims :
    (porting base .append (.program 1179680 [0#8])).inPort .append (.program 1179680 [0#8])
      ∧ ({ base with journal := { base.journal with queue := [queued 1] } } : State).journal.queue = [queued 1]
      ∧ base.journal.headNext + 1 < 2048 ∧ 2048 ≤ ({ base.journal with headNext := 2047, ahead := 0 } : Journal).headNext + 1
      ∧ (porting base .opening (.program 1245184 [0#8])).inPort .opening (.program 1245184 [0#8])
      ∧ (porting base .reclaim (.erase 18)).inPort .reclaim (.erase 18)
      ∧ journaled.journal.state = .ready ∧ journaled.storeFailed = false ∧ journaled.tl.longOp = none
      ∧ journaled.journal.queue = queued 2 :: [] ∧ journaled.journal.headNext ≤ 2047 ∧ 2047 < headFull.journal.headNext
      ∧ (porting headFull .opening (.read 1245184 65536)).inPort .opening (.read 1245184 65536)
      ∧ judgeHeader (headFull.store.slot 18 0) = .valid 1 1
      ∧ (porting headFull .opening (.erase 19)).inPort .opening (.erase 19)
      ∧ judgeHeader ((headFull.store.clear (19 * 65536) 65536).slot 18 0) = .valid 1 1 ∧ headFull.pending = [] :=
  ⟨porting_inPort _ _ _, rfl, by decide, by decide, porting_inPort _ _ _, porting_inPort _ _ _, rfl, rfl, rfl, rfl,
    by decide, by decide, porting_inPort _ _ _, by decide +kernel, porting_inPort _ _ _, by decide +kernel, rfl⟩

/-- R140, R141: what the append queue asks for in a sector with room, and in a full one. -/
theorem test_append_asks :
    (journaled.wantAppend.port.waiting.map (·.op.start), headFull.wantAppend.port.waiting)
      = ([1179712], [⟨.opening, .read 1245184 65536⟩]) := by decide +kernel

/-- Section 7.6's example: the program of 873,447 into slot 2,047 ends with nothing ahead and five records queued. -/
theorem test_journal_full :
    (let s := porting base .append (.program 6422496 [0#8])
     let t := after .appendProgramDone { s with journal := { s.journal with
       tail := 98, head := 97, headNext := 2047, ahead := 0, nextSerial := 873453,
       queue := [queued 873447, queued 873448, queued 873449, queued 873450, queued 873451, queued 873452] } }
     (t.journal.state, t.journal.queue, t.count .appendDiscard, t.journal.discardedRange))
      = (.full, [], 5, some (873448, 873452)) := by decide +kernel

/-- The cursor at the last slot of sector 18, sector 19 a hole, and sector 20 the head. -/
def holed : State :=
  { journaled with journal := { journaled.journal with head := 20, ahead := 491, cursorSector := 18, cursorSlot := 2047 } }

theorem witness_MarkWalkFollowsTheTarget :
    (porting base .mark (.read 1179680 32)).inPort .mark (.read 1179680 32)
      ∧ judgeJournal (Memory.slot oneEntry 18 1) = .valid (Memory.slot oneEntry 18 1)
      ∧ recSerial (Memory.slot oneEntry 18 1) = 1 ∧ uploaded (Memory.slot oneEntry 18 1) = false
      ∧ judgeJournal (Memory.slot oneEntry 18 2) = .erased
      ∧ (porting base .mark (.program 1179709 [0#8])).inPort .mark (.program 1179709 [0#8])
      ∧ base.journal.cursorSector = base.journal.head
      ∧ ({ base.journal with marking := some 1 } : Journal).marking = some 1
      ∧ journaled.wantMark.port.waiting = [⟨.mark, .read (18 * 65536 + 1 * 32) 32⟩] ∧ base.wantMark = base
      ∧ holed.isHole ((18 - 18 + 1) % 494 + 18) = true ∧ (18 - 18 + 2) % 494 + 18 = holed.journal.head :=
  ⟨porting_inPort _ _ _, by decide +kernel, by decide +kernel, by decide +kernel, by decide +kernel,
    porting_inPort _ _ _, rfl, rfl, by decide +kernel, by decide +kernel, by decide +kernel, rfl⟩

/-- R145: from slot 2,047 the cursor passes the hole whole. -/
theorem test_cursor_past_a_hole :
    (holed.moveCursor.journal.cursorSector, holed.moveCursor.journal.cursorSlot) = (20, 1) := by decide +kernel

/-- R145: a mark program ends; mark done takes the serial, and the cursor goes to slot 2. -/
theorem test_mark_done :
    (let t := after .markProgramDone { porting base .mark (.program 1179709 [0#8]) with
       store := oneEntry, journal := { base.journal with marking := some 1 } }
     (t.journal.markDone, t.journal.cursorSlot, uploaded (t.store.slot 18 1))) = (1, 2, true) := by decide +kernel

theorem witness_TimeoutsFailTheStore :
    (porting base .mark (.program 1179709 [0#8])).port.active = some ⟨.mark, .program 1179709 [0#8], 0#32, 0⟩
      ∧ (StoreOp.program 1179709 [0#8]).isProgram = true ∧ (StoreOp.erase 18).isErase = true
      ∧ (porting base .longOp (.program (1 * 65536 + 2047 * 32) (zeros 32))).port.suspended = none ∧ base.storeOk
      ∧ 0 + ((10#32 : Word) - 0#32).toNat = 10 ∧ 0 + ((3000#32 : Word) - 0#32).toNat = 3000
      ∧ base.port.outstanding .upload = false
      ∧ ({ (porting base .mark (.program 1179709 [0#8])).port with waiting := [⟨.upload, .read 0 32⟩] } :
          StorePort).outstanding .upload = true := by decide +kernel

/-- R132: a program in flight for 10 ms. -/
theorem test_program_timeout :
    (let s := porting base .mark (.program 1179709 [0#8])
     let t := after .programTimeout { s with tb := { s.tb with runClock := 10#32 } }
     (t.storeFailed, t.journal.state, t.port.active)) = (true, .fault, none) := by decide +kernel

/-- A JOURNAL ERASE that waits, the cursor behind the head next slot. -/
def passed : State :=
  { held 0x72#8 .eraseWait with journal := { base.journal with headNext := 2 } }

theorem witness_SaveAndJournalCommands :
    acceptedSetting 0x70#8 [] base
      ∧ (porting (held 0x70#8 (.save [] 1)) .longOp (.program 256 [0#8])).working 0x70#8 5#8 (.save [] 1)
      ∧ (refused (held 0x70#8 (.save [] 0)) .longOp).unanswered .longOp ∧ accepted 0x71#8 [] base
      ∧ accepted 0x72#8 [] base ∧ base.rm.state = .empty ∧ (driven .unread).rm.state = .opened
      ∧ base.storeFailed = false ∧ base.journal.state = .ready ∧ base.journal.cursorSlot = base.journal.headNext
      ∧ base.port.active = none ∧ (porting base .mark (.program 1179709 [0#8])).markInFlight true = true
      ∧ (held 0x72#8 .eraseWait).working 0x72#8 5#8 .eraseWait
      ∧ (held 0x72#8 .eraseWait).port.outstanding .reclaim = false
      ∧ (held 0x72#8 .eraseWait).journal.tail = (held 0x72#8 .eraseWait).journal.head
      ∧ (porting (held 0x70#8 (.save [] 0)) .longOp (.erase 0)).working 0x70#8 5#8 (.save [] 0)
      ∧ (porting (held 0x72#8 (.eraseSpan 1)) .longOp (.erase 511)).inPort .longOp (.erase 511)
      ∧ (porting (held 0x72#8 (.eraseOpen 1)) .longOp (.read 1245184 65536)).working 0x72#8 5#8 (.eraseOpen 1)
      ∧ judgeHeader (oneEntry.slot base.journal.head 0) = .valid 1 1
      ∧ (porting (held 0x72#8 (.eraseOpen 1)) .longOp (.program 1245184 [0#8])).inPort .longOp (.program 1245184 [0#8])
      ∧ (porting (held 0x72#8 (.eraseOld 0 18)) .longOp (.erase 18)).working 0x72#8 5#8 (.eraseOld 0 18)
      ∧ (held 0x72#8 .eraseWait).port.outstanding .append = false ∧ (held 0x72#8 .eraseWait).port.outstanding .opening = false
      ∧ (held 0x72#8 .eraseWait).journal.cursorSlot = (held 0x72#8 .eraseWait).journal.headNext
      ∧ passed.working 0x72#8 5#8 .eraseWait ∧ passed.port.outstanding .append = false
      ∧ passed.port.outstanding .reclaim = false ∧ passed.port.outstanding .opening = false
      ∧ passed.journal.cursorSlot ≠ passed.journal.headNext
      ∧ (porting (held 0x72#8 .eraseWait) .append (.program 1179680 [0#8])).port.outstanding .append = true
      ∧ Work.erases .eraseWait = true ∧ (refused (held 0x72#8 .eraseWait) .longOp).unanswered .longOp :=
  ⟨base_acceptsSetting _ _, (porting_working _ _ _).1, refused_unanswered _ _, base_accepts _ _, base_accepts _ _,
    rfl, rfl, rfl, rfl, rfl, rfl, rfl, held_working _ _, rfl, rfl, (porting_working _ _ _).1, porting_inPort _ _ _,
    (porting_working _ _ _).1, by decide +kernel, porting_inPort _ _ _, (porting_working _ _ _).1, rfl, rfl, rfl,
    ⟨rfl, rfl⟩, rfl, rfl, rfl, by decide, rfl, rfl, refused_unanswered _ _⟩

/-- R146, R154: a JOURNAL ERASE taken with an append program in flight waits for its end, and then erases nothing: the
record is not uploaded (log 18). -/
theorem test_journal_erase_spares_an_append :
    (let s := ask (.journalErase 1#8 []) (porting { base with journal := { base.journal with queue := [queued 1] } }
       .append (.program 1179680 (recordBytes (queued 1).reading 0xFF#8)))
     let t := after .appendProgramDone s
     (s.tl.longOp.map (·.reply), t.tl.longOp.map (·.reply), t.journal.headNext, t.port.active.map (·.op.isErase),
       match judgeJournal (t.store.slot 18 1) with | .valid bs => some (recSerial bs) | _ => none))
      = (some none, some (some [0x72#8, 0x08#8]), 2, some false, some 1) := by decide +kernel

/-! ### Chapters 8 and 9 -/

/-- A record of serial `n` in the journal of section 8.7: sector 30, slot n − 999. -/
def sent (n : Nat) : UploadRecord := ⟨n, 30, n - 999, []⟩

/-- The engine of section 8.7 at 15,999: F4 and F6 in the window, 1,030 acknowledged. -/
def uploading : State :=
  { base with
    tb := { base.tb with runClock := 16000#32 }
    journal := { base.journal with tail := 30, head := 30, headNext := 43, markTarget := 1030 }
    ue := { base.ue with
      state := .streaming, sector := 30, slot := 43, waiting := true, lastAck := 1030, ceiling := 1041,
      window := [[1029, 1030, 1031, 1032, 1033, 1034, 1035, 1036].map sent, [sent 1041]], expiry := some 16000#32 } }

/-- An engine that reads: room in the window, a record gathered. -/
def reading : State :=
  { uploading with ue := { uploading.ue with waiting := false, slot := 42, gathered := [sent 1040] } }

theorem witness_UploadReadsAndTimeouts :
    (porting uploading .upload (.read 0 32)).inPort .upload (.read 0 32)
      ∧ (porting uploading .uploadGone (.read 0 32)).inPort .uploadGone (.read 0 32)
      ∧ base.ownRow ∧ base.port.active = none ∧ base.journal.outside 18 1 = true
      ∧ uploading.ue.state = .streaming ∧ uploading.ue.window ≠ [] ∧ uploading.ue.expiry = some 16000#32
      ∧ (uploading.tb.runClock - 16000#32).toNat < 2 ^ 31
      ∧ uploading.ue.window.flatten = [sent 1029, sent 1030] ++ sent 1031 ::
          ([1032, 1033, 1034, 1035, 1036, 1041].map sent)
      ∧ reading.wantUpload = reading.request .upload (.read (30 * 65536 + 42 * 32) 32)
      ∧ ({ reading with storeFailed := true } : State).wantUpload ≠ { reading with storeFailed := true }
      ∧ reading.ue.gathered = sent 1040 :: [] ∧ base.ue.gathered = [] ∧ base.ue.window = [] :=
  ⟨porting_inPort _ _ _, porting_inPort _ _ _, (fun _ h => by cases h), rfl, by decide +kernel, rfl, by decide +kernel, rfl,
    by decide +kernel, by decide +kernel, by decide +kernel, by decide +kernel, rfl, rfl, rfl⟩

/-- R166: a program that times out while a stream read waits stalls the upload at once, as does a read asked for later.
-/
theorem test_upload_stalls_at_once :
    (let s := porting reading .mark (.program 1179709 [0#8])
     let t := after .programTimeout { s with port := { s.port with waiting := [⟨.upload, .read 0 32⟩] } }
     let u := ({ reading with storeFailed := true } : State).pump
     (t.ue.state, t.ue.slot, t.tl.flags.getLsbD 10, u.ue.state, u.port.failed)) = (.stalled, 32, true, .stalled, []) := by
  decide +kernel

/-- Section 8.7 at 16,000: the pointer goes to slot 32, the window is emptied, the streak is 1. -/
theorem test_upload_timeout :
    (let u := (after .uploadTimeout uploading).ue
     (u.slot, u.window, u.expiry, u.streak, u.ceiling)) = (32, [], none, 1, 1041) := by decide +kernel

theorem witness_UploadCommands :
    accepted 0x80#8 [] base ∧ base.ue.state = .idle ∧ base.journal.state = .ready ∧ accepted 0x80#8 [] uploading
      ∧ taken 0x81#8 [] uploading ∧ taken 0x82#8 [0#8, 0#8, 0x04#8, 0x11#8] uploading
      ∧ numAt [0#8, 0#8, 0x04#8, 0x11#8] 0 4 = 1041 ∧ numAt [0#8, 0#8, 0x04#8, 0x06#8] 0 4 = 1030
      ∧ numAt [0#8, 0#8, 0x04#8, 0x12#8] 0 4 = 1042 ∧ numAt [0#8, 0#8, 0x04#8, 0x05#8] 0 4 = 1029 :=
  ⟨base_accepts _ _, rfl, rfl, ⟨asking_takes _ _ rfl rfl, rfl⟩, asking_takes _ _ rfl rfl,
    asking_takes _ _ rfl rfl, by decide, by decide, by decide, by decide⟩

/-- Section 8.7 at 16,500 and 17,000: a repeat of 1,030 takes no frame out, 1,041 empties the window. -/
theorem test_upload_ack :
    ((ask (.uploadAck 1#8 [0#8, 0#8, 0x04#8, 0x06#8]) uploading).ue.window.length,
      (ask (.uploadAck 1#8 [0#8, 0#8, 0x04#8, 0x11#8]) uploading).ue.window,
      (ask (.uploadAck 1#8 [0#8, 0#8, 0x04#8, 0x11#8]) uploading).ue.expiry) = (2, [], none) := by decide +kernel

/-- R145: an acknowledgment that does not raise the target leaves the mark walk waiting. -/
theorem test_ack_same_target :
    (let s := { uploading with journal := { uploading.journal with markBlocked := true } }
     ((ask (.uploadAck 1#8 [0#8, 0#8, 0x04#8, 0x06#8]) s).journal.markBlocked,
       (ask (.uploadAck 1#8 [0#8, 0#8, 0x04#8, 0x07#8]) s).journal.markBlocked)) = (true, false) := by decide +kernel

/-- R133, R168: a break leaves the upload read in the port's queue, and puts the gathered record back. -/
theorem test_break_keeps_the_read :
    (let t := after .linkBreak reading.wantUpload
     (t.port.outstanding .uploadGone, t.ue.slot, t.ue.gathered, t.tl.rate)) = (true, 32, [], none) := by decide +kernel

/-- The bytes after A5H of a command frame, but the last. -/
def partialFrame : List Byte := (frameBytes 0x01#8 5#8 [0x21#8]).drop 1 |>.take 6

/-- A tuned link that has received them. -/
def receiving : State := { base with tl := { base.tl with rx := some partialFrame } }

theorem witness_LinkTakesCharacters :
    State.reset.powered = true ∧ State.reset.tl.rate = none ∧ base.tl.rate ≠ none ∧ base.tl.rx = none
      ∧ receiving.tl.rx = some partialFrame ∧ (partialFrame ++ [0#8]).length = numAt (partialFrame ++ [0#8]) 0 2 + 6
      ∧ ([4#8, 1#8] : List Byte).length = 2 ∧ 1024 < numAt [4#8, 1#8] 0 2 ∧ taken 0xFF#8 [] base
      ∧ (Instr.form? (.reset 1#8 [])).map (·.code) = some 0x95#8 :=
  ⟨rfl, rfl, by decide, rfl, rfl, by decide +kernel, rfl, by decide, asking_takes _ _ rfl rfl, rfl⟩

/-- R174: the last CRC byte brings the frame to the inbound buffer. -/
theorem test_link_frame :
    (after (.linkFrameReceived ((frameBytes 0x01#8 5#8 [0x21#8]).getLast!)) receiving).tl.inbound = [⟨5#8, [0x21#8]⟩] := by
  decide +kernel

theorem witness_SchedulerSendsInOrder :
    ({ base with tl := { base.tl with longOp := some ⟨0x30#8, 5#8, .ended, some [0x30#8, 0#8]⟩ } } : State).tl.longOp
        = some ⟨0x30#8, 5#8, .ended, some [0x30#8, 0#8]⟩
      ∧ base.tl.reply = none ∧ base.tl.rate ≠ none ∧ base.tl.tx = none ∧ base.tl.notices = [] ∧ base.tl.live = []
      ∧ base.ue.ready = none ∧ resetting.tl.tx = some ⟨.reply true, [0xA5#8]⟩ ∧ resetting.tl.rate ≠ none := by
  decide +kernel

/-- Section 8.7: the end of F1's transmission at 10,050 puts it into the empty window with expiry 14,050. -/
theorem test_upload_sent :
    (let f := [1005, 1012].map sent
     let s := { base with
       tb := { base.tb with runClock := 10050#32 }, ue := { base.ue with state := .idle, ready := some f },
       tl := { base.tl with tx := some ⟨.upload f true, []⟩ } }
     let u := (after .transmitEnd s).ue
     (u.window, u.expiry, u.ceiling)) = ([[1005, 1012].map sent], some 14050#32, 1012) := by decide +kernel

theorem witness_StatusCountersAndEvents :
    taken 0x90#8 [] base ∧ taken 0x91#8 [] base ∧ accepted 0x92#8 [] base ∧ taken 0x93#8 [0#8, 1#8] base
      ∧ acceptedSetting 0x94#8 [0x3F#8, 0xFF#8] base ∧ accepted 0x95#8 [] base
      ∧ base.tl.flags.getLsbD Event.routeResumed.number = false ∧ base.tl.mask.getLsbD 13 = true
      ∧ base.tl.notices.length < 16 :=
  ⟨asking_takes _ _ rfl rfl, asking_takes _ _ rfl rfl, base_accepts _ _, asking_takes _ _ rfl rfl,
    base_acceptsSetting _ _, base_accepts _ _, by decide,
    by decide, by decide⟩

/-- R181, the example of section 9.4: an alarm frame takes the place of the oldest frame without one. -/
theorem test_live_queue_full :
    (let plain (n : Nat) : LiveFrame := ⟨{ (queued n).reading with meterId := BitVec.ofNat 32 n }, false⟩
     let alarm : LiveFrame := ⟨{ (queued 99).reading with flags := flagReversed }, false⟩
     let t := ({ base with tl := { base.tl with live := (List.range 64).map plain } }).offerLive alarm
     (t.tl.live.length, (t.tl.live.head?).map (·.reading.meterId), t.tl.notices)) =
      (64, some 1#32, [.event 11 0#32 0x0800#16 0#32]) := by decide +kernel

end Sys2Proof.Tests
end

section
/-! SUPPORT. What SEGMENT READ reads of the route (R61): when the progress of a route can be read, and the entry of the
segment table that the argument byte names. -/

namespace Sys2Proof.Machine

/-- Progress is read in OPEN, and in CLOSED while the status table is built. -/
theorem State.progressReadable_iff (s : State) :
    s.progressReadable = true ↔ s.rm.state = .opened ∨ (s.rm.state = .closed ∧ s.rm.built = true) := by
  simp [State.progressReadable]

/-- An argument byte always names an entry of a table of 256, so the default is never read. -/
theorem tableAt_natAt_byte {α : Type} (v : Vector α 256) (a : Byte) (d : α) :
    tableAt v (natAt [a] 0) d = v[a.toFin] := by
  have hlt : natAt [a] 0 < 256 := a.isLt
  exact dif_pos hlt

/-- Settles O30: the accepted command runs on the state without its frame (`State.accepts.runs`); the segment named is
in the table, and the two branches are the two cases of R61. -/
theorem segmentReadAnswersTheCounts : Obligations.SegmentReadAnswersTheCounts := by
  intro tag a s haccepts g
  have hruns : exec (.segmentRead tag [a]) s = .next _ := haccepts.runs rfl
  rw [hruns]
  by_cases hread : s.rm.state = .opened ∨ (s.rm.state = .closed ∧ s.rm.built = true)
  · have hp : s.takeFrame.progressReadable = true := s.takeFrame.progressReadable_iff.mpr hread
    simp only [if_pos hread, if_pos hp, State.takeFrame_answer, State.takeFrame_rm, tableAt_natAt_byte, serialBytes, g]
  · have hp : ¬ s.takeFrame.progressReadable = true := fun h => hread (s.takeFrame.progressReadable_iff.mp h)
    simp only [if_neg hread, if_neg hp, State.takeFrame_answer]

end Sys2Proof.Machine
end

section
/-! SUPPORT. What the tamper screen returns (R115 to R127): the rows of R120's table, the flags of the stages that need
no prior and of the stages that turn on it, and the figures of the screen in each of its three cases. -/

namespace Sys2Proof.Machine

/-! ### Movement (R120) -/

section
variable {M T upto frm : Nat}

/-- Row 1 of R120's table. -/
theorem movement_eq_zero_iff : movement M T upto frm = .zero ↔ forwardBy M upto frm = 0 := by
  simp only [movement]
  split_ifs <;> simp [*]

/-- Row 2 of R120's table. -/
theorem movement_eq_backstep_iff :
    movement M T upto frm = .backstep ↔
      0 < forwardBy M upto frm ∧ backwardBy M (forwardBy M upto frm) ≤ T := by
  simp only [movement]
  split_ifs <;> simp [*]
  omega

/-- Row 3 of R120's table. Its condition shuts out row 1 by itself, for a step back is below F only when F is not 0. -/
theorem movement_eq_reversal_iff :
    movement M T upto frm = .reversal ↔
      T < backwardBy M (forwardBy M upto frm)
        ∧ backwardBy M (forwardBy M upto frm) < forwardBy M upto frm := by
  simp only [movement]
  split_ifs <;> simp [*]
  omega

/-- Row 4 of R120's table. Its condition shuts out row 1 by itself, for there is no step back when F is 0. -/
theorem movement_eq_forward_iff :
    movement M T upto frm = .forward ↔
      T < backwardBy M (forwardBy M upto frm)
        ∧ forwardBy M upto frm ≤ backwardBy M (forwardBy M upto frm) := by
  have hzero : backwardBy M 0 = 0 := rfl
  simp only [movement]
  split_ifs <;> simp [*]
  omega

/-- The delta is at most half the modulus: that of a forward movement is at most the step back the other way round. -/
theorem two_mul_movementDelta_le : 2 * movementDelta M T upto frm ≤ M := by
  unfold movementDelta
  split_ifs with hforward
  · obtain ⟨hback, hle⟩ := movement_eq_forward_iff.mp hforward
    unfold backwardBy at hback hle
    split_ifs at hback hle <;> omega
  · omega

/-- The two movement flags bit by bit. -/
theorem movementFlag_getLsbD (mv : Movement) (n : Nat) :
    (movementFlag mv).getLsbD n =
      (mv == .backstep && flagBackstep.getLsbD n || mv == .reversal && flagReversed.getLsbD n) := by
  cases mv <;> simp [movementFlag]

end

/-! ### The places of the flags (section 9.8) -/

theorem flag_places :
    flagReversed = BitVec.twoPow 16 0 ∧ flagOverrate = BitVec.twoPow 16 1 ∧ flagStagnant = BitVec.twoPow 16 2
      ∧ flagIndicator = BitVec.twoPow 16 3 ∧ flagIdClash = BitVec.twoPow 16 4 ∧ flagUnsteady = BitVec.twoPow 16 5
      ∧ flagBackstep = BitVec.twoPow 16 8 ∧ flagNoPrior = BitVec.twoPow 16 9 ∧ flagNoTime = BitVec.twoPow 16 10
      ∧ flagClamped = BitVec.twoPow 16 11 ∧ flagWide = BitVec.twoPow 16 12 := by
  decide

theorem flagIf_getLsbD (c : Bool) (f : BitVec 16) (n : Nat) : (flagIf c f).getLsbD n = (c && f.getLsbD n) := by
  cases c <;> simp [flagIf]

/-! ### Elapsed days (R122) -/

/-- The elapsed days are the signed difference brought into 1 to 255. -/
theorem elapsedDays_fst (dc dp : Nat) :
    (elapsedDays dc dp).1 =
      if (dc : Int) - dp ≤ 0 then 1 else if 255 < (dc : Int) - dp then 255 else ((dc : Int) - dp).toNat := by
  simp only [elapsedDays]
  split_ifs <;> rfl

theorem elapsedDays_clamped_iff (dc dp : Nat) :
    (elapsedDays dc dp).2 = true ↔ (dc : Int) - dp ≤ 0 ∨ 255 < (dc : Int) - dp := by
  simp only [elapsedDays]
  split_ifs <;> simp [*]

theorem elapsedDays_range (dc dp : Nat) : 1 ≤ (elapsedDays dc dp).1 ∧ (elapsedDays dc dp).1 ≤ 255 := by
  rw [elapsedDays_fst]
  split_ifs <;> omega

/-- The flags of stages 3 and 4 bit by bit (R122, R123, R125). -/
theorem timedStages_getLsbD (rule : Rule) (M dc dp delta : Nat) (mv : Movement) (n : Nat) :
    (timedStages rule M dc dp delta mv).1.getLsbD n =
      ((elapsedDays dc dp).2 && flagClamped.getLsbD n
        || decide (0 < rule.ceiling ∧ allowance rule.ceiling (elapsedDays dc dp).1 M < delta) && flagOverrate.getLsbD n
        || decide (0 < rule.stagnant ∧ mv = .zero ∧ rule.stagnant ≤ (elapsedDays dc dp).1)
          && flagStagnant.getLsbD n) := by
  simp only [timedStages, BitVec.getLsbD_or, flagIf_getLsbD]

/-! ### The flags that need no prior: stages 0, 1 and 5, and the time note of stage 3 -/

section
variable {i : ScreenIn} {p dp n : Nat}

/-- The movement of the reduced value from a base (R120, R126). -/
def ScreenIn.movementFrom (i : ScreenIn) (frm : Nat) : Movement := movement i.modulus i.rule.tolerance i.reduced frm

/-- The flags the screen sets whether or not there is a prior. -/
def ScreenIn.baseFlags (i : ScreenIn) : BitVec 16 :=
  i.firstFlags ||| flagIf (!i.timeValid) flagNoTime ||| i.secondBase

/-- Stage 5 as one flag (R126). -/
theorem ScreenIn.secondBase_eq (i : ScreenIn) :
    i.secondBase = flagIf (i.last.any (i.movementFrom · == .reversal)) flagUnsteady := by
  unfold ScreenIn.secondBase
  cases i.last <;> rfl

/-- The base flags bit by bit. -/
theorem ScreenIn.baseFlags_getLsbD (i : ScreenIn) (n : Nat) :
    i.baseFlags.getLsbD n =
      (decide (i.modulus ≤ i.value) && flagWide.getLsbD n || i.idClash && flagIdClash.getLsbD n
        || i.indicators != 0#8 && flagIndicator.getLsbD n || i.unsteady && flagUnsteady.getLsbD n
        || !i.timeValid && flagNoTime.getLsbD n
        || i.last.any (i.movementFrom · == .reversal) && flagUnsteady.getLsbD n) := by
  simp only [baseFlags, firstFlags, secondBase_eq, BitVec.getLsbD_or, flagIf_getLsbD]

/-- R117: the condition of IDCLASH. -/
theorem ScreenIn.idClash_iff (i : ScreenIn) :
    i.idClash = true ↔
      i.clash = true ∨ ∃ f, i.expected = some f ∧ ∃ g : Fin 8, i.seen.getLsbD g.val = true ∧ g.val ≠ f := by
  have hall : ∀ g : Fin 8, g ∈ eight := by decide
  unfold ScreenIn.idClash
  cases i.expected <;> simp [hall]

/-! ### The flags that turn on the prior: stage 2, and stages 3 and 4 with valid time -/

/-- R119: the two ways to have no prior. -/
theorem ScreenIn.priorFound_eq_none_iff (i : ScreenIn) :
    i.priorFound = none ↔ i.prior = none ∨ ∃ p, i.prior = some (p, 65535) := by
  unfold ScreenIn.priorFound
  cases i.prior with
  | none => simp
  | some prior =>
    obtain ⟨p, dp⟩ := prior
    by_cases hday : dp = 65535 <;> simp [none16, hday]

theorem ScreenIn.priorFound_eq_some (hprior : i.prior = some (p, dp)) (hday : dp ≠ 65535) :
    i.priorFound = some (p, dp) := by
  simp [ScreenIn.priorFound, hprior, none16, hday]

/-- The flags of the stages that turn on the prior: NOPRIOR alone without one (R119). -/
def ScreenIn.priorFlags (i : ScreenIn) : BitVec 16 :=
  match i.priorFound with
  | none => flagNoPrior
  | some (p, dp) =>
    movementFlag (i.movementFrom p)
      ||| (if i.timeValid then
          (timedStages i.rule i.modulus (dayNumber i.seconds) dp (screen i).delta (i.movementFrom p)).1
        else 0#16)

theorem screen_delta (hfound : i.priorFound = some (p, dp)) :
    (screen i).delta = movementDelta i.modulus i.rule.tolerance i.reduced p := by
  cases htime : i.timeValid <;> simp [screen, hfound, htime]

theorem ScreenIn.priorFlags_of_noPrior (hfound : i.priorFound = none) : i.priorFlags = flagNoPrior := by
  simp [ScreenIn.priorFlags, hfound]

theorem ScreenIn.priorFlags_of_noTime (hfound : i.priorFound = some (p, dp)) (htime : i.timeValid = false) :
    i.priorFlags = movementFlag (i.movementFrom p) := by
  simp [ScreenIn.priorFlags, hfound, htime]

theorem ScreenIn.priorFlags_of_timed (hfound : i.priorFound = some (p, dp)) (htime : i.timeValid = true) :
    i.priorFlags = movementFlag (i.movementFrom p)
      ||| (timedStages i.rule i.modulus (dayNumber i.seconds) dp (screen i).delta (i.movementFrom p)).1 := by
  simp [ScreenIn.priorFlags, hfound, htime]

/-! ### The result of the screen -/

theorem screen_flags (i : ScreenIn) : (screen i).flags = i.baseFlags ||| i.priorFlags := by
  cases hfound : i.priorFound with
  | none => simp [i.priorFlags_of_noPrior hfound, screen, hfound, ScreenIn.baseFlags]
  | some prior =>
    cases htime : i.timeValid with
    | false =>
      simp [ScreenIn.priorFlags_of_noTime hfound htime, screen, hfound, htime, ScreenIn.baseFlags, ScreenIn.movementFrom]
    | true =>
      simp [ScreenIn.priorFlags_of_timed hfound htime, screen, hfound, htime, ScreenIn.baseFlags,
        ScreenIn.movementFrom, BitVec.or_assoc]

theorem screen_value (i : ScreenIn) : (screen i).value = i.value % i.modulus := by
  cases hfound : i.priorFound with
  | none => simp [screen, hfound, ScreenIn.reduced]
  | some prior => cases htime : i.timeValid <;> simp [screen, hfound, htime, ScreenIn.reduced]

/-- R119: without a prior there is no delta, no rate and no elapsed days. -/
theorem screen_figures_of_noPrior (hfound : i.priorFound = none) :
    (screen i).delta = 0 ∧ (screen i).rate = none ∧ (screen i).elapsed = none := by
  simp [screen, hfound]

/-- R121: without valid time there is no rate and no elapsed days. -/
theorem screen_figures_of_noTime (hfound : i.priorFound = some (p, dp)) (htime : i.timeValid = false) :
    (screen i).rate = none ∧ (screen i).elapsed = none := by
  simp [screen, hfound, htime]

/-- R122, R124: with a prior and valid time both are formed. -/
theorem screen_figures_of_timed (hfound : i.priorFound = some (p, dp)) (htime : i.timeValid = true) :
    (screen i).rate = some (rateOf (screen i).delta (elapsedDays (dayNumber i.seconds) dp).1)
      ∧ (screen i).elapsed = some (elapsedDays (dayNumber i.seconds) dp).1 := by
  simp [screen, hfound, htime, timedStages]

/-- The places that belong to the stages that need no prior, and that of NODIR, are clear in the others' flags. -/
theorem ScreenIn.priorFlags_clear (i : ScreenIn) (hn : n ∈ [3, 4, 5, 10, 12, 13]) : i.priorFlags.getLsbD n = false := by
  cases hfound : i.priorFound with
  | none =>
    rw [i.priorFlags_of_noPrior hfound]
    fin_cases hn <;> simp [flag_places]
  | some prior =>
    cases htime : i.timeValid with
    | false =>
      rw [ScreenIn.priorFlags_of_noTime hfound htime, movementFlag_getLsbD]
      fin_cases hn <;> simp [flag_places]
    | true =>
      rw [ScreenIn.priorFlags_of_timed hfound htime, BitVec.getLsbD_or, movementFlag_getLsbD, timedStages_getLsbD]
      fin_cases hn <;> simp [flag_places]

/-- The places that belong to the stages that turn on the prior are clear in the flags of the others. -/
theorem ScreenIn.baseFlags_clear (i : ScreenIn) (hn : n ∈ [0, 1, 2, 8, 9, 11]) : i.baseFlags.getLsbD n = false := by
  rw [i.baseFlags_getLsbD]
  fin_cases hn <;> simp [flag_places]

theorem screen_flag_base (i : ScreenIn) (hn : n ∈ [3, 4, 5, 10, 12, 13]) :
    (screen i).flags.getLsbD n = i.baseFlags.getLsbD n := by
  rw [screen_flags, BitVec.getLsbD_or, i.priorFlags_clear hn, Bool.or_false]

theorem screen_flag_prior (i : ScreenIn) (hn : n ∈ [0, 1, 2, 8, 9, 11]) :
    (screen i).flags.getLsbD n = i.priorFlags.getLsbD n := by
  rw [screen_flags, BitVec.getLsbD_or, i.baseFlags_clear hn, Bool.false_or]

/-! ### Each flag under its condition -/

theorem screen_wide_iff (i : ScreenIn) : (screen i).flags.getLsbD 12 = true ↔ i.modulus ≤ i.value := by
  rw [screen_flag_base i (by decide), i.baseFlags_getLsbD]
  simp [flag_places]

theorem screen_noTime_iff (i : ScreenIn) : (screen i).flags.getLsbD 10 = true ↔ i.timeValid = false := by
  rw [screen_flag_base i (by decide), i.baseFlags_getLsbD]
  simp [flag_places]

theorem screen_indicator_iff (i : ScreenIn) : (screen i).flags.getLsbD 3 = true ↔ i.indicators ≠ 0#8 := by
  rw [screen_flag_base i (by decide), i.baseFlags_getLsbD]
  simp [flag_places]

/-- NODIR is the commit's to set (R127). -/
theorem screen_noDir (i : ScreenIn) : ¬ (screen i).flags.getLsbD 13 = true := by
  rw [screen_flag_base i (by decide), i.baseFlags_getLsbD]
  simp [flag_places]

theorem screen_idClash_iff (i : ScreenIn) : (screen i).flags.getLsbD 4 = true ↔ i.idClash = true := by
  rw [screen_flag_base i (by decide), i.baseFlags_getLsbD]
  simp [flag_places]

theorem screen_unsteady_iff (i : ScreenIn) :
    (screen i).flags.getLsbD 5 = true ↔
      i.unsteady = true ∨ ∃ l, i.last = some l ∧ i.movementFrom l = .reversal := by
  rw [screen_flag_base i (by decide), i.baseFlags_getLsbD]
  simp [flag_places, Option.any_eq_true]

theorem screen_noPrior_iff (i : ScreenIn) : (screen i).flags.getLsbD 9 = true ↔ i.priorFound = none := by
  rw [screen_flag_prior i (by decide)]
  cases hfound : i.priorFound with
  | none => simp [i.priorFlags_of_noPrior hfound, flag_places]
  | some prior =>
    cases htime : i.timeValid with
    | false =>
      rw [ScreenIn.priorFlags_of_noTime hfound htime, movementFlag_getLsbD]
      simp [flag_places]
    | true =>
      rw [ScreenIn.priorFlags_of_timed hfound htime, BitVec.getLsbD_or, movementFlag_getLsbD, timedStages_getLsbD]
      simp [flag_places]

/-- R119: without a prior, none of the flags that turn on one is set. -/
theorem screen_flag_of_noPrior (hfound : i.priorFound = none) (hn : n ∈ [0, 1, 2, 8, 11]) :
    ¬ (screen i).flags.getLsbD n = true := by
  rw [screen_flag_prior i (by revert n; decide), i.priorFlags_of_noPrior hfound]
  fin_cases hn <;> simp [flag_places]

/-- Valid time or not, the movement flags are those of R120's table. -/
theorem screen_movement_flag (hfound : i.priorFound = some (p, dp)) (hn : n ∈ [0, 8]) :
    (screen i).flags.getLsbD n = (movementFlag (i.movementFrom p)).getLsbD n := by
  rw [screen_flag_prior i (by revert n; decide)]
  cases htime : i.timeValid with
  | false => rw [ScreenIn.priorFlags_of_noTime hfound htime]
  | true =>
    rw [ScreenIn.priorFlags_of_timed hfound htime, BitVec.getLsbD_or, timedStages_getLsbD]
    fin_cases hn <;> simp [flag_places]

theorem screen_backstep_iff (hfound : i.priorFound = some (p, dp)) :
    (screen i).flags.getLsbD 8 = true ↔ i.movementFrom p = .backstep := by
  rw [screen_movement_flag hfound (by decide), movementFlag_getLsbD]
  simp [flag_places]

theorem screen_reversed_iff (hfound : i.priorFound = some (p, dp)) :
    (screen i).flags.getLsbD 0 = true ↔ i.movementFrom p = .reversal := by
  rw [screen_movement_flag hfound (by decide), movementFlag_getLsbD]
  simp [flag_places]

/-- R121: without valid time, stages 3 and 4 set nothing. -/
theorem screen_flag_of_noTime (hfound : i.priorFound = some (p, dp)) (htime : i.timeValid = false)
    (hn : n ∈ [1, 2, 11]) : ¬ (screen i).flags.getLsbD n = true := by
  rw [screen_flag_prior i (by revert n; decide), ScreenIn.priorFlags_of_noTime hfound htime, movementFlag_getLsbD]
  fin_cases hn <;> simp [flag_places]

/-- With valid time, the flags of stages 3 and 4 are theirs alone. -/
theorem screen_timed_flag (hfound : i.priorFound = some (p, dp)) (htime : i.timeValid = true) (hn : n ∈ [1, 2, 11]) :
    (screen i).flags.getLsbD n =
      (timedStages i.rule i.modulus (dayNumber i.seconds) dp (screen i).delta (i.movementFrom p)).1.getLsbD n := by
  rw [screen_flag_prior i (by revert n; decide), ScreenIn.priorFlags_of_timed hfound htime, BitVec.getLsbD_or,
    movementFlag_getLsbD]
  fin_cases hn <;> simp [flag_places]

theorem screen_clamped_iff (hfound : i.priorFound = some (p, dp)) (htime : i.timeValid = true) :
    (screen i).flags.getLsbD 11 = true ↔ (elapsedDays (dayNumber i.seconds) dp).2 = true := by
  rw [screen_timed_flag hfound htime (by decide), timedStages_getLsbD]
  simp [flag_places]

theorem screen_overrate_iff (hfound : i.priorFound = some (p, dp)) (htime : i.timeValid = true) :
    (screen i).flags.getLsbD 1 = true ↔ 0 < i.rule.ceiling
      ∧ allowance i.rule.ceiling (elapsedDays (dayNumber i.seconds) dp).1 i.modulus < (screen i).delta := by
  rw [screen_timed_flag hfound htime (by decide), timedStages_getLsbD]
  simp [flag_places]

theorem screen_stagnant_iff (hfound : i.priorFound = some (p, dp)) (htime : i.timeValid = true) :
    (screen i).flags.getLsbD 2 = true ↔ 0 < i.rule.stagnant ∧ i.movementFrom p = .zero
      ∧ i.rule.stagnant ≤ (elapsedDays (dayNumber i.seconds) dp).1 := by
  rw [screen_timed_flag hfound htime (by decide), timedStages_getLsbD]
  simp [flag_places]

end

/-- The screen measures movement from the reduced value (R116). -/
theorem ScreenIn.forwardBy_reduced (i : ScreenIn) (frm : Nat) :
    forwardBy i.modulus i.reduced frm = (i.value % i.modulus + i.modulus - frm % i.modulus) % i.modulus := by
  simp [forwardBy, ScreenIn.reduced]

/-- Settles O45: the flags that need no prior, then the case without a prior, then the case with one, in which the
rows of R120 give the movement and stages 3 and 4 run only with valid time. -/
theorem screenSetsItsFlags : Obligations.ScreenSetsItsFlags := by
  intro i hmodulus o M V forward back reversal flag noPrior
  have hforward : ∀ frm, forwardBy M i.reduced frm = forward frm := i.forwardBy_reduced
  have hback : ∀ frm, backwardBy M (forward frm) = back frm := fun _ => rfl
  have hreversal : ∀ frm, i.movementFrom frm = .reversal ↔ reversal frm := fun frm => by
    rw [ScreenIn.movementFrom, movement_eq_reversal_iff, hforward, hback]
  have hnone : i.priorFound = none ↔ noPrior := i.priorFound_eq_none_iff
  refine ⟨screen_value i, Nat.mod_lt _ (by omega), screen_wide_iff i, screen_noTime_iff i, screen_indicator_iff i,
    screen_noDir i, (screen_idClash_iff i).trans i.idClash_iff, ?unsteady, (screen_noPrior_iff i).trans hnone,
    ?without, ?withPrior⟩
  case unsteady => simpa only [hreversal] using screen_unsteady_iff i
  case without =>
    intro hprior
    have hfound := hnone.mpr hprior
    obtain ⟨hdelta, hrate, helapsed⟩ := screen_figures_of_noPrior hfound
    have hclear {n : Nat} (hn : n ∈ [0, 1, 2, 8, 11]) : ¬ flag n := screen_flag_of_noPrior hfound hn
    exact ⟨hdelta, hrate, helapsed, hclear (by decide), hclear (by decide), hclear (by decide), hclear (by decide),
      hclear (by decide)⟩
  case withPrior =>
    intro p dp hprior hday F R days E
    have hfound := ScreenIn.priorFound_eq_some hprior hday
    have hF : forwardBy M i.reduced p = F := hforward p
    have hR : backwardBy M F = R := rfl
    have hE : (elapsedDays (dayNumber i.seconds) dp).1 = E := elapsedDays_fst _ _
    have hdelta : o.delta = movementDelta M i.rule.tolerance i.reduced p := screen_delta hfound
    refine ⟨?backstep, (screen_reversed_iff hfound).trans (hreversal p), ?delta, ?half, ?timed, ?untimed⟩
    case backstep =>
      have hbackstep := screen_backstep_iff hfound
      rwa [ScreenIn.movementFrom, movement_eq_backstep_iff, hF] at hbackstep
    case delta =>
      rw [hdelta, movementDelta, hF]
      simp only [movement_eq_forward_iff, hF, hR]
    case half => exact hdelta ▸ two_mul_movementDelta_le
    case timed =>
      intro htime
      obtain ⟨hrate, helapsed⟩ := screen_figures_of_timed hfound htime
      obtain ⟨hlow, hhigh⟩ := elapsedDays_range (dayNumber i.seconds) dp
      have hstagnant := screen_stagnant_iff hfound htime
      rw [ScreenIn.movementFrom, movement_eq_zero_iff, hF] at hstagnant
      rw [← hE]
      exact ⟨helapsed, hlow, hhigh, hrate, (screen_clamped_iff hfound htime).trans (elapsedDays_clamped_iff _ _),
        screen_overrate_iff hfound htime, hstagnant⟩
    case untimed =>
      intro htime
      obtain ⟨hrate, helapsed⟩ := screen_figures_of_noTime hfound htime
      have hclear {n : Nat} (hn : n ∈ [1, 2, 11]) : ¬ flag n := screen_flag_of_noTime hfound htime hn
      exact ⟨hrate, helapsed, hclear (by decide), hclear (by decide), hclear (by decide)⟩

end Sys2Proof.Machine
end

section
/-! SUPPORT. The rule table's commands (R112, R113): the entry the first argument byte names, and the bytes of an entry. -/

namespace Sys2Proof.Machine

/-- A byte below the table's size names its entry. -/
theorem indexOf?_zero_of_val {n : Nat} {a : Byte} {r : Fin n} (args : List Byte) (h : r.val = a.toNat) :
    indexOf? n (a :: args) 0 = some r := by
  have hnat : natAt (a :: args) 0 = r.val := h.symm
  simp [indexOf?, hnat]

/-- A byte beyond the table names none. -/
theorem indexOf?_zero_of_le {n : Nat} {a : Byte} (args : List Byte) (h : n ≤ a.toNat) :
    indexOf? n (a :: args) 0 = none :=
  dif_neg (Nat.not_lt.mpr h)

/-- A byte as a number is written as that byte. -/
theorem byteOf_toNat_self (b : Byte) : byteOf b.toNat = b := by simp [byteOf]

/-- Two bytes that spell a number write it. -/
theorem beBytes_two_bytes (b c : Byte) : beBytes 2 (b.toNat * 256 + c.toNat) = [b, c] := by
  simp [beBytes]
  bv_omega

/-- A rule spelled by four bytes is answered by the same bytes (section 9.8). -/
theorem ruleReply_bytes (b c d e : Byte) :
    ruleReply ⟨b.toNat * 256 + c.toNat, d.toNat, e.toNat⟩ = [b, c, d, e] := by
  simp [ruleReply, ruleBytes, beBytes_two_bytes, byteOf_toNat_self]

/-- Two bytes of a body spell a number. -/
theorem numAt_two (a b c : Byte) (args : List Byte) : numAt (a :: b :: c :: args) 1 2 = b.toNat * 256 + c.toNat := by
  simp [numAt, slice, beNat]

section
variable {tag a b c d e : Byte} {s : State}

theorem exec_ruleSet_badArg (haccepts : s.acceptsSetting tag 0x60#8 [a, b, c, d, e]) (hentry : 15 < a.toNat) :
    exec (.ruleSet tag [a, b, c, d, e]) s = .next (s.replied tag 0x60#8 .badArg []) := by
  have hruns : exec (.ruleSet tag [a, b, c, d, e]) s = .next _ := haccepts.runs rfl
  rw [hruns, indexOf?_zero_of_le _ hentry]
  rfl

/-- R112: an accepted RULE SET replaces the entry and answers it as now held. -/
theorem exec_ruleSet_ok (haccepts : s.acceptsSetting tag 0x60#8 [a, b, c, d, e]) {r : Fin 16} (hentry : r.val = a.toNat) :
    exec (.ruleSet tag [a, b, c, d, e]) s = .next
      (({ s with rules := s.rules.set r ⟨b.toNat * 256 + c.toNat, d.toNat, e.toNat⟩ }).replied tag 0x60#8 .ok
        [b, c, d, e]) := by
  have hruns : exec (.ruleSet tag [a, b, c, d, e]) s = .next _ := haccepts.runs rfl
  have htolerance : natAt [a, b, c, d, e] 3 = d.toNat := rfl
  have hstagnant : natAt [a, b, c, d, e] 4 = e.toNat := rfl
  rw [hruns, indexOf?_zero_of_val _ hentry]
  simp only [numAt_two, htolerance, hstagnant, ruleReply_bytes]
  rfl

theorem exec_ruleRead_badArg (haccepts : s.accepts tag 0x61#8 [a]) (hentry : 15 < a.toNat) :
    exec (.ruleRead tag [a]) s = .next (s.replied tag 0x61#8 .badArg []) := by
  have hruns : exec (.ruleRead tag [a]) s = .next _ := haccepts.runs rfl
  rw [hruns, indexOf?_zero_of_le _ hentry]
  rfl

theorem exec_ruleRead_ok (haccepts : s.accepts tag 0x61#8 [a]) {r : Fin 16} (hentry : r.val = a.toNat) :
    exec (.ruleRead tag [a]) s = .next (s.replied tag 0x61#8 .ok (ruleBytes s.rules[r])) := by
  have hruns : exec (.ruleRead tag [a]) s = .next _ := haccepts.runs rfl
  rw [hruns, indexOf?_zero_of_val _ hentry]
  rfl

end

/-- Settles O46: each command's two outcomes by its entry number; a table in which an entry is replaced by itself is
the same table. -/
theorem ruleCommands : Obligations.RuleCommands := by
  refine ⟨fun tag a b c d e s haccepts => ⟨exec_ruleSet_badArg haccepts, fun r => exec_ruleSet_ok haccepts, ?repeats⟩,
    fun tag a s haccepts => ⟨exec_ruleRead_badArg haccepts, fun r => exec_ruleRead_ok haccepts⟩⟩
  case repeats =>
    intro r hentry hheld
    have hsame : s.rules.set r s.rules[r] = s.rules := Vector.set_getElem_self r.isLt
    rw [exec_ruleSet_ok haccepts hentry, ← hheld, hsame]

end Sys2Proof.Machine
end

section
/-! SUPPORT. What every step keeps. `State.Keeps s t` says, of two states, that `t` has the queue of commands of `s` and
meets each of the invariants that `s` meets. It is reflexive and transitive, each update of one block keeps under a
condition on that block alone, and the later files compose these into a step. -/

namespace Sys2Proof.Machine

/-! ### The relation -/

/-- `t` keeps the queue of `s` and every invariant but that of the route cache. -/
structure State.KeepsBounds (s t : State) : Prop where
  pending : t.pending = s.pending
  store : s.storeOk → t.storeOk
  queues : s.queuesOk → t.queuesOk
  counters : s.countersOk → t.countersOk
  settings : s.settingsOk → t.settingsOk
  window : s.windowOk → t.windowOk
  ack : s.ackOk → t.ackOk

/-- `t` keeps the queue of `s` and every invariant. -/
structure State.Keeps (s t : State) : Prop extends s.KeepsBounds t where
  cache : s.cacheOk → t.cacheOk

theorem State.KeepsBounds.refl (s : State) : s.KeepsBounds s := ⟨rfl, id, id, id, id, id, id⟩

theorem State.KeepsBounds.trans {s t u : State} (h : s.KeepsBounds t) (k : t.KeepsBounds u) : s.KeepsBounds u :=
  ⟨k.pending.trans h.pending, k.store ∘ h.store, k.queues ∘ h.queues, k.counters ∘ h.counters,
    k.settings ∘ h.settings, k.window ∘ h.window, k.ack ∘ h.ack⟩

@[refl] theorem State.Keeps.refl (s : State) : s.Keeps s := ⟨.refl s, id⟩

@[trans] theorem State.Keeps.trans {s t u : State} (h : s.Keeps t) (k : t.Keeps u) : s.Keeps u :=
  ⟨h.toKeepsBounds.trans k.toKeepsBounds, k.cache ∘ h.cache⟩

/-- A fold keeps what each of its steps keeps. -/
theorem State.Keeps.foldl {α : Type} {f : State → α → State} (h : ∀ (t : State) (a : α), t.Keeps (f t a)) (l : List α)
    (s : State) : s.Keeps (l.foldl f s) := by
  induction l generalizing s with
  | nil => exact .refl s
  | cons a l ih => exact (h s a).trans (ih _)

theorem State.KeepsBounds.foldl {α : Type} {f : State → α → State} (h : ∀ (t : State) (a : α), t.Keeps (f t a))
    (l : List α) (s : State) : s.KeepsBounds (l.foldl f s) := (State.Keeps.foldl h l s).toKeepsBounds

/-! ### Updates of a block that no invariant reads -/

theorem State.keeps_powered (p : Bool) (s : State) : s.Keeps { s with powered := p } :=
  ⟨⟨rfl, id, id, id, id, id, id⟩, id⟩

theorem State.keeps_rm (r : RouteManager) (s : State) : s.Keeps { s with rm := r } :=
  ⟨⟨rfl, id, id, id, id, id, id⟩, id⟩

theorem State.keeps_startup (p : StartPhase) (s : State) : s.Keeps { s with startup := p } :=
  ⟨⟨rfl, id, id, id, id, id, id⟩, id⟩

theorem State.keeps_storeFailed (b : Bool) (s : State) : s.Keeps { s with storeFailed := b } :=
  ⟨⟨rfl, id, id, id, id, id, id⟩, id⟩

/-! ### Updates under a condition on the block -/

theorem State.keeps_store {m : Memory} {s : State} (h : s.store.wf → m.wf) : s.Keeps { s with store := m } :=
  ⟨⟨rfl, h, id, id, id, id, id⟩, id⟩

/-- An operation cut short keeps the canonical form. -/
theorem State.keeps_cutOp (lost : Bool) (op : StoreOp) (s : State) : s.Keeps (s.cutOp lost op) :=
  ⟨⟨rfl, StoreOp.wf_damage _ _ _ _, id, id, id, id, id⟩, id⟩

theorem State.keeps_cutOps (lost : Bool) (ops : List StoreOp) (s : State) : s.Keeps (s.cutOps lost ops) :=
  .foldl (fun t op => t.keeps_cutOp lost op) ops s

theorem State.keeps_counters {v : Vector Nat 88} {s : State} (h : ∀ i : Fin 88, v[i] ≤ 4294967295 ∨ v[i] = s.counters[i]) :
    s.Keeps { s with counters := v } where
  pending := rfl
  store := id
  queues := id
  counters hs i := (h i).elim id (fun e => e ▸ hs i)
  settings := id
  window := id
  ack := id
  cache := id

/-- A counter that goes up stops at its largest value. -/
theorem State.keeps_bump (c : Counter) (n : Nat) (s : State) : s.Keeps (s.bump c n) := by
  refine State.keeps_counters fun i => ?_
  rcases eq_or_ne c.index i with rfl | hne
  · left
    simp [capTo, counterMax]
  · right
    exact Vector.getElem_set_ne _ _ (fun e => hne (Fin.ext e))

theorem State.keeps_ports {v : Vector Port 8} {s : State}
    (h : ∀ p : Fin 8, v[p].settings.bitRate < 2 ^ 32 ∨ v[p].settings.bitRate = s.ports[p].settings.bitRate) :
    s.Keeps { s with ports := v } where
  pending := rfl
  store := id
  queues := id
  counters := id
  settings hs := ⟨fun p => (h p).elim id (fun e => e ▸ hs.1 p), hs.2⟩
  window := id
  ack := id
  cache := id

theorem State.keeps_setPort {p : Fin 8} {x : Port} {s : State}
    (h : x.settings.bitRate < 2 ^ 32 ∨ x.settings.bitRate = s.ports[p].settings.bitRate) : s.Keeps (s.setPort p x) := by
  refine State.keeps_ports fun q => ?_
  rcases eq_or_ne p q with rfl | hne
  · simpa using h
  · right
    rw [show (s.ports.set p x)[q] = s.ports[q] from Vector.getElem_set_ne _ _ (fun e => hne (Fin.ext e))]

/-- A channel's slots and threshold stay within their bounds. -/
def Channel.Within (x y : Channel) : Prop :=
  y.slots.length ≤ max x.slots.length 2 ∧ (y.threshold < 256 ∨ y.threshold = x.threshold)

theorem Channel.Within.of_eq {x y : Channel} (h : y.slots = x.slots) (k : y.threshold = x.threshold) : x.Within y :=
  ⟨by rw [h]; exact le_max_left _ _, .inr k⟩

theorem State.keeps_channels {v : Vector Channel 8} {s : State} (h : ∀ c : Fin 8, (s.channels[c]).Within v[c]) :
    s.Keeps { s with channels := v } where
  pending := rfl
  store := id
  queues := fun ⟨hi, hn, hl, hq, hc⟩ => ⟨hi, hn, hl, hq, fun c => (h c).1.trans (max_le (hc c) le_rfl)⟩
  counters := id
  settings := fun ⟨hp, ht, hrest⟩ => ⟨hp, fun c => (h c).2.elim id (fun e => e ▸ ht c), hrest⟩
  window := id
  ack := id
  cache := id

theorem State.keeps_setChannel {c : Fin 8} {x : Channel} {s : State} (h : (s.channels[c]).Within x) :
    s.Keeps (s.setChannel c x) := by
  refine State.keeps_channels fun d => ?_
  rcases eq_or_ne c d with rfl | hne
  · simpa using h
  · rw [show (s.channels.set c x)[d] = s.channels[d] from channels_set_other _ _ _ _ hne]
    exact .of_eq rfl rfl

theorem State.keeps_families {v : Vector Family 8} {s : State} (h : ∀ f : Fin 8, v[f].fits ∨ v[f] = s.families[f]) :
    s.Keeps { s with families := v } where
  pending := rfl
  store := id
  queues := id
  counters := id
  settings := fun ⟨hp, ht, hf, hrest⟩ => ⟨hp, ht, fun f => (h f).elim id (fun e => e ▸ hf f), hrest⟩
  window := id
  ack := id
  cache := id

theorem State.keeps_tb {t : TimeBase} {s : State} (h : t.window < 256 ∨ t.window = s.tb.window) :
    s.Keeps { s with tb := t } where
  pending := rfl
  store := id
  queues := id
  counters := id
  settings := fun ⟨hp, ht, hf, hw, hrest⟩ => ⟨hp, ht, hf, h.elim id (fun e => e ▸ hw), hrest⟩
  window := id
  ack := id
  cache := id

theorem State.keeps_rules {v : Vector Rule 16} {s : State} (h : ∀ n : Fin 16, v[n].fits ∨ v[n] = s.rules[n]) :
    s.Keeps { s with rules := v } where
  pending := rfl
  store := id
  queues := id
  counters := id
  settings := fun ⟨hp, ht, hf, hw, hr, hu, hrest⟩ => ⟨hp, ht, hf, hw, hr, fun n => (h n).elim id (fun e => e ▸ hu n), hrest⟩
  window := id
  ack := id
  cache := id

theorem State.keeps_mc {m : MergeUnit} {s : State} (h : m.hold < 65536 ∨ m.hold = s.mc.hold)
    (k : m.quiet < 65536 ∨ m.quiet = s.mc.quiet) : s.Keeps { s with mc := m } where
  pending := rfl
  store := id
  queues := id
  counters := id
  settings := fun ⟨hp, ht, hf, hw, hr, hu, hh, hq⟩ =>
    ⟨hp, ht, hf, hw, hr, hu, h.elim id (fun e => e ▸ hh), k.elim id (fun e => e ▸ hq)⟩
  window := id
  ack := id
  cache := id

/-! ### The classifier -/

/-- The range table holds entries of the old one, or entries that fit. -/
def Classifier.RangesFit (c d : Classifier) : Prop := ∀ n : Fin 8, d.ranges[n].fits ∨ d.ranges[n] = c.ranges[n]

theorem State.keepsBounds_cl {d : Classifier} {s : State} (h : s.cl.RangesFit d) : s.KeepsBounds { s with cl := d } where
  pending := rfl
  store := id
  queues := id
  counters := id
  settings := fun ⟨hp, ht, hf, hw, hr, hrest⟩ => ⟨hp, ht, hf, hw, fun n => (h n).elim id (fun e => e ▸ hr n), hrest⟩
  window := id
  ack := id

/-- The cache stays, and each walk entry that is in use afterwards has the meter ID it had before. -/
def Classifier.Calm (c d : Classifier) : Prop :=
  d.cache = c.cache ∧ ∀ (w : Fin 4) (k : Walk), d.walks[w] = some k → ∃ l, c.walks[w] = some l ∧ l.meterId = k.meterId

theorem Classifier.Calm.of_eq {c d : Classifier} (h : d.cache = c.cache) (k : d.walks = c.walks) : c.Calm d :=
  ⟨h, fun w l hl => ⟨l, by rw [← k]; exact hl, rfl⟩⟩

theorem State.cacheOk_of_calm {s t : State} (h : s.cl.Calm t.cl) (hs : s.cacheOk) : t.cacheOk := by
  obtain ⟨hcache, hwalks⟩ := h
  obtain ⟨hage, hne, hwalk, hboth⟩ := hs
  refine ⟨?ages, ?entries, fun v w k l hk hl hvw => ?walks, fun i w e k he hk => ?both⟩
  case ages => simpa only [Classifier.cacheUsed, hcache] using hage
  case entries => simpa only [hcache] using hne
  case walks =>
    obtain ⟨k', hk', hkid⟩ := hwalks v k hk
    obtain ⟨l', hl', hlid⟩ := hwalks w l hl
    rw [← hkid, ← hlid]
    exact hwalk v w k' l' hk' hl' hvw
  case both =>
    obtain ⟨k', hk', hkid⟩ := hwalks w k hk
    rw [hcache] at he
    rw [← hkid]
    exact hboth i w e k' he hk'

theorem State.keeps_cl {d : Classifier} {s : State} (h : s.cl.RangesFit d) (hc : s.cl.Calm d) :
    s.Keeps { s with cl := d } := ⟨s.keepsBounds_cl h, s.cacheOk_of_calm hc⟩

/-- An update of the classifier beside ranges, cache and walks. -/
theorem State.keeps_cl_of_eq {d : Classifier} {s : State} (hr : d.ranges = s.cl.ranges) (hc : d.cache = s.cl.cache)
    (hw : d.walks = s.cl.walks) : s.Keeps { s with cl := d } :=
  s.keeps_cl (fun n => .inr (by rw [hr])) (.of_eq hc hw)

/-- A walk entry freed, or written with the meter ID it has. -/
theorem Classifier.calm_setWalk {c : Classifier} {w : Fin 4} {x : Option Walk}
    (h : ∀ k, x = some k → ∃ l, c.walks[w] = some l ∧ l.meterId = k.meterId) :
    c.Calm { c with walks := c.walks.set w x } := by
  refine ⟨rfl, fun v k hk => ?_⟩
  rcases eq_or_ne w v with rfl | hne
  · exact h k (by simpa using hk)
  · have hv : (c.walks.set w x)[v] = c.walks[v] := Vector.getElem_set_ne _ _ (fun e => hne (Fin.ext e))
    exact ⟨k, hv ▸ hk, rfl⟩

theorem State.keeps_setWalk {w : Fin 4} {x : Option Walk} {s : State}
    (h : ∀ k, x = some k → ∃ l, s.cl.walks[w] = some l ∧ l.meterId = k.meterId) : s.Keeps (s.setWalk w x) :=
  s.keeps_cl (fun _ => .inr rfl) (Classifier.calm_setWalk h)

/-! ### The trunk link -/

/-- The link's queues stay within their rooms, and no upload frame comes into transmission owned. -/
structure Trunk.Within (t u : Trunk) : Prop where
  inbound : u.inbound.length ≤ max t.inbound.length 2
  notices : u.notices.length ≤ max t.notices.length 16
  live : u.live.length ≤ max t.live.length 64
  tx : ∀ f b, u.tx = some ⟨.upload f true, b⟩ → t.tx = some ⟨.upload f true, b⟩

theorem Trunk.Within.of_eq {t u : Trunk} (hi : u.inbound = t.inbound) (hn : u.notices = t.notices) (hl : u.live = t.live)
    (hx : u.tx = t.tx) : t.Within u :=
  ⟨hi ▸ le_max_left _ _, hn ▸ le_max_left _ _, hl ▸ le_max_left _ _, fun _ _ h => hx ▸ h⟩

theorem State.keeps_tl {u : Trunk} {s : State} (h : s.tl.Within u) : s.Keeps { s with tl := u } where
  pending := rfl
  store := id
  queues := fun ⟨hi, hn, hl, hq, hc⟩ =>
    ⟨h.inbound.trans (max_le hi le_rfl), h.notices.trans (max_le hn le_rfl), h.live.trans (max_le hl le_rfl), hq, hc⟩
  counters := id
  settings := id
  window := fun ⟨hsum, htx, hup⟩ => ⟨hsum, fun f b hf => htx f b (h.tx f b hf), hup⟩
  ack := id
  cache := id

/-- An update of the link beside its queues and its transmission. -/
theorem State.keeps_tl_of_eq {u : Trunk} {s : State} (hi : u.inbound = s.tl.inbound) (hn : u.notices = s.tl.notices)
    (hl : u.live = s.tl.live) (hx : u.tx = s.tl.tx) : s.Keeps { s with tl := u } := s.keeps_tl (.of_eq hi hn hl hx)

/-! ### The store port -/

theorem State.keeps_port {p : StorePort} {s : State} (h : p.uploads ≤ s.port.uploads) : s.Keeps { s with port := p } where
  pending := rfl
  store := id
  queues := id
  counters := id
  settings := id
  window := fun ⟨hsum, htx, hup⟩ => by
    refine ⟨hsum, htx, ?_⟩
    rcases Nat.eq_zero_or_pos p.uploads with hz | hz
    · exact .inl hz
    · rcases hup with h0 | ⟨h1, hready, hroom⟩
      · exact absurd (h.trans_eq h0) hz.not_ge
      · exact .inr ⟨le_antisymm (h.trans_eq h1) hz, hready, hroom⟩
  ack := id
  cache := id

/-! ### The journal and the upload engine -/

/-- The append queue stays within its room, the mark target stands, and mark done and the serial being marked stay at or
below it. -/
structure Journal.Within (j k : Journal) : Prop where
  queue : k.queue.length ≤ max j.queue.length 64
  target : k.markTarget = j.markTarget
  marks : j.markDone ≤ j.markTarget → (∀ n, j.marking = some n → n ≤ j.markTarget) →
    k.markDone ≤ j.markTarget ∧ ∀ n, k.marking = some n → n ≤ j.markTarget

theorem Journal.Within.of_eq {j k : Journal} (hq : k.queue.length ≤ max j.queue.length 64)
    (ht : k.markTarget = j.markTarget) (hd : k.markDone = j.markDone) (hm : k.marking = j.marking) : j.Within k :=
  ⟨hq, ht, fun h h' => ⟨hd ▸ h, hm ▸ h'⟩⟩

theorem State.keeps_journal {k : Journal} {s : State} (h : s.journal.Within k) : s.Keeps { s with journal := k } where
  pending := rfl
  store := id
  queues := fun ⟨hi, hn, hl, hq, hc⟩ => ⟨hi, hn, hl, h.queue.trans (max_le hq le_rfl), hc⟩
  counters := id
  settings := id
  window := id
  ack := fun ⟨hack, hceil, hdone, hmark⟩ => by
    obtain ⟨hdone', hmark'⟩ := h.marks hdone hmark
    exact ⟨hack.trans h.target.symm, hceil, h.target.symm ▸ hdone', h.target.symm ▸ hmark'⟩
  cache := id

/-- The engine's window and ready frame do not grow, and its serials stand, the ceiling perhaps higher. -/
structure UploadEngine.Within (u v : UploadEngine) : Prop where
  window : v.window.length ≤ u.window.length
  ready : v.ready = u.ready
  ack : v.lastAck = u.lastAck
  ceiling : u.ceiling ≤ v.ceiling

theorem UploadEngine.Within.refl (u : UploadEngine) : u.Within u := ⟨le_rfl, rfl, rfl, le_rfl⟩

theorem State.keeps_ue {v : UploadEngine} {s : State} (h : s.ue.Within v) : s.Keeps { s with ue := v } where
  pending := rfl
  store := id
  queues := id
  counters := id
  settings := id
  window := fun ⟨hsum, htx, hup⟩ => by
    refine ⟨?_, fun f b hf => h.ready ▸ htx f b hf, hup.imp_right fun ⟨h1, hready, hroom⟩ => ?_⟩
    · show v.window.length + v.ready.toList.length ≤ 8
      have := h.window
      rw [h.ready]
      omega
    · exact ⟨h1, h.ready ▸ hready, h.window.trans_lt hroom⟩
  ack := fun ⟨hack, hceil, hrest⟩ => ⟨h.ack.trans hack, h.ack ▸ hceil.trans h.ceiling, hrest⟩
  cache := id

/-- Serials set afresh together, or moved by an acknowledgment. -/
theorem State.keeps_serials {k : Journal} {v : UploadEngine} {s : State} (hq : k.queue.length ≤ max s.journal.queue.length 64)
    (hw : v.window.length ≤ s.ue.window.length) (hr : v.ready = s.ue.ready)
    (ha : s.ackOk → State.ackOk { s with journal := k, ue := v }) : s.Keeps { s with journal := k, ue := v } where
  pending := rfl
  store := id
  queues := fun ⟨hi, hn, hl, hq', hc⟩ => ⟨hi, hn, hl, hq.trans (max_le hq' le_rfl), hc⟩
  counters := id
  settings := id
  window := fun ⟨hsum, htx, hup⟩ => by
    refine ⟨?_, fun f b hf => hr ▸ htx f b hf, hup.imp_right fun ⟨h1, hready, hroom⟩ => ⟨h1, hr ▸ hready, hw.trans_lt hroom⟩⟩
    show v.window.length + v.ready.toList.length ≤ 8
    rw [hr]
    omega
  ack := ha
  cache := id

end Sys2Proof.Machine
end

section
/-! SUPPORT. What the operations that the blocks share keep: events, replies, the upload stream given up, the store port,
and the operations that end without a row. -/

namespace Sys2Proof.Machine

variable {s : State}

/-- An operation that keeps, and a counter that goes up. -/
theorem State.Keeps.bump {s t : State} (h : s.Keeps t) (c : Counter) (n : Nat) : s.Keeps (t.bump c n) :=
  h.trans (t.keeps_bump c n)

/-! ### Events, notices, replies -/

theorem State.keeps_queueNotice (n : Notice) (s : State) : s.Keeps (s.queueNotice n) := by
  unfold State.queueNotice
  split
  next hroom =>
    refine State.keeps_tl ⟨le_max_left _ _, ?_, le_max_left _ _, fun _ _ h => h⟩
    simp only [noticeRoom] at hroom
    simp only [List.length_append, List.length_cons, List.length_nil]
    omega
  next =>
    refine State.Keeps.bump ?_ _ _
    exact State.keeps_tl_of_eq rfl rfl rfl rfl

theorem State.keeps_raise (e : Event) (d : Word) (s : State) : s.Keeps (s.raise e d) := by
  unfold State.raise
  split
  · exact .refl s
  · have hflags : s.Keeps { s with tl := { s.tl with flags := s.tl.flags ||| (1#16 <<< e.number) } } :=
      State.keeps_tl_of_eq rfl rfl rfl rfl
    dsimp only
    split
    · exact hflags.trans (State.keeps_queueNotice _ _)
    · exact hflags

theorem State.Keeps.raise {s t : State} (h : s.Keeps t) (e : Event) (d : Word) : s.Keeps (t.raise e d) :=
  h.trans (t.keeps_raise e d)

theorem State.keeps_queueCompletion (r : Bool) (n : Notice) (s : State) : s.Keeps (s.queueCompletion r n) := by
  unfold State.queueCompletion
  generalize (if r = true then 15 else 14) = bit
  split
  · exact s.keeps_queueNotice n
  · exact .refl s

theorem State.keeps_endLong (rc : ReplyCode) (results : List Byte) (s : State) : s.Keeps (s.endLong rc results) := by
  unfold State.endLong
  split
  · exact State.keeps_tl_of_eq rfl rfl rfl rfl
  · exact .refl s

theorem State.keeps_setWork (w : Work) (s : State) : s.Keeps (s.setWork w) := by
  unfold State.setWork
  split
  · exact State.keeps_tl_of_eq rfl rfl rfl rfl
  · exact .refl s

theorem State.keeps_startLong (tag code : Byte) (w : Work) (s : State) : s.Keeps (s.startLong tag code w) :=
  State.keeps_tl_of_eq rfl rfl rfl rfl

theorem State.keeps_answer (tag code : Byte) (rc : ReplyCode) (results : List Byte) (s : State) :
    s.Keeps (s.answer tag code rc results) := State.keeps_tl_of_eq rfl rfl rfl rfl

theorem State.keeps_takeFrame (s : State) : s.Keeps s.takeFrame :=
  State.keeps_tl ⟨by simp, le_max_left _ _, le_max_left _ _, fun _ _ h => h⟩

theorem State.keeps_setTrunk {u : Trunk} (h : s.tl.Within u) : s.Keeps (s.setTrunk u) := State.keeps_tl h

theorem State.keeps_setRoute (r : RouteManager) (s : State) : s.Keeps (s.setRoute r) := s.keeps_rm r

theorem State.keeps_routeTo (st : RouteState) (s : State) : s.Keeps (s.routeTo st) := s.keeps_rm _

/-! ### The upload reads of the port -/

/-- The port's upload reads, with one more requester. -/
theorem StorePort.uploads_append (p : StorePort) (r : StoreReq) (h : r.client ≠ .upload) :
    ({ p with waiting := p.waiting ++ [r] } : StorePort).uploads = p.uploads := by
  simp [StorePort.uploads, List.countP_append, h]

theorem StorePort.uploads_filter_le (p : StorePort) (q : StoreReq → Bool) :
    ({ p with waiting := p.waiting.filter q } : StorePort).uploads ≤ p.uploads := by
  have : (p.waiting.filter q).countP (·.client == .upload) ≤ p.waiting.countP (·.client == .upload) :=
    List.filter_sublist.countP_le
  simp only [StorePort.uploads]
  omega

/-- A requester renamed from an upload read is no upload read. -/
theorem ActiveOp.countP_upload_gone (o : Option ActiveOp) :
    (o.map (fun a => if a.client = .upload then { a with client := .uploadGone } else a)).toList.countP
      (·.client == .upload) = 0 := by
  cases o with
  | none => rfl
  | some a => by_cases h : a.client = .upload <;> simp [h]

theorem State.keeps_dropUploadRead (s : State) : s.Keeps s.dropUploadRead := by
  refine State.keeps_port ?_
  have hwait := s.port.uploads_filter_le (fun r => r.client != .upload)
  simp only [StorePort.uploads, ActiveOp.countP_upload_gone] at hwait ⊢
  omega

theorem State.keeps_leaveUploadRead (s : State) : s.Keeps s.leaveUploadRead := by
  refine State.keeps_port ?_
  have hwait : (s.port.waiting.map (fun r => if r.client = .upload then { r with client := .uploadGone } else r)).countP
      (·.client == .upload) = 0 := by
    rw [List.countP_map, List.countP_eq_zero]
    intro r _
    by_cases h : r.client = .upload <;> simp [h]
  simp only [StorePort.uploads, ActiveOp.countP_upload_gone, hwait]
  omega

/-! ### The upload stream given up -/

theorem State.keeps_setUpload {v : UploadEngine} (h : s.ue.Within v) : s.Keeps (s.setUpload v) := State.keeps_ue h

theorem State.keeps_movePointer (p : Nat × Nat) (s : State) : s.Keeps (s.movePointer p) :=
  State.keeps_ue ⟨le_rfl, rfl, rfl, le_rfl⟩

theorem State.keeps_putBack (s : State) : s.Keeps s.putBack := by
  unfold State.putBack
  split
  · exact State.keeps_ue ⟨le_rfl, rfl, rfl, le_rfl⟩
  · exact .refl s

theorem State.putBack_gathered (s : State) : s.putBack.ue.gathered = [] := by
  unfold State.putBack
  split
  · rfl
  · assumption

/-- With nothing gathered no ready frame is made. -/
theorem State.keeps_closeGathering (h : s.ue.gathered = []) : s.Keeps s.closeGathering := by
  unfold State.closeGathering
  simp only [h, List.length_nil, ne_eq, not_true_eq_false, and_false, or_false, Nat.le_zero, OfNat.ofNat_ne_zero, if_false]
  exact State.keeps_ue ⟨le_rfl, rfl, rfl, le_rfl⟩

theorem State.keeps_stopGathering (s : State) : s.Keeps s.stopGathering :=
  s.keeps_putBack.trans s.putBack.keeps_dropUploadRead

theorem State.stopGathering_gathered (s : State) : s.stopGathering.ue.gathered = [] := s.putBack_gathered

/-- A frame disowned is not owned. -/
theorem Transmission.disown_not_owned (x : Option Transmission) (f : List UploadRecord) (b : List Byte) :
    x.map Transmission.disown ≠ some ⟨.upload f true, b⟩ := by
  rcases x with _ | ⟨k, bs⟩
  · simp
  · cases k <;> simp [Transmission.disown]

/-- A ready frame given up is taken from the transmission with it. -/
theorem State.keeps_giveUpReady (s : State) : s.Keeps s.giveUpReady where
  pending := rfl
  store := id
  queues := id
  counters := id
  settings := id
  window := fun ⟨hsum, _, hup⟩ =>
    ⟨(Nat.le_add_right _ _).trans hsum, fun f b hf => absurd hf (Transmission.disown_not_owned _ f b),
      hup.imp_right fun ⟨h1, _, hroom⟩ => ⟨h1, rfl, hroom⟩⟩
  ack := id
  cache := id

theorem State.movePointer_gathered (p : Nat × Nat) (s : State) : (s.movePointer p).ue.gathered = s.ue.gathered := rfl

theorem State.keeps_rewindPointer (h : s.ue.gathered = []) : s.Keeps s.rewindPointer := by
  have hmoved : ∃ t : State, s.Keeps t ∧ t.ue.gathered = [] ∧ s.rewindPointer =
      (t.giveUpReady.setUpload { t.giveUpReady.ue with window := [], expiry := none }).closeGathering := by
    cases hp : s.ue.rewindPos with
    | some p => exact ⟨s.movePointer p, s.keeps_movePointer p, h, by simp only [State.rewindPointer, hp]⟩
    | none => exact ⟨s, .refl s, h, by simp only [State.rewindPointer, hp]⟩
  obtain ⟨t, hkeeps, hnone, heq⟩ := hmoved
  rw [heq]
  refine (hkeeps.trans t.keeps_giveUpReady).trans (Keeps.trans ?_ (State.keeps_closeGathering hnone))
  exact State.keeps_setUpload ⟨Nat.zero_le _, rfl, rfl, le_rfl⟩

theorem State.keeps_rewindUpload (s : State) : s.Keeps s.rewindUpload :=
  s.keeps_stopGathering.trans (State.keeps_rewindPointer s.stopGathering_gathered)

theorem State.keeps_breakUpload (s : State) : s.Keeps s.breakUpload :=
  (s.keeps_putBack.trans s.putBack.keeps_leaveUploadRead).trans (State.keeps_rewindPointer s.putBack_gathered)

theorem State.keeps_stallUpload (d : Word) (s : State) : s.Keeps (s.stallUpload d) := by
  refine State.Keeps.raise ?_ _ _
  exact State.keeps_setUpload ⟨le_rfl, rfl, rfl, le_rfl⟩

theorem State.keeps_failUploadRead (s : State) : s.Keeps s.failUploadRead :=
  s.keeps_rewindUpload.trans (State.keeps_stallUpload _ _)

/-! ### The store port -/

theorem State.keeps_failWalk (w : Fin 4) (s : State) : s.Keeps (s.failWalk w) := by
  unfold State.failWalk
  split
  next k hk =>
    split
    · exact State.keeps_setWalk fun l hl => ⟨k, hk, by cases hl; rfl⟩
    · exact .refl s
  next => exact .refl s

theorem State.keeps_takeFailed (c : Client) (s : State) : s.Keeps (s.takeFailed c) := State.keeps_port le_rfl

theorem State.keeps_request {c : Client} (h : c ≠ .upload) (op : StoreOp) (s : State) : s.Keeps (s.request c op) := by
  unfold State.request
  split
  · cases c
    case walk w => exact s.keeps_failWalk w
    case append | opening | mark | reclaim | upload | uploadGone => exact .refl s
    case query | longOp | startup => exact State.keeps_port le_rfl
  · exact State.keeps_port (StorePort.uploads_append _ _ h).le

theorem bestRequest_mem {l : List StoreReq} {r : StoreReq} (h : bestRequest l = some r) : r ∈ l := by
  induction l generalizing r with
  | nil => simp [bestRequest] at h
  | cons a l ih =>
    unfold bestRequest at h
    split at h
    next q hq =>
      split at h <;> cases h
      · exact List.mem_cons_of_mem _ (ih hq)
      · exact List.mem_cons_self
    next => cases h; exact List.mem_cons_self

theorem lookupRequest_mem {l : List StoreReq} {r : StoreReq} (h : lookupRequest l = some r) : r ∈ l :=
  List.mem_of_find?_eq_some h

/-- An operation that waits is begun in a free port. -/
theorem State.keeps_beginOp {r : StoreReq} (hr : r ∈ s.port.waiting) (hfree : s.port.active = none) : s.Keeps (s.beginOp r) := by
  refine State.keeps_port ?_
  have hcount := (List.perm_cons_erase hr).countP_eq (·.client == .upload)
  rw [List.countP_cons] at hcount
  simp only [StorePort.uploads, hfree, Option.toList, List.countP_nil, List.countP_cons]
  omega

theorem State.keeps_grant (s : State) : s.Keeps s.grant := by
  unfold State.grant
  split
  next a hactive hsuspended =>
    split
    · split
      next r hr =>
        split
        · exact .refl s
        · refine Keeps.trans ?_ (State.keeps_bump _ _ _)
          refine Keeps.trans (State.keeps_port ?_) (State.keeps_beginOp (lookupRequest_mem hr) rfl)
          simp [StorePort.uploads, hactive, hsuspended]
      next => exact .refl s
    · exact .refl s
  next => exact .refl s
  next e hactive hsuspended =>
    split
    next r hr => exact State.keeps_beginOp (lookupRequest_mem hr) hactive
    next => exact State.keeps_port (by simp [StorePort.uploads, hactive, hsuspended])
  next hactive _ =>
    split
    next r hr => exact State.keeps_beginOp (bestRequest_mem hr) hactive
    next => exact .refl s

theorem State.keeps_endOp (s : State) : s.Keeps s.endOp := by
  unfold State.endOp
  split
  next a _ =>
    refine (State.keeps_store (m := a.op.apply s.store) (StoreOp.wf_apply _ _)).trans (State.keeps_port ?_)
    simp only [StorePort.uploads, Option.toList, List.countP_nil]
    omega
  next => exact .refl s

theorem State.keeps_testReclaim (s : State) : s.Keeps s.testReclaim := by
  unfold State.testReclaim
  split
  · exact State.keeps_request (by simp) _ _
  · exact .refl s

theorem State.keeps_testLow (s : State) : s.Keeps s.testLow := by
  unfold State.testLow
  split
  · exact State.keeps_raise _ _ _
  · exact .refl s

theorem State.keeps_setJournal {k : Journal} (h : s.journal.Within k) : s.Keeps (s.setJournal k) := State.keeps_journal h

theorem State.keeps_discardQueue (s : State) : s.Keeps s.discardQueue := by
  unfold State.discardQueue
  split
  · exact .refl s
  · refine State.Keeps.bump ?_ _ _
    exact State.keeps_journal (.of_eq (Nat.zero_le _) rfl rfl rfl)

theorem State.keeps_sectorOpened (s : State) : s.Keeps s.sectorOpened := by
  have hjournal : s.Keeps { s with journal := s.sectorOpened.journal } :=
    State.keeps_journal (.of_eq (le_max_left _ _) rfl rfl rfl)
  refine hjournal.trans (State.keeps_ue (v := s.sectorOpened.ue) ?_)
  exact ⟨le_rfl, rfl, rfl, le_rfl⟩

theorem State.keeps_failStore (d : Word) (s : State) : s.Keeps (s.failStore d) := by
  unfold State.failStore
  dsimp only
  refine Keeps.trans ?_ (State.keeps_discardQueue _)
  set u := ((s.raise .storeFault d).cutOps false _) with hu
  have hcut : s.Keeps u := hu ▸ (s.keeps_raise .storeFault d).trans (State.keeps_cutOps _ _ _)
  set v : State := { u with storeFailed := true, journal := _, port := _ } with hv
  have hfailed : s.Keeps v := by
    refine hcut.trans ((u.keeps_storeFailed true).trans (Keeps.trans (State.keeps_journal ?_) (State.keeps_port (Nat.zero_le _))))
    exact .of_eq (le_max_left _ _) rfl rfl rfl
  have hwalks := hfailed.trans (.foldl (fun t w => t.keeps_failWalk w) [0, 1, 2, 3] v)
  split
  · exact hwalks.trans (State.keeps_failUploadRead _)
  · exact hwalks

/-! ### What the blocks want -/

theorem State.keeps_wantAppend (s : State) : s.Keeps s.wantAppend := by
  unfold State.wantAppend
  split
  case isFalse => exact .refl s
  split
  case h_1 => exact .refl s
  split
  · split
    · exact .refl s
    · exact State.keeps_request (by simp) _ _
  · split
    · exact State.keeps_request (by simp) _ _
    · exact .refl s

theorem State.keeps_wantMark (s : State) : s.Keeps s.wantMark := by
  unfold State.wantMark
  split
  · exact State.keeps_request (by simp) _ _
  · exact .refl s

theorem StorePort.uploads_of_not_outstanding {p : StorePort} (h : p.outstanding .upload = false) : p.uploads = 0 := by
  obtain ⟨wait, act, sus, f, g⟩ := p
  simp only [StorePort.outstanding, Bool.or_eq_false_iff, List.any_eq_false] at h
  obtain ⟨⟨hw, ha⟩, hs⟩ := h
  have hwait : wait.countP (·.client == .upload) = 0 := List.countP_eq_zero.mpr hw
  cases act <;> cases sus <;> simp_all [StorePort.uploads]

/-- An upload read asked for while none is outstanding, without a ready frame and with room in the window (R159). -/
theorem State.keeps_request_upload (hready : s.ue.ready = none) (hroom : s.ue.window.length < windowRoom)
    (hnone : s.port.outstanding .upload = false) (op : StoreOp) (hstore : s.storeFailed = false) :
    s.Keeps (s.request .upload op) := by
  have hreq : s.request .upload op = { s with port := { s.port with waiting := s.port.waiting ++ [⟨.upload, op⟩] } } := by
    simp [State.request, hstore]
  rw [hreq]
  refine ⟨⟨rfl, id, id, id, id, fun ⟨hsum, htx, _⟩ => ⟨hsum, htx, .inr ⟨?_, hready, hroom⟩⟩, id⟩, id⟩
  have := StorePort.uploads_of_not_outstanding hnone
  simp only [StorePort.uploads, List.countP_append] at this ⊢
  simp only [List.countP_singleton]
  simp
  omega

theorem State.keeps_wantUpload (s : State) : s.Keeps s.wantUpload := by
  unfold State.wantUpload
  split
  next h =>
    obtain ⟨_, _, hready, hroom, _, _, hnone⟩ := h
    split
    · exact s.keeps_failUploadRead
    next hstore => exact State.keeps_request_upload hready hroom hnone _ (by simpa using hstore)
  next => exact .refl s

theorem State.keeps_beginErase (s : State) : s.Keeps s.beginErase := by
  refine State.beginErase_cases s.Keeps (.refl s) (s.keeps_endLong _ _) fun l w op _ _ _ _ => ?_
  refine Keeps.trans ?_ (State.keeps_request (by simp) op _)
  exact State.keeps_tl_of_eq rfl rfl rfl rfl

theorem State.keeps_want (s : State) : s.Keeps s.want :=
  ((s.keeps_beginErase.trans (State.keeps_wantAppend _)).trans (State.keeps_wantMark _)).trans (State.keeps_wantUpload _)

theorem State.keeps_pump (s : State) : s.Keeps s.pump := s.keeps_want.trans (State.keeps_grant _)

/-- An operation that keeps, and the close of the step. -/
theorem State.Keeps.pump {s t : State} (h : s.Keeps t) : s.Keeps t.pump := h.trans t.keeps_pump

/-! ### Operations that end without a row -/

theorem State.keeps_reportDamaged (sec : Nat) (s : State) : s.Keeps (s.reportDamaged sec) :=
  (s.keeps_bump _ _).trans (.foldl (fun t _ => t.keeps_raise _ _) _ _)

theorem State.keeps_replaySlot (sec slot rep skip : Nat) (s : State) : s.Keeps (s.replaySlot sec slot rep skip).1 := by
  unfold State.replaySlot
  split
  case h_2 => exact .refl s
  split
  · exact .refl s
  split
  case h_2 => exact State.keeps_bump _ _ _
  split
  · exact State.keeps_rm _ _
  · exact State.keeps_bump _ _ _

theorem State.keeps_replayNext (sec slot rep skip : Nat) (s : State) : s.Keeps (s.replayNext sec slot rep skip) := by
  unfold State.replayNext
  dsimp only
  split
  · exact State.keeps_startup _ _
  · exact (State.keeps_startup _ _).trans (State.keeps_request (by simp) _ _)

/-- The end of an operation, the work moved on, and the next request. -/
theorem State.Keeps.request {s t : State} (h : s.Keeps t) {c : Client} (hc : c ≠ .upload) (op : StoreOp) :
    s.Keeps (t.request c op) := h.trans (State.keeps_request hc op t)

theorem State.Keeps.setWork {s t : State} (h : s.Keeps t) (w : Work) : s.Keeps (t.setWork w) := h.trans (t.keeps_setWork w)

theorem State.keeps_afterLongOp {w : Work} {op : StoreOp} {s t : State} (h : s.afterLongOp w op = some t) : s.Keeps t := by
  have hend := s.keeps_endOp
  have htail : s.endOp.Keeps { s.endOp with journal :=
      { s.endOp.journal with tail := nextSector s.endOp.journal.tail, ahead := s.endOp.journal.ahead + 1 } } :=
    State.keeps_journal (.of_eq (le_max_left _ _) rfl rfl rfl)
  unfold State.afterLongOp at h
  split at h
  case h_1 | h_2 | h_3 =>
    split at h
    · rw [← Option.some.inj h]; exact (hend.setWork _).request (by simp) _
    · cases h
  case h_4 =>
    split at h
    · rw [← Option.some.inj h]; exact ((hend.trans (State.keeps_reportDamaged _ _)).setWork _).request (by simp) _
    · cases h
  case h_5 | h_6 | h_7 | h_11 | h_12 => rw [← Option.some.inj h]; exact hend.request (by simp) _
  case h_8 | h_9 => rw [← Option.some.inj h]; exact (hend.setWork _).request (by simp) _
  case h_10 =>
    dsimp only at h
    split at h
    all_goals rw [← Option.some.inj h]; exact ((hend.trans htail).setWork _).request (by simp) _
  case h_13 =>
    rw [← Option.some.inj h]
    exact ((hend.trans (State.keeps_sectorOpened _)).setWork _).request (by simp) _
  case h_14 => cases h

theorem State.keeps_afterStartup {op : StoreOp} {s t : State} (h : s.afterStartup op = some t) : s.Keeps t := by
  have hend := s.keeps_endOp
  unfold State.afterStartup at h
  split at h
  case h_1 =>
    split at h
    · rw [← Option.some.inj h]; exact hend.request (by simp) _
    · cases h
  case h_2 | h_4 => rw [← Option.some.inj h]; exact hend.request (by simp) _
  case h_3 =>
    split at h
    · rw [← Option.some.inj h]
      exact ((hend.trans (State.keeps_reportDamaged _ _)).trans (State.keeps_startup _ _)).request (by simp) _
    · cases h
  case h_5 =>
    rw [← Option.some.inj h]
    exact (hend.trans (State.keeps_replaySlot _ _ _ _ _)).trans (State.keeps_replayNext _ _ _ _ _)
  case h_6 => cases h

theorem State.keeps_advance {s t : State} (h : s.advance? = some t) : s.Keeps t := by
  unfold State.advance? at h
  have hopening (op : StoreOp) : s.Keeps (if s.endOp.erasing then s.endOp else s.endOp.request .opening op) := by
    split
    · exact s.keeps_endOp
    · exact s.keeps_endOp.request (by simp) _
  split at h
  · cases h
  · split at h
    · cases h; exact (hopening _).pump
    · cases h; exact (hopening _).pump
    · split at h
      · obtain ⟨u, hu, rfl⟩ := Option.map_eq_some_iff.mp h
        exact (State.keeps_afterLongOp hu).pump
      · cases h
    · obtain ⟨u, hu, rfl⟩ := Option.map_eq_some_iff.mp h
      exact (State.keeps_afterStartup hu).pump
    · cases h

theorem State.keeps_settle (n : Nat) (s : State) : s.Keeps (s.settle n) := by
  induction n generalizing s with
  | zero => exact .refl s
  | succ n ih =>
    unfold State.settle
    split
    next t h => exact (State.keeps_advance h).trans (ih t)
    next => exact .refl s

theorem State.keeps_settled (s : State) : s.Keeps s.settled := s.keeps_settle _

theorem State.keeps_idle (s : State) : s.Keeps s.idle := by
  unfold State.idle
  split
  · cases h : s.advance? with
    | some t => exact State.keeps_advance h
    | none => exact .refl s
  · exact .refl s

end Sys2Proof.Machine
end

section
/-! SUPPORT. What the operations of each block keep: framers, time base, merge and commit, lookup, upload, journal, route,
resets and link. -/

namespace Sys2Proof.Machine

variable {s : State}

/-! ### Framers and ports (chapter 1) -/

theorem State.keeps_setFramer (c : Fin 8) (f : Framer) (s : State) : s.Keeps (s.setFramer c f) :=
  State.keeps_setChannel (.of_eq rfl rfl)

theorem State.keeps_placeFramer (c : Fin 8) (s : State) : s.Keeps (s.placeFramer c) := s.keeps_setFramer c _

theorem State.keeps_noiseError (c : Fin 8) (s : State) : s.Keeps (s.noiseError c) := by
  unfold State.noiseError
  dsimp only
  split
  · refine State.Keeps.raise ?_ _ _
    exact State.keeps_setChannel (.of_eq rfl rfl)
  · exact State.keeps_setChannel (.of_eq rfl rfl)

theorem State.keeps_putSlot (c : Fin 8) (r : FrameRecord) (s : State) : s.Keeps (s.putSlot c r) := by
  unfold State.putSlot
  dsimp only
  split
  next hroom =>
    refine State.keeps_setChannel ⟨?_, .inr rfl⟩
    simp only [slotRoom] at hroom
    simp only [List.length_append, List.length_cons, List.length_nil]
    omega
  next => exact (s.keeps_bump _ _).raise _ _

/-- A framer placed afresh after an error, which is counted and reaches the noise monitor. -/
theorem State.keeps_frameError (c : Fin 8) (k : Counter) (s : State) : s.Keeps (((s.placeFramer c).bump k).noiseError c) :=
  ((s.keeps_placeFramer c).bump k 1).trans (State.keeps_noiseError _ _)

theorem State.keeps_completeBody (c f : Fin 8) (m v : Nat) (bits : List Bool) (s : State) :
    s.Keeps (s.completeBody c f m v bits) := by
  unfold State.completeBody
  dsimp only
  split
  · split
    · exact ((s.keeps_placeFramer c).bump _ _).trans (State.keeps_putSlot _ _ _)
    · exact s.keeps_frameError c _
  · exact s.keeps_frameError c _

theorem State.keeps_bodyBit (c f : Fin 8) (m v : Nat) (bits : List Bool) (b : Bool) (s : State) :
    s.Keeps (s.bodyBit c f m bits v b) := by
  unfold State.bodyBit
  split
  · exact s.keeps_completeBody _ _ _ _ _
  · exact s.keeps_setFramer _ _

theorem State.keeps_frameItem (c : Fin 8) (it : Item) (s : State) : s.Keeps (s.frameItem c it) := by
  unfold State.frameItem
  split
  case h_1 => exact .refl s
  case h_2 w n b _ =>
    unfold State.huntBit
    dsimp only
    split
    · exact s.keeps_setFramer _ _
    · exact s.keeps_setFramer _ _
  case h_3 => exact s.keeps_setFramer _ _
  case h_4 => exact s.keeps_bodyBit _ _ _ _ _ _
  case h_5 =>
    split
    · exact s.keeps_frameError c _
    · exact s.keeps_bodyBit _ _ _ _ _ _
  case h_6 => exact s.keeps_frameError c _

theorem State.keeps_deliver (p : Fin 8) (it : Item) (s : State) : s.Keeps (s.deliver p it) :=
  State.deliver_induct s.Keeps p it (fun t c h => h.trans (t.keeps_frameItem c it)) s (.refl s)

theorem State.keeps_setPort_of_settings {p : Fin 8} {x : Port} (h : x.settings = s.ports[p].settings) :
    s.Keeps (s.setPort p x) := State.keeps_setPort (.inr (by rw [h]))

theorem State.keeps_sample (p : Fin 8) (smp : Sample) (s : State) : s.Keeps (s.sample p smp) := by
  unfold State.sample
  split
  · refine Keeps.trans ?_ (State.keeps_deliver _ _ _)
    exact State.keeps_setPort_of_settings rfl
  · exact .refl s

theorem State.keeps_sampleOf (c : Fin 8) (smp : Sample) (s : State) : s.Keeps (s.sampleOf c smp) := by
  unfold State.sampleOf
  split
  · exact s.keeps_sample _ _
  · exact .refl s

theorem State.keeps_carrierLost (p : Fin 8) (s : State) : s.Keeps (s.carrierLost p) := by
  unfold State.carrierLost
  have hport : s.Keeps (s.setPort p { s.ports[p] with carrier := false }) := State.keeps_setPort_of_settings rfl
  dsimp only
  split
  · exact hport.trans (State.keeps_deliver _ _ _)
  · exact hport

theorem State.keeps_noiseStep (c : Fin 8) (cause : NoiseCause) (s : State) : s.Keeps (s.noiseStep c cause) := by
  unfold State.noiseStep
  split
  · exact s.keeps_sampleOf c _
  · split
    · exact s.keeps_carrierLost _
    · exact .refl s

theorem State.keeps_checkBit (p : Fin 8) (level : Bool) (s : State) : s.Keeps (s.checkBit p level) := by
  unfold State.checkBit
  dsimp only
  split
  · exact State.keeps_setPort_of_settings rfl
  · exact .refl s

theorem State.keeps_reconf (c : Fin 8) (s : State) : s.Keeps (s.reconf c) := by
  unfold State.reconf
  split
  · exact (s.keeps_placeFramer c).bump _ _
  · exact s.keeps_placeFramer c

theorem State.keeps_refreshFramer (c : Fin 8) (s : State) : s.Keeps (s.refreshFramer c) := by
  unfold State.refreshFramer
  split
  · exact s.keeps_placeFramer c
  · split
    · exact .refl s
    · exact s.keeps_setFramer c _
  · split
    · exact .refl s
    · exact s.keeps_reconf c

/-! ### The time base (chapter 2) -/

theorem State.keeps_tb_of_window {t : TimeBase} (h : t.window = s.tb.window) : s.Keeps { s with tb := t } :=
  State.keeps_tb (.inr h)

theorem TimeBase.tickDay_window (t : TimeBase) : t.tickDay.window = t.window := by
  unfold TimeBase.tickDay
  split <;> rfl

/-- A table mapped, entry by entry. -/
theorem tableMap_getElem {α : Type} {n : Nat} (f : α → α) (v : Vector α n) (i : Fin n) : (tableMap f v)[i] = f v[i] := by
  obtain ⟨⟨l⟩, rfl⟩ := v
  simp [tableMap]

theorem State.keeps_millisecond (s : State) : s.Keeps s.millisecond := by
  have htick : s.Keeps { s with tb := { s.tb.tickDay with runClock := s.tb.runClock + 1 } } :=
    State.keeps_tb_of_window s.tb.tickDay_window
  have hwindows : s.Keeps { s with channels := tableMap Channel.endWindow s.channels } := by
    refine State.keeps_channels fun c => ?_
    rw [tableMap_getElem]
    exact .of_eq rfl rfl
  unfold State.millisecond
  dsimp only
  split
  · refine hwindows.trans ?_
    exact State.keeps_tb_of_window s.tb.tickDay_window
  · exact htick

theorem State.keeps_align (e : Int) (s : State) : s.Keeps (s.align e) := by
  unfold State.align
  dsimp only
  split
  · exact State.keeps_tb_of_window rfl
  · refine State.Keeps.raise ?_ _ _
    exact State.keeps_tb_of_window rfl

theorem State.keeps_edgeByMode (e : Int) (s : State) : s.Keeps (s.edgeByMode e) := by
  unfold State.edgeByMode
  split
  case h_1 => exact .refl s
  case h_2 =>
    split
    · exact s.keeps_raise _ _
    · exact .refl s
  case h_3 =>
    split
    · exact s.keeps_align e
    · exact .refl s
  case h_4 => exact (s.keeps_align e).trans (State.keeps_tb_of_window rfl)

theorem State.keeps_edge (s : State) : s.Keeps s.edge := by
  unfold State.edge
  split
  · exact .refl s
  · split
    · exact s.keeps_bump _ _
    · refine Keeps.trans ?_ (State.keeps_edgeByMode _ _)
      exact State.keeps_tb_of_window rfl

/-! ### Merge and commit (chapter 5) -/

theorem State.keeps_routeCompletion (s : State) : s.Keeps s.routeCompletion := by
  unfold State.routeCompletion
  split
  · exact (s.keeps_rm _).trans (State.keeps_queueCompletion _ _ _)
  · exact .refl s

theorem State.keeps_moveSegment (g : Fin 256) (x y : MeterStatus) (s : State) : s.Keeps (s.moveSegment g x y) := by
  unfold State.moveSegment
  split
  · exact .refl s
  · dsimp only
    split
    · exact ((s.keeps_rm _).trans (State.keeps_queueCompletion _ _ _)).trans (State.keeps_routeCompletion _)
    · exact s.keeps_rm _

theorem State.keeps_setLive {l : List LiveFrame} (h : l.length ≤ max s.tl.live.length 64) : s.Keeps (s.setLive l) :=
  State.keeps_tl ⟨le_max_left _ _, le_max_left _ _, h, fun _ _ h => h⟩

theorem State.keeps_dropLive (id : Word) (s : State) : s.Keeps (s.dropLive id) := (s.keeps_bump _ _).raise _ _

theorem State.keeps_offerLive (f : LiveFrame) (s : State) : s.Keeps (s.offerLive f) := by
  unfold State.offerLive
  split
  next hroom =>
    refine State.keeps_setLive ?_
    simp only [liveRoom] at hroom
    simp only [List.length_append, List.length_cons, List.length_nil]
    omega
  next =>
    split
    · split
      next g hg =>
        refine Keeps.trans (State.keeps_setLive ?_) (State.keeps_dropLive _ _)
        have hmem := List.mem_of_find?_eq_some hg
        have hpos := List.length_pos_of_mem hmem
        simp only [List.length_append, List.length_erase_of_mem hmem, List.length_cons, List.length_nil]
        omega
      next => exact s.keeps_dropLive _
    · exact s.keeps_dropLive _

theorem State.keeps_queueRecord {r : Reading} {flush : Bool} (hroom : s.journal.queue.length < queueRoom) :
    s.Keeps (s.queueRecord r flush) := by
  refine State.keeps_journal (.of_eq ?_ rfl rfl rfl)
  simp only [queueRoom] at hroom
  simp only [List.length_append, List.length_cons, List.length_nil]
  omega

/-- An offer is accepted with room in the queue, by a journal that is READY, with the next serial (R139). -/
theorem State.offerAnswer_accepted {n : Nat} (h : s.offerAnswer = .accepted n) :
    s.journal.queue.length < queueRoom ∧ s.journal.state = .ready ∧ s.storeFailed = false ∧ n = s.journal.nextSerial := by
  unfold State.offerAnswer at h
  split at h
  · cases h
  · split at h
    · cases h
    · split at h
      next hroom _ hready => exact ⟨not_le.mp hroom, hready.1, hready.2, (Offer.accepted.inj h).symm⟩
      next => cases h

theorem State.keeps_journalStage (r : Reading) (offers flush : Bool) (s : State) :
    s.Keeps (s.journalStage r offers flush).1 := by
  unfold State.journalStage
  split
  · split
    next n h => exact State.keeps_queueRecord (State.offerAnswer_accepted h).1
    next => exact (s.keeps_bump _ _).raise _ _
  · exact .refl s

theorem State.keeps_writeStatus (src : Source) (v : Nat) (a : MeterStatus) (s : State) : s.Keeps (s.writeStatus src v a) := by
  unfold State.writeStatus
  split
  · exact s.keeps_rm _
  · exact .refl s

theorem State.keeps_commitReading (e : MergeEntry) (o : ScreenOut) (flush : Bool) (s : State) :
    s.Keeps (s.commitReading e o flush).1 := by
  have hstage (r : Reading) (offers : Bool) : s.Keeps ((s.bump .readings).journalStage r offers flush).1 :=
    (s.keeps_bump .readings 1).trans (State.keeps_journalStage _ _ _ _)
  unfold State.commitReading
  generalize s.readingOf e o = r
  cases s.statusOf e.source with
  | none =>
    dsimp only
    split
    · exact (hstage _ _).trans (State.keeps_offerLive _ _)
    · exact hstage _ _
  | some st =>
    dsimp only
    have hwritten (offers : Bool) (v : Nat) (a : MeterStatus) :
        s.Keeps (((s.bump .readings).journalStage r offers flush).1.writeStatus e.source v a) :=
      (hstage _ _).trans (State.keeps_writeStatus _ _ _ _)
    split
    · exact ((hwritten _ _ _).trans (State.keeps_offerLive _ _)).trans (State.keeps_moveSegment _ _ _ _)
    · exact (hwritten _ _ _).trans (State.keeps_moveSegment _ _ _ _)

/-- An update of the merge table. -/
theorem State.keeps_mergeTable (t : Vector (Option MergeEntry) 32) (s : State) :
    s.Keeps { s with mc := { s.mc with table := t } } := State.keeps_mc (.inr rfl) (.inr rfl)

theorem State.keeps_commit (i : Fin 32) (flush : Bool) (s : State) : s.Keeps (s.commit i flush).1 := by
  unfold State.commit
  split
  · exact .refl s
  · have hfree : s.Keeps (s.freeEntry i) := s.keeps_mergeTable _
    dsimp only
    split
    · exact hfree.bump _ _
    · exact hfree.trans (State.keeps_commitReading _ _ _ _)

theorem State.keeps_createEntry (fr : FrameRecord) (src : Source) (nd : Bool) (s : State) :
    s.Keeps (s.createEntry fr src nd) := by
  unfold State.createEntry
  split
  · exact s.keeps_mergeTable _
  · exact .refl s

theorem State.keeps_forceCommit (s : State) : s.Keeps s.forceCommit := by
  unfold State.forceCommit
  split
  · exact (s.keeps_commit _ _).bump _ _
  · exact .refl s

theorem State.keeps_receive (fr : FrameRecord) (src : Source) (nd : Bool) (s : State) : s.Keeps (s.receive fr src nd) := by
  unfold State.receive
  have hcount := s.keeps_bump .receptions 1
  dsimp only
  split
  · split
    · exact hcount.trans (State.keeps_mergeTable _ _)
    · exact hcount
  · exact (hcount.trans (State.keeps_forceCommit _)).trans (State.keeps_createEntry _ _ _ _)

theorem State.keeps_commitAll (n : Nat) (s : State) : s.Keeps (State.commitAll n s) := by
  induction n generalizing s with
  | zero => exact .refl s
  | succ n ih =>
    unfold State.commitAll
    split
    · exact (s.keeps_commit _ _).trans (ih _)
    · exact .refl s

/-! ### Lookup (chapter 4), but for the route cache -/

theorem State.keeps_handOn (fr : FrameRecord) (src : Source) (s : State) : s.Keeps (s.handOn fr src) := by
  unfold State.handOn
  split
  · exact s.keeps_bump _ _
  · exact s.keeps_receive _ _ _

theorem State.keeps_foreignFrame (fr : FrameRecord) (nd : Bool) (s : State) : s.Keeps (s.foreignFrame fr nd) := by
  unfold State.foreignFrame
  split
  · exact s.keeps_bump _ _
  · exact s.keeps_receive _ _ _

theorem State.keeps_fallbackFrame (fr : FrameRecord) (s : State) : s.Keeps (s.fallbackFrame fr) := by
  unfold State.fallbackFrame
  split
  · exact s.keeps_handOn _ _
  · exact s.keeps_foreignFrame _ _

theorem State.keeps_examineBucket (id : Word) (b : Nat) (ev : Bool) (s : State) : s.Keeps (s.examineBucket id b ev).2 := by
  unfold State.examineBucket State.countDamaged
  dsimp only
  split
  · exact (s.keeps_bump _ _).raise _ _
  · exact s.keeps_bump _ _

theorem State.keeps_park (b : Fin 16) (fr : FrameRecord) (s : State) : s.Keeps (s.park b fr) :=
  s.keeps_cl_of_eq rfl rfl rfl

theorem State.keeps_joinWalk (w : Fin 4) (fr : FrameRecord) (s : State) : s.Keeps (s.joinWalk w fr) := by
  unfold State.joinWalk
  split
  next k b hk _ =>
    split
    · exact (s.keeps_park b fr).trans (State.keeps_setWalk fun l hl => ⟨k, hk, by cases hl; rfl⟩)
    · exact s.keeps_bump _ _
  next => exact s.keeps_bump _ _

theorem State.keeps_stall (fr : FrameRecord) (s : State) : s.Keeps (s.stall fr) := by
  refine State.Keeps.bump ?_ _ _
  exact s.keeps_cl_of_eq rfl rfl rfl

theorem State.examineBucket_cl (id : Word) (b : Nat) (ev : Bool) (s : State) : (s.examineBucket id b ev).2.cl = s.cl :=
  State.countDamaged_cl _ _ _ _

theorem State.keeps_bucketDone (w : Fin 4) (s : State) : s.Keeps (s.bucketDone w) := by
  unfold State.bucketDone
  split
  next k hk =>
    dsimp only
    have hexamined := s.keeps_examineBucket k.meterId (probeBucket k.meterId k.bucketNo) true
    have hsame (l : Walk) (hl : l.meterId = k.meterId) :
        s.Keeps ((s.examineBucket k.meterId (probeBucket k.meterId k.bucketNo) true).2.setWalk w (some l)) := by
      refine hexamined.trans (State.keeps_setWalk fun m hm => ⟨k, ?_, by cases hm; exact hl.symm⟩)
      rw [State.examineBucket_cl]
      exact hk
    split
    · exact hsame _ rfl
    · exact hsame _ rfl
    · split
      · exact (hsame { k with bucketNo := k.bucketNo + 1 } rfl).request (c := .walk w) Client.noConfusion _
      · exact hsame _ rfl
  next => exact .refl s

/-! ### The upload engine (chapter 8) -/

theorem State.keeps_gather (bs : List Byte) (s : State) : s.Keeps (s.gather bs) :=
  State.keeps_ue ⟨le_rfl, rfl, rfl, le_rfl⟩

theorem State.keeps_startUpload (s : State) : s.Keeps s.startUpload := by
  unfold State.startUpload
  refine (s.keeps_stopGathering.trans (State.keeps_giveUpReady _)).trans
    (Keeps.trans ?_ (State.keeps_closeGathering (s.stopGathering_gathered)))
  exact State.keeps_setUpload ⟨Nat.zero_le _, rfl, rfl, le_rfl⟩

theorem State.keeps_stopUpload (s : State) : s.Keeps s.stopUpload := by
  unfold State.stopUpload
  refine (s.keeps_stopGathering.trans (State.keeps_giveUpReady _)).trans ?_
  exact State.keeps_setUpload ⟨Nat.zero_le _, rfl, rfl, le_rfl⟩

theorem State.keeps_timeoutRewind (s : State) : s.Keeps s.timeoutRewind := by
  have hcounted := s.keeps_rewindUpload.bump .uploadRewinds 1
  have hstreak (n : Nat) : s.Keeps ((s.rewindUpload.bump .uploadRewinds).setUpload
      { (s.rewindUpload.bump .uploadRewinds).ue with streak := n }) :=
    hcounted.trans (State.keeps_setUpload ⟨le_rfl, rfl, rfl, le_rfl⟩)
  unfold State.timeoutRewind
  dsimp only
  split
  · exact (hstreak _).trans (State.keeps_stallUpload _ _)
  · exact hstreak _

/-- An acknowledgment between the last acknowledged serial and the ceiling (R162). -/
theorem State.keeps_acknowledge {n : Nat} (hlow : ¬ n < s.ue.lastAck) (hhigh : ¬ s.ue.ceiling < n) :
    s.Keeps (s.acknowledge n) := by
  refine State.keeps_serials (le_max_left _ _) (List.length_filter_le _ _) rfl fun ⟨hack, _, hdone, hmark⟩ => ?_
  have htarget : s.journal.markTarget ≤ n := hack ▸ not_lt.mp hlow
  have hmax : max s.journal.markTarget n = n := max_eq_right htarget
  exact ⟨hmax.symm, not_lt.mp hhigh, (hdone.trans htarget).trans hmax.ge,
    fun m hm => ((hmark m hm).trans htarget).trans hmax.ge⟩

/-- The end of an upload frame's transmission: an owned frame is the ready frame, so the window has room for it. -/
theorem State.keeps_uploadSent {f : List UploadRecord} {owned : Bool} {bs : List Byte}
    (htx : s.tl.tx = some ⟨.upload f owned, bs⟩) : s.Keeps ((s.setTrunk { s.tl with tx := none }).uploadSent f owned) := by
  have hsilent : s.Keeps (s.setTrunk { s.tl with tx := none }) :=
    State.keeps_setTrunk ⟨le_max_left _ _, le_max_left _ _, le_max_left _ _, fun _ _ h => by cases h⟩
  have hcounted := (hsilent.bump .uploadFrames 1).bump .uploadRecords f.length
  unfold State.uploadSent
  dsimp only
  split
  next howned =>
    refine ⟨⟨hcounted.pending, hcounted.store, hcounted.queues, hcounted.counters, hcounted.settings,
      fun ⟨hsum, hready, hup⟩ => ?_, fun ⟨hack, hceil, hrest⟩ => ⟨hack, hceil.trans (le_max_left _ _), hrest⟩⟩,
      hcounted.cache⟩
    rw [howned] at htx
    have hsome := hready f bs htx
    obtain ⟨r, hr⟩ := Option.ne_none_iff_exists'.mp hsome
    have hlen : (s.ue.window ++ [f]).length + 0 ≤ 8 := by
      simpa [hr] using hsum
    exact ⟨hlen, nofun, Or.inl (hup.resolve_right fun h => hsome h.2.1)⟩
  next => exact hcounted.trans (State.keeps_setUpload ⟨le_rfl, rfl, rfl, le_max_left _ _⟩)

/-- The gathering closed while no read is outstanding, without a ready frame and with room in the window. -/
theorem State.Keeps.closeGathering {t : State} (hk : s.Keeps t)
    (h : s.windowOk → t.port.uploads = 0 ∧ t.ue.ready = none ∧ t.ue.window.length < 8) : s.Keeps t.closeGathering := by
  unfold State.closeGathering
  dsimp only
  split
  · refine ⟨⟨hk.pending, hk.store, hk.queues, hk.counters, hk.settings, fun hs => ?_, hk.ack⟩, hk.cache⟩
    obtain ⟨hup, _, hroom⟩ := h hs
    exact ⟨hroom, fun _ _ _ => Option.some_ne_none _, .inl hup⟩
  · exact hk.trans (State.keeps_ue ⟨le_rfl, rfl, rfl, le_rfl⟩)

/-- The engine acts on an answer while no read is outstanding, without a ready frame and with room in the window. -/
theorem State.Keeps.uploadAct {t : State} (hk : s.Keeps t)
    (h : s.windowOk → t.port.uploads = 0 ∧ t.ue.ready = none ∧ t.ue.window.length < 8) (a : UploadAnswer) :
    s.Keeps (t.uploadAct a) := by
  have hmove (p : Nat × Nat) : s.Keeps (t.movePointer p).closeGathering :=
    (hk.trans (t.keeps_movePointer p)).closeGathering h
  unfold State.uploadAct
  split
  case h_1 =>
    split
    · exact ((hk.trans (t.keeps_gather _)).trans (State.keeps_movePointer _ _)).closeGathering h
    · exact hmove _
  case h_2 | h_3 => exact hmove _
  case h_4 =>
    split
    · exact hk.closeGathering h
    · exact hmove _

/-- The answer to an upload read (R158): the read that ended was the one outstanding. -/
theorem State.keeps_uploadRead (h : s.inFlight = some .upload) (a : UploadAnswer) : s.Keeps (s.endOp.uploadAct a) := by
  obtain ⟨x, hx, hclient⟩ := Option.map_eq_some_iff.mp h
  have hend : s.endOp = { s with store := x.op.apply s.store, port := { s.port with active := none } } := by
    simp [State.endOp, hx]
  refine s.keeps_endOp.uploadAct (fun ⟨_, _, hup⟩ => ?_) a
  have hone : s.port.uploads = (s.endOp).port.uploads + 1 := by
    simp only [hend, StorePort.uploads, hx, Option.toList, List.countP_singleton, hclient, List.countP_nil]
    simp
    omega
  obtain ⟨h1, hready, hroom⟩ := hup.resolve_left (by omega)
  exact ⟨by omega, by rw [hend]; exact hready, by rw [hend]; exact hroom⟩

end Sys2Proof.Machine
end

section
/-! SUPPORT. What the operations of journal, route manager, resets and link keep. -/

namespace Sys2Proof.Machine

variable {s : State}

/-! ### The journal (chapter 7) -/

theorem State.Keeps.endLong {t : State} (h : s.Keeps t) (rc : ReplyCode) (r : List Byte) : s.Keeps (t.endLong rc r) :=
  h.trans (t.keeps_endLong rc r)

theorem State.keeps_journalFull (s : State) : s.Keeps s.journalFull := by
  unfold State.journalFull
  refine (Keeps.trans ?_ (State.keeps_discardQueue _)).raise _ _
  exact State.keeps_setJournal (.of_eq (le_max_left _ _) rfl rfl rfl)

theorem State.keeps_countFlushed (q : QueuedRecord) (s : State) : s.Keeps (s.countFlushed q) := by
  unfold State.countFlushed
  split
  · split
    · exact s.keeps_setWork _
    · exact .refl s
  · exact .refl s

theorem State.countFlushed_journal (q : QueuedRecord) (s : State) : (s.countFlushed q).journal = s.journal := by
  unfold State.countFlushed
  split
  · split <;> simp
  · rfl

theorem State.keeps_appendDone (s : State) : s.Keeps s.appendDone := by
  unfold State.appendDone
  split
  next q rest hq =>
    have htaken : (s.countFlushed q).Keeps ((s.countFlushed q).setJournal
        { (s.countFlushed q).journal with queue := rest, headNext := (s.countFlushed q).journal.headNext + 1 }) := by
      refine State.keeps_setJournal (.of_eq ?_ rfl rfl rfl)
      rw [State.countFlushed_journal, hq]
      exact (Nat.le_succ _).trans (le_max_left _ _)
    dsimp only
    generalize (s.countFlushed q).setJournal _ = t at htaken
    have hdone := (s.keeps_countFlushed q).trans (htaken.trans
      ((State.keeps_setUpload (v := { t.ue with waiting := false }) ⟨le_rfl, rfl, rfl, le_rfl⟩).bump .journalAppends 1))
    split
    · exact hdone.trans (State.keeps_journalFull _)
    · exact hdone
  next => exact .refl s

theorem State.keeps_openingDone (s : State) : s.Keeps s.openingDone := by
  unfold State.openingDone
  dsimp only
  split
  · exact (s.keeps_sectorOpened.trans (State.keeps_testReclaim _)).trans (State.keeps_testLow _)
  · exact s.keeps_sectorOpened

theorem State.keeps_reclaimDone (s : State) : s.Keeps s.reclaimDone := by
  unfold State.reclaimDone
  dsimp only
  refine (State.Keeps.bump ?_ _ _).trans (State.keeps_testReclaim _)
  exact State.keeps_setJournal (.of_eq (le_max_left _ _) rfl rfl rfl)

theorem State.keeps_moveCursor (s : State) : s.Keeps s.moveCursor := by
  unfold State.moveCursor
  refine Keeps.trans ?_ (State.keeps_testReclaim _)
  exact State.keeps_setJournal (.of_eq (le_max_left _ _) rfl rfl rfl)

/-- Mark done takes a serial at or below the target. -/
theorem State.keeps_markTo {n : Nat} (h : n ≤ s.journal.markTarget) : s.Keeps (s.markTo n) := by
  unfold State.markTo
  refine Keeps.trans ?_ (State.keeps_moveCursor _)
  exact State.keeps_setJournal ⟨le_max_left _ _, rfl, fun _ hm => ⟨h, hm⟩⟩

theorem State.keeps_markFound (s : State) : s.Keeps s.markFound := by
  unfold State.markFound
  split
  · split
    · exact State.keeps_setJournal (.of_eq (le_max_left _ _) rfl rfl rfl)
    next hlow =>
      split
      · exact State.keeps_markTo (not_lt.mp hlow)
      · refine State.Keeps.request ?_ (by simp) _
        exact State.keeps_setJournal ⟨le_max_left _ _, rfl, fun hd _ => ⟨hd, fun n hn => by cases hn; exact not_lt.mp hlow⟩⟩
  · exact s.keeps_moveCursor

theorem State.keeps_marked (s : State) : s.Keeps s.marked := by
  have hmarks : s.Keeps { s with journal := { s.journal with marking := none, markDone := s.journal.marking.getD s.journal.markDone } } := by
    refine State.keeps_journal ⟨le_max_left _ _, rfl, fun hdone hmark => ⟨?_, nofun⟩⟩
    cases h : s.journal.marking with
    | none => simpa [h] using hdone
    | some n => simpa [h] using hmark n h
  exact hmarks.trans (State.keeps_moveCursor _)

theorem State.keeps_failLong (r : List Byte) (s : State) : s.Keeps (s.failLong r) :=
  (s.keeps_takeFailed _).endLong _ _

theorem State.keeps_startErase (tag : Byte) (s : State) : s.Keeps (s.startErase tag) := by
  unfold State.startErase
  refine Keeps.trans (s.keeps_stopGathering.trans ?_) (State.keeps_startLong _ _ _ _)
  exact State.keeps_port (StorePort.uploads_filter_le _ _)

theorem State.keeps_eraseFinished (s : State) : s.Keeps s.eraseFinished := by
  unfold State.eraseFinished
  dsimp only
  have hjournal : s.Keeps (s.setJournal { s.journal with
      state := .ready, tail := s.journal.head, ahead := 493, cursorSector := s.journal.head, cursorSlot := 1,
      markBlocked := false }) := State.keeps_setJournal (.of_eq (le_max_left _ _) rfl rfl rfl)
  exact hjournal.trans (State.keeps_setUpload ⟨le_rfl, rfl, rfl, le_rfl⟩)

/-! ### The route manager (chapter 3) -/

theorem State.keeps_loadNext (rest : List (List Byte)) (w p : Nat) (s : State) : s.Keeps (s.loadNext rest w p) := by
  unfold State.loadNext
  split
  · exact s.keeps_endLong _ _
  · split
    · exact s.keeps_endLong _ _
    · split
      · exact s.keeps_endLong _ _
      · exact (s.keeps_setWork _).request (c := .longOp) nofun _

theorem State.keeps_loadProbed (rest : List (List Byte)) (w p b : Nat) (s : State) : s.Keeps (s.loadProbed rest w p b) := by
  unfold State.loadProbed
  dsimp only
  have hexamined := s.keeps_examineBucket (routeRecordOf (rest.headD [])).meterId
    (probeBucket (routeRecordOf (rest.headD [])).meterId b) false
  split
  · exact hexamined.endLong _ _
  · exact hexamined.request (c := .longOp) nofun _
  · split
    · exact (hexamined.setWork _).request (c := .longOp) nofun _
    · exact hexamined.endLong _ _

theorem State.keeps_finishRead (s : State) : s.Keeps s.finishRead := by
  unfold State.finishRead
  split
  · exact s.keeps_endLong _ _
  · exact ((s.keeps_setRoute _).setWork _).request (c := .longOp) nofun _

theorem State.keeps_openDirRead (s : State) : s.Keeps s.openDirRead := by
  unfold State.openDirRead
  have hread := s.keeps_reportDamaged lastDirSector
  dsimp only
  split
  · exact ((hread.trans (State.keeps_setRoute _ _)).setWork _).request (c := .longOp) nofun _
  · exact (hread.trans (State.keeps_setRoute _ _)).endLong _ _

theorem State.keeps_headerWritten {w : Work} {t : State} (h : s.headerWritten w = some t) : s.Keeps t := by
  unfold State.headerWritten at h
  split at h
  case h_1 | h_2 => rw [← Option.some.inj h]; exact (s.keeps_setRoute _).endLong _ _
  case h_3 => rw [← Option.some.inj h]; exact (s.keeps_routeTo _).setWork _
  case h_4 => cases h

theorem State.keeps_headerFailed {w : Work} {t : State} (h : s.headerFailed w = some t) : s.Keeps t := by
  unfold State.headerFailed at h
  split at h
  case h_1 | h_2 => rw [← Option.some.inj h]; exact (s.keeps_failLong _).trans (State.keeps_setRoute _ _)
  case h_3 => rw [← Option.some.inj h]; exact (s.keeps_takeFailed _).setWork _
  case h_4 => cases h

theorem State.keeps_startupOver (st : RouteState) (s : State) : s.Keeps (s.startupOver st) :=
  (s.keeps_routeTo st).trans (State.keeps_startup _ _)

theorem State.keeps_resumeClosed (s : State) : s.Keeps s.resumeClosed :=
  (s.keeps_setRoute _).trans (State.keeps_startupOver _ _)

theorem State.keeps_routeEmpty (s : State) : s.Keeps s.routeEmpty :=
  (s.keeps_setRoute _).trans (State.keeps_startupOver _ _)

theorem State.keeps_resumeHeader {t : State} (h : s.resumeHeader = some t) : s.Keeps t := by
  unfold State.resumeHeader at h
  split at h
  · split at h
    · rw [← Option.some.inj h]; exact (s.keeps_takeFailed _).trans (State.keeps_resumeClosed _)
    · split at h
      · rw [← Option.some.inj h]; exact s.keeps_endOp.trans (State.keeps_resumeClosed _)
      · cases h
  · cases h

theorem State.keeps_commandHeader {t : State} (h : s.commandHeader = some t) : s.Keeps t := by
  unfold State.commandHeader at h
  split at h
  · split at h
    · exact State.keeps_headerFailed h
    · split at h
      · exact s.keeps_endOp.trans (State.keeps_headerWritten h)
      · cases h
  · cases h

theorem State.keeps_queryRead (id : Word) (n : Nat) (s : State) : s.Keeps (s.queryRead id n) := by
  unfold State.queryRead
  dsimp only
  have hexamined := s.keeps_examineBucket id (probeBucket id n) true
  split
  · exact hexamined.endLong _ _
  · exact hexamined.endLong _ _
  · split
    · exact (hexamined.setWork _).request (c := .query) nofun _
    · exact hexamined.endLong _ _

theorem State.keeps_headerRead (s : State) : s.Keeps s.headerRead := by
  unfold State.headerRead
  split
  · exact s.keeps_routeEmpty
  · dsimp only
    split
    · exact ((s.keeps_setRoute _).trans (State.keeps_startup _ _)).request (c := .startup) nofun _
    · exact (s.keeps_setRoute _).trans (State.keeps_startupOver _ _)

theorem State.keeps_rebuilt (s : State) : s.Keeps s.rebuilt := by
  unfold State.rebuilt
  have hread := s.keeps_reportDamaged lastDirSector
  dsimp only
  split
  · exact (hread.trans (State.keeps_setRoute _ _)).trans (State.keeps_replayNext _ _ _ _ _)
  · exact (hread.trans (State.keeps_startup _ _)).request (c := .startup) nofun _

theorem State.keeps_resumed (a b : Nat) (s : State) : s.Keeps (s.resumed a b) := by
  unfold State.resumed
  exact ((s.keeps_setRoute _).trans (State.keeps_startupOver _ _)).raise _ _

/-! ### Resets and start-up -/

/-- The numbers of a body lie in their widths. -/
theorem natAt_lt (bs : List Byte) (i : Nat) : natAt bs i < 256 := (bs.getD i 0#8).isLt

theorem beNat_lt (bs : List Byte) : beNat bs < 256 ^ bs.length := by
  induction bs using List.reverseRecOn with
  | nil => simp [beNat]
  | append_singleton bs b ih =>
    simp only [beNat, List.foldl_append, List.foldl_cons, List.foldl_nil, List.length_append, List.length_cons,
      List.length_nil] at ih ⊢
    have := b.isLt
    rw [pow_succ]
    omega

theorem numAt_lt (bs : List Byte) (i n : Nat) : numAt bs i n < 256 ^ n := by
  refine (beNat_lt _).trans_le (Nat.pow_le_pow_right (by norm_num) ?_)
  simp [slice]

theorem Family.fits_invalid : Family.invalid.fits := by simp [Family.fits, Family.invalid]
theorem RangeEntry.fits_invalid : RangeEntry.invalid.fits := by simp [RangeEntry.fits, RangeEntry.invalid]
theorem Rule.fits_zero : Rule.fits ⟨0, 0, 0⟩ := by simp [Rule.fits]

theorem familyOfCode_lt {n f : Nat} (hn : n < 256) (h : familyOfCode n = some f) : f < 255 := by
  unfold familyOfCode at h
  split at h
  · cases h
  · cases h; omega

theorem familyOf_fits (bs : List Byte) (i : Nat) : (familyOf bs i).fits := by
  unfold familyOf
  split
  · simp [Family.fits, natAt_lt]
  · exact Family.fits_invalid

theorem rangeOf_fits (bs : List Byte) (i : Nat) : (rangeOf bs i).fits := by
  unfold rangeOf
  split
  · simp only [RangeEntry.fits, if_true, natAt_lt, true_and]
    exact fun f => familyOfCode_lt (natAt_lt _ _)
  · exact RangeEntry.fits_invalid

theorem ruleOf_fits (bs : List Byte) (i : Nat) : (ruleOf bs i).fits :=
  ⟨numAt_lt bs i 2, natAt_lt _ _, natAt_lt _ _⟩

/-- A property of all entries of a list and of the default is one of the entry read. -/
theorem getD_of_forall {α : Type} {P : α → Prop} {l : List α} {d : α} (h : ∀ x ∈ l, P x) (hd : P d) (n : Nat) :
    P (l.getD n d) := by
  rw [List.getD_eq_getElem?_getD]
  cases hn : l[n]? with
  | none => exact hd
  | some x => exact h x (List.mem_of_getElem? hn)

theorem TimeBase.setMode_window (t : TimeBase) (m : PulseMode) (w : Nat) : (t.setMode m w).window = w := by
  unfold TimeBase.setMode
  split <;> rfl

theorem Port.startChecker_settings (x : Port) : x.startChecker.settings = x.settings := by
  unfold Port.startChecker
  split <;> rfl

theorem State.keeps_handOver (bs : List Byte) (s : State) : s.Keeps (s.handOver (settingsOf bs)) where
  pending := rfl
  store := id
  queues := fun ⟨hi, hn, hl, hq, hc⟩ => ⟨hi, hn, hl, hq, fun c => by
    simp only [State.handOver, Fin.getElem_fin, Vector.getElem_ofFn]
    exact hc c⟩
  counters := id
  settings := fun _ => by
    refine ⟨fun p => ?ports, fun c => ?channels, fun f => ?families, ?window, fun n => ?ranges, fun n => ?rules, ?hold, ?quiet⟩
    case ports =>
      simp only [State.handOver, Fin.getElem_fin, Vector.getElem_ofFn, Port.take, Port.startChecker_settings, settingAt]
      refine getD_of_forall (P := fun x : PortSettings => x.bitRate < 2 ^ 32) (fun x hx => ?_) (by decide) _
      obtain ⟨n, _, rfl⟩ := List.mem_map.mp hx
      exact numAt_lt bs _ 4
    case channels =>
      simp only [State.handOver, Fin.getElem_fin, Vector.getElem_ofFn, Channel.take, settingAt]
      refine getD_of_forall (P := fun x : ChannelSettings => x.threshold < 256) (fun x hx => ?_) (show 16 < 256 by decide) _
      obtain ⟨n, _, rfl⟩ := List.mem_map.mp hx
      exact natAt_lt bs _
    case families =>
      simp only [State.handOver, Fin.getElem_fin, Vector.getElem_ofFn, settingAt]
      refine getD_of_forall (P := Family.fits) (fun x hx => ?_) Family.fits_invalid _
      obtain ⟨n, _, rfl⟩ := List.mem_map.mp hx
      exact familyOf_fits bs _
    case window =>
      simp only [State.handOver, TimeBase.setMode_window]
      exact natAt_lt bs 213
    case ranges =>
      simp only [State.handOver, Fin.getElem_fin, Vector.getElem_ofFn, settingAt]
      refine getD_of_forall (P := RangeEntry.fits) (fun x hx => ?_) RangeEntry.fits_invalid _
      obtain ⟨n, _, rfl⟩ := List.mem_map.mp hx
      exact rangeOf_fits bs _
    case rules =>
      simp only [State.handOver, Fin.getElem_fin, Vector.getElem_ofFn]
      refine getD_of_forall (P := Rule.fits) (fun x hx => ?_) Rule.fits_zero _
      obtain ⟨n, _, rfl⟩ := List.mem_map.mp hx
      exact ruleOf_fits bs _
    case hold => exact numAt_lt bs 367 2
    case quiet => exact numAt_lt bs 369 2
  window := id
  ack := id
  cache := id

theorem State.keeps_imageRead (s : State) : s.Keeps s.imageRead := by
  unfold State.imageRead
  dsimp only
  split
  · exact (s.keeps_handOver _).trans (.foldl (fun t c => t.keeps_placeFramer c) _ _)
  · exact s.keeps_raise _ _

theorem State.keeps_beginLoad (s : State) : s.Keeps s.beginLoad :=
  (s.keeps_startup _).request (c := .startup) nofun _

theorem State.keeps_beginScan (s : State) : s.Keeps s.beginScan :=
  (s.keeps_startup _).request (c := .startup) nofun _

theorem State.keeps_beginHeaderRead (s : State) : s.Keeps s.beginHeaderRead :=
  (s.keeps_startup _).request (c := .startup) nofun _

/-- A port after a reset holds nothing to read for the upload, the queues are empty, and the serials agree. -/
structure State.Fresh (s t : State) : Prop where
  pending : t.pending = s.pending
  store : s.storeOk → t.storeOk
  ports : ∀ p : Fin 8, t.ports[p].settings = .default
  rest : ∃ j : Journal, j.queue = [] ∧ j.markTarget = 0 ∧ j.markDone = 0 ∧ j.marking = none ∧
    ∃ (p : StorePort) (l : Trunk), p.uploads = 0 ∧ l.inbound = [] ∧ l.notices = [] ∧ l.live = [] ∧ l.tx = none ∧
      t = { State.reset with pending := t.pending, freeIndex := t.freeIndex, store := t.store, ports := t.ports,
                             journal := j, port := p, tl := l }

theorem State.reset_settingsOk : State.reset.settingsOk := by
  refine ⟨by decide, by decide, fun f => ?_, by decide, fun n => ?_, fun n => ?_, by decide, by decide⟩
  · simpa [State.reset] using Family.fits_invalid
  · simpa [State.reset, Classifier.reset] using RangeEntry.fits_invalid
  · simpa [State.reset] using Rule.fits_zero

theorem State.reset_cacheOk : State.reset.cacheOk := by
  refine ⟨fun i e h => ?_, fun i j e f h => ?_, fun v w k l h => ?_, fun i w e k h => ?_⟩ <;>
    simp [State.reset, Classifier.reset] at h

theorem State.reset_countersOk : State.reset.countersOk := by simp [State.countersOk, State.reset]

/-- A reset meets every invariant, whatever the state before was. -/
theorem State.Fresh.keeps {t : State} (h : s.Fresh t) : s.Keeps t := by
  obtain ⟨hpending, hstore, hports, j, hqueue, htarget, hdone, hmarking, p, l, hup, hin, hnot, hlive, htx, heq⟩ := h
  rw [heq]
  refine ⟨⟨hpending, hstore, fun _ => ?queues, fun _ => State.reset_countersOk, fun _ => ?settings, fun _ => ?window,
    fun _ => ?ack⟩, fun _ => State.reset_cacheOk⟩
  case queues =>
    simp only [State.queuesOk, hqueue, hin, hnot, hlive]
    decide
  case settings =>
    refine ⟨fun q => ?_, State.reset_settingsOk.2⟩
    change t.ports[q].settings.bitRate < 2 ^ 32
    rw [hports q]
    decide
  case window => exact ⟨Nat.zero_le 8, fun _ _ hf => by simp [htx] at hf, .inl hup⟩
  case ack =>
    refine ⟨htarget.symm, le_rfl, ?_, fun n hn => ?_⟩
    · simp [hdone]
    · simp [hmarking] at hn

theorem State.keeps_cutPower (s : State) : s.Keeps s.cutPower := by
  unfold State.cutPower
  refine (s.keeps_cutOps true s.port.begun).trans ((State.keeps_powered false _).trans (State.keeps_port ?_))
  exact Nat.zero_le _

theorem State.afresh_ports (s : State) (p : Fin 8) : s.afresh.ports[p].settings = .default := by
  have : s.afresh.ports[p] = { Port.reset with carrier := s.ports[p].carrier } := tableMap_getElem _ _ _
  rw [this]
  rfl

theorem State.keeps_afresh (s : State) : s.Keeps s.afresh :=
  State.Fresh.keeps ⟨rfl, id, s.afresh_ports, .reset, rfl, rfl, rfl, rfl, .idle, .reset, rfl, rfl, rfl, rfl, rfl, rfl⟩

theorem State.keeps_lineReset (s : State) : s.Keeps s.lineReset :=
  State.Fresh.keeps ⟨rfl, id, s.afresh_ports, s.journal.rescan, rfl, rfl, rfl, rfl, _, .reset, rfl, rfl, rfl, rfl, rfl, rfl⟩

theorem State.keeps_commandReset (s : State) : s.Keeps s.commandReset := by
  unfold State.commandReset
  have hreset : s.Keeps { s.lineReset with tl := { Trunk.reset with rate := s.tl.rate } } :=
    State.Fresh.keeps ⟨rfl, id, s.afresh_ports, s.journal.rescan, rfl, rfl, rfl, rfl, _, _, rfl, rfl, rfl, rfl, rfl, rfl⟩
  dsimp only
  split
  · refine State.Keeps.request (c := .startup) ?_ nofun _
    exact (hreset.trans (State.keeps_storeFailed true _)).trans (State.keeps_startup _ _)
  · exact hreset

/-! ### The journal scan -/

theorem State.keeps_scanTests (s : State) : s.Keeps s.scanTests := by
  unfold State.scanTests
  have htests := s.keeps_testReclaim.trans (State.keeps_testLow _)
  dsimp only
  split
  · exact htests.raise _ _
  · exact htests

/-- The scan sets mark target, mark done, last acknowledged serial and ceiling alike. -/
theorem State.keeps_scanPointers (tail head first : Nat) (s : State) : s.Keeps (s.scanJournal tail head first).scanUpload := by
  have hserials : (s.scanJournal tail head first).journal.markTarget = (s.scanJournal tail head first).journal.markDone := by
    unfold State.scanJournal
    dsimp only
    split <;> rfl
  refine State.keeps_serials (k := (s.scanJournal tail head first).journal)
    (v := (s.scanJournal tail head first).scanUpload.ue) (le_max_left _ _) le_rfl rfl fun _ => ?_
  exact ⟨hserials.symm, le_rfl, hserials.ge, nofun⟩

theorem State.keeps_scanned (s : State) : s.Keeps s.scanned := by
  unfold State.scanned
  split
  · exact (s.keeps_scanPointers _ _ _).trans (State.keeps_scanTests _)
  · exact .refl s

theorem State.keeps_scanFault (s : State) : s.Keeps s.scanFault :=
  State.keeps_serials (k := { s.journal.rescan with state := .fault }) (v := { s.ue with lastAck := 0, ceiling := 0 })
    (Nat.zero_le _) le_rfl rfl fun _ => ⟨rfl, le_rfl, le_rfl, nofun⟩

/-! ### The trunk link (chapter 9) -/

theorem State.keeps_bufferFrame (f : CmdFrame) (s : State) : s.Keeps (s.bufferFrame f) := by
  unfold State.bufferFrame
  split
  next hroom =>
    refine State.keeps_setTrunk ⟨?_, le_max_left _ _, le_max_left _ _, fun _ _ h => h⟩
    simp only [inboundRoom] at hroom
    simp only [List.length_append, List.length_cons, List.length_nil]
    omega
  next => exact s.keeps_bump _ _

theorem State.keeps_setRx (x : Option (List Byte)) (s : State) : s.Keeps (s.setTrunk { s.tl with rx := x }) :=
  State.keeps_setTrunk (.of_eq rfl rfl rfl rfl)

theorem State.keeps_takeByte (b : Byte) (s : State) : s.Keeps (s.takeByte b) := by
  unfold State.takeByte
  split
  · split
    · exact s.keeps_setRx _
    · exact .refl s
  · dsimp only
    split
    · exact (s.keeps_setRx _).bump _ _
    · split
      · unfold State.endFrame
        split
        · exact (s.keeps_setRx _).trans (State.keeps_bufferFrame _ _)
        · exact (s.keeps_setRx _).bump _ _
      · exact s.keeps_setRx _

theorem State.keeps_silence (s : State) : s.Keeps (s.setTrunk { s.tl with tx := none }) :=
  State.keeps_setTrunk ⟨le_max_left _ _, le_max_left _ _, le_max_left _ _, nofun⟩

theorem State.keeps_abandonTx (s : State) : s.Keeps s.abandonTx := by
  unfold State.abandonTx
  split
  next x _ =>
    unfold State.abandon
    split
    · exact s.keeps_silence.bump _ _
    · refine (s.keeps_silence.trans ?_).bump _ _
      exact State.keeps_setTrunk (.of_eq rfl rfl rfl rfl)
    · exact s.keeps_silence.trans (State.keeps_dropLive _ _)
    · exact s.keeps_silence
  next => exact .refl s

theorem State.keeps_break (s : State) : s.Keeps s.break := by
  unfold State.break
  have hbroken := ((s.keeps_bump .linkBreaks 1).trans (State.keeps_breakUpload _)).trans (State.keeps_abandonTx _)
  have huntied := hbroken.trans (State.keeps_setTrunk
    (u := { ((s.bump .linkBreaks).breakUpload.abandonTx).tl with rate := none, rx := none }) (.of_eq rfl rfl rfl rfl))
  dsimp only
  split
  · exact huntied.trans (State.keeps_commandReset _)
  · exact huntied

/-- The scheduler takes a frame from a queue, or the ready upload frame, which the engine owns. -/
theorem State.keeps_transmit {x : Transmission} {u : Trunk} (h : s.nextFrame = some (x, u)) :
    s.Keeps (s.setTrunk { u with tx := some x }) := by
  unfold State.nextFrame at h
  dsimp only at h
  split at h
  · cases h
    exact State.keeps_setTrunk ⟨le_max_left _ _, le_max_left _ _, le_max_left _ _, nofun⟩
  · split at h
    next n rest hn =>
      cases h
      exact State.keeps_setTrunk ⟨le_max_left _ _, by simp [hn], le_max_left _ _, nofun⟩
    next =>
      split at h
      next f rest hf =>
        cases h
        exact State.keeps_setTrunk ⟨le_max_left _ _, le_max_left _ _, by simp [hf], nofun⟩
      next =>
        obtain ⟨rs, hrs, hx⟩ := Option.map_eq_some_iff.mp h
        cases hx
        exact ⟨⟨rfl, id, id, id, id, fun ⟨hsum, _, hup⟩ => ⟨hsum, fun _ _ _ => hrs ▸ Option.some_ne_none _, hup⟩, id⟩, id⟩

end Sys2Proof.Machine
end

section
/-! SUPPORT. The route cache and the walks (R71, R72, R79): hits, insertions and new walks, and what deciding a frame and
completing a walk keep. -/

namespace Sys2Proof.Machine

/-! ### Tables -/

theorem tableFind_eq_none_iff {α : Type} {n : Nat} {p : α → Bool} {v : Vector α n} :
    tableFind p v = none ↔ ∀ i : Fin n, p v[i] = false := by
  simp [tableFind, List.find?_eq_none]

/-- The entry found is accepted, and none before it is. -/
theorem tableFind_eq_some_iff {α : Type} {n : Nat} {p : α → Bool} {v : Vector α n} {i : Fin n} :
    tableFind p v = some i ↔ p v[i] = true ∧ ∀ j : Fin n, j < i → p v[j] = false := by
  rw [tableFind, ← Fin.find?_eq_find?_finRange, Fin.find?_eq_some_iff]

theorem table_set_same {α : Type} {n : Nat} (v : Vector α n) (i : Fin n) (x : α) : (v.set i x)[i] = x := by simp

theorem table_set_other {α : Type} {n : Nat} (v : Vector α n) {i j : Fin n} (x : α) (h : i ≠ j) : (v.set i x)[j] = v[j] :=
  Vector.getElem_set_ne _ _ (fun e => h (Fin.ext e))

/-- A count over a table is the number of its accepted entries. -/
theorem table_countP {α : Type} {n : Nat} (p : α → Bool) (v : Vector α n) :
    v.toList.countP p = (Finset.univ.filter (fun i : Fin n => p v[i] = true)).card := by
  have hlist : v.toList = (List.finRange n).map (fun i => v[i]) := by
    refine List.ext_getElem (by simp) fun i hi hj => ?_
    simp
  rw [hlist, List.countP_map, List.countP_eq_length_filter]
  simp only [Finset.card, Finset.filter, Fin.univ_def, Multiset.filter_coe, Multiset.coe_card, Function.comp_def,
    Bool.decide_eq_true]

/-! ### The order of the ages (R71) -/

/-- The number of valid entries. -/
def cacheUsed (v : Vector (Option CacheEntry) 64) : Nat := v.toList.countP Option.isSome

/-- The ages of the valid entries lie below their number, and differ. -/
def AgesOrder (v : Vector (Option CacheEntry) 64) : Prop :=
  (∀ (i : Fin 64) (e : CacheEntry), v[i] = some e → e.age < cacheUsed v) ∧
    ∀ (i j : Fin 64) (e f : CacheEntry), v[i] = some e → v[j] = some f → i ≠ j → e.age ≠ f.age

theorem cacheUsed_eq_card (v : Vector (Option CacheEntry) 64) :
    cacheUsed v = (Finset.univ.filter (fun i : Fin 64 => v[i].isSome = true)).card := table_countP _ _

theorem cacheUsed_pos {v : Vector (Option CacheEntry) 64} {i : Fin 64} {e : CacheEntry} (h : v[i] = some e) :
    0 < cacheUsed v := by
  rw [cacheUsed_eq_card]
  exact Finset.card_pos.mpr ⟨i, Finset.mem_filter.mpr ⟨Finset.mem_univ i, h ▸ rfl⟩⟩

/-- Below its number of valid entries, a cache whose ages are in order holds every age. -/
theorem AgesOrder.exists_age {v : Vector (Option CacheEntry) 64} (h : AgesOrder v) {a : Nat} (ha : a < cacheUsed v) :
    ∃ (i : Fin 64) (e : CacheEntry), v[i] = some e ∧ e.age = a := by
  obtain ⟨hage, hne⟩ := h
  let valid := Finset.univ.filter (fun i : Fin 64 => v[i].isSome = true)
  let age (i : Fin 64) : Nat := (v[i].map (·.age)).getD 0
  have hentry {i : Fin 64} (hi : i ∈ valid) : ∃ e, v[i] = some e ∧ age i = e.age := by
    obtain ⟨e, he⟩ := Option.isSome_iff_exists.mp (Finset.mem_filter.mp hi).2
    exact ⟨e, he, by simp only [age, he, Option.map_some, Option.getD_some]⟩
  have himage : valid.image age = Finset.range (cacheUsed v) := by
    refine Finset.eq_of_subset_of_card_le (fun n hn => ?_) ?_
    · obtain ⟨i, hi, rfl⟩ := Finset.mem_image.mp hn
      obtain ⟨e, he, hae⟩ := hentry hi
      exact Finset.mem_range.mpr (hae ▸ hage i e he)
    · rw [Finset.card_range, Finset.card_image_of_injOn, cacheUsed_eq_card]
      intro i hi j hj hij
      obtain ⟨e, he, hae⟩ := hentry hi
      obtain ⟨f, hf, haf⟩ := hentry hj
      by_contra hne'
      exact hne i j e f he hf hne' (hae ▸ haf ▸ hij)
  obtain ⟨i, hi, hia⟩ := Finset.mem_image.mp (himage ▸ Finset.mem_range.mpr ha)
  obtain ⟨e, he, hae⟩ := hentry hi
  exact ⟨i, e, he, hae ▸ hia⟩

/-- The ages are in order exactly when each age below the number of valid entries is held once, and no other. -/
theorem agesOrder_iff (v : Vector (Option CacheEntry) 64) :
    AgesOrder v ↔ ∀ a : Nat, v.toList.countP (fun x => x.any (·.age == a)) =
      if a < v.toList.countP Option.isSome then 1 else 0 := by
  have holds (i : Fin 64) (a : Nat) : v[i].any (·.age == a) = true ↔ ∃ e, v[i] = some e ∧ e.age = a := by
    cases v[i] <;> simp
  refine ⟨fun h a => ?_, fun h => ⟨fun i e he => ?_, fun i j e f he hf hij hef => ?_⟩⟩
  · rw [table_countP]
    split
    next ha =>
      obtain ⟨i, e, he, hea⟩ := h.exists_age ha
      refine Finset.card_eq_one.mpr ⟨i, Finset.ext fun j => ?_⟩
      simp only [Finset.mem_filter, Finset.mem_univ, true_and, holds, Finset.mem_singleton]
      refine ⟨fun ⟨f, hf, hfa⟩ => ?_, fun hj => ⟨e, hj ▸ he, hea⟩⟩
      by_contra hji
      exact h.2 j i f e hf he hji (hfa.trans hea.symm)
    next ha =>
      refine Finset.card_eq_zero.mpr (Finset.filter_eq_empty_iff.mpr fun i _ hi => ?_)
      obtain ⟨e, he, hea⟩ := (holds i a).mp hi
      exact ha (hea ▸ h.1 i e he)
  · have hcount := h e.age
    by_contra hlt
    change _ = if e.age < cacheUsed v then 1 else 0 at hcount
    rw [table_countP, if_neg hlt, Finset.card_eq_zero, Finset.filter_eq_empty_iff] at hcount
    exact hcount (Finset.mem_univ i) ((holds i _).mpr ⟨e, he, rfl⟩)
  · have hcount := h e.age
    rw [table_countP] at hcount
    have htwo : 1 < (Finset.univ.filter (fun k : Fin 64 => v[k].any (·.age == e.age) = true)).card :=
      Finset.one_lt_card.mpr ⟨i, by simpa only [Finset.mem_filter, Finset.mem_univ, true_and, holds] using ⟨e, he, rfl⟩,
        j, by simpa only [Finset.mem_filter, Finset.mem_univ, true_and, holds] using ⟨f, hf, hef.symm⟩, hij⟩
    split at hcount <;> omega

/-! ### A hit (R72) -/

theorem ageCache_getElem (p : Nat → Bool) (v : Vector (Option CacheEntry) 64) (i : Fin 64) :
    (ageCache p v)[i] = v[i].map (fun e => if p e.age then { e with age := e.age + 1 } else e) := tableMap_getElem _ _ _

theorem State.cacheHit_cache_same (i : Fin 64) (e : CacheEntry) (s : State) :
    (s.cacheHit i e).cl.cache[i] = some { e with age := 0 } := table_set_same _ _ _

theorem State.cacheHit_cache_other {i j : Fin 64} (e : CacheEntry) (s : State) (h : j ≠ i) :
    (s.cacheHit i e).cl.cache[j] = (s.cl.cache[j]).map (fun x => if x.age < e.age then { x with age := x.age + 1 } else x) := by
  simp only [State.cacheHit, State.bump_cl, table_set_other _ _ h.symm, ageCache_getElem, decide_eq_true_eq]

/-- Caches with the same valid entries have as many of them. -/
theorem cacheUsed_congr {v u : Vector (Option CacheEntry) 64} (h : ∀ i : Fin 64, v[i].isSome = u[i].isSome) :
    cacheUsed v = cacheUsed u := by
  simp only [cacheUsed_eq_card, h]

theorem State.cacheHit_isSome {i : Fin 64} {e : CacheEntry} {s : State} (h : s.cl.cache[i] = some e) (j : Fin 64) :
    (s.cacheHit i e).cl.cache[j].isSome = (s.cl.cache[j]).isSome := by
  rcases eq_or_ne j i with rfl | hne
  · rw [State.cacheHit_cache_same, h]; rfl
  · rw [State.cacheHit_cache_other e s hne, Option.isSome_map]

/-- An entry after a hit: the one hit, or another with its meter ID and its age moved. -/
theorem State.cacheHit_entry {i j : Fin 64} {e x : CacheEntry} {s : State} (h : s.cl.cache[i] = some e)
    (hx : (s.cacheHit i e).cl.cache[j] = some x) : ∃ y, s.cl.cache[j] = some y ∧ y.meterId = x.meterId ∧
      ((j = i ∧ x.age = 0) ∨ (j ≠ i ∧ x.age = if y.age < e.age then y.age + 1 else y.age)) := by
  rcases eq_or_ne j i with rfl | hne
  · rw [State.cacheHit_cache_same] at hx
    cases hx
    exact ⟨e, h, rfl, .inl ⟨rfl, rfl⟩⟩
  · rw [State.cacheHit_cache_other e s hne] at hx
    obtain ⟨y, hy, rfl⟩ := Option.map_eq_some_iff.mp hx
    refine ⟨y, hy, ?_, .inr ⟨hne, ?_⟩⟩ <;> split <;> rfl

theorem State.cacheHit_agesOrder {i : Fin 64} {e : CacheEntry} {s : State} (h : s.cl.cache[i] = some e)
    (ho : AgesOrder s.cl.cache) : AgesOrder (s.cacheHit i e).cl.cache := by
  have hused := cacheUsed_congr (State.cacheHit_isSome h)
  have hi := ho.1 i e h
  refine ⟨fun j x hx => ?_, fun j k x y hx hy hjk => ?_⟩
  · obtain ⟨x', hx', -, hage⟩ := State.cacheHit_entry h hx
    have := ho.1 j x' hx'
    rw [hused]
    rcases hage with ⟨-, hage⟩ | ⟨-, hage⟩
    · omega
    · split at hage <;> omega
  · obtain ⟨x', hx', -, hxage⟩ := State.cacheHit_entry h hx
    obtain ⟨y', hy', -, hyage⟩ := State.cacheHit_entry h hy
    have hxy := ho.2 j k x' y' hx' hy' hjk
    have hother {l : Fin 64} {z : CacheEntry} (hz : s.cl.cache[l] = some z) (hl : l ≠ i) : z.age ≠ e.age :=
      ho.2 l i z e hz h hl
    rcases hxage with ⟨rfl, hxage⟩ | ⟨hj, hxage⟩ <;> rcases hyage with ⟨hk, hyage⟩ | ⟨hk, hyage⟩
    · exact absurd hk.symm hjk
    · have := hother hy' hk
      split at hyage <;> omega
    · have := hother hx' hj
      split at hxage <;> omega
    · have hxe := hother hx' hj
      have hye := hother hy' hk
      split at hxage <;> split at hyage <;> omega

/-! ### An insertion (R72) -/

theorem State.cacheInsert_cache_same (id : Word) (kind : CacheKind) (s : State) :
    (s.cacheInsert id kind).cl.cache[s.insertAt] = some ⟨kind, id, 0⟩ := table_set_same _ _ _

theorem State.cacheInsert_cache_other {j : Fin 64} (id : Word) (kind : CacheKind) (s : State) (h : j ≠ s.insertAt) :
    (s.cacheInsert id kind).cl.cache[j] = (s.cl.cache[j]).map (fun x => { x with age := x.age + 1 }) := by
  simp only [State.cacheInsert, State.bump_cl, table_set_other _ _ h.symm, ageCache_getElem, if_true]

theorem State.insertAt_of_free {i : Fin 64} {s : State} (h : tableFind Option.isNone s.cl.cache = some i) :
    s.insertAt = i := by simp only [State.insertAt, h]

theorem State.insertAt_of_full {s : State} (h : tableFind Option.isNone s.cl.cache = none) :
    s.insertAt = (tableFind (fun x : Option CacheEntry => x.any (·.age == 63)) s.cl.cache).getD 0 := by
  simp only [State.insertAt, h]
  exact congrArg (fun p => (tableFind p s.cl.cache).getD 0) (funext fun x => by cases x <;> rfl)

/-- The entry an insertion uses: the lowest-numbered invalid one, or in a full cache the oldest. -/
theorem State.insertAt_spec {s : State} (ho : AgesOrder s.cl.cache) :
    (s.cl.cache[s.insertAt] = none ∧ ∀ j : Fin 64, j < s.insertAt → s.cl.cache[j] ≠ none) ∨
      ((∀ j : Fin 64, s.cl.cache[j] ≠ none) ∧ ∃ e, s.cl.cache[s.insertAt] = some e ∧ e.age = 63) := by
  suffices h : ∀ k : Fin 64, s.insertAt = k →
      (s.cl.cache[k] = none ∧ ∀ j : Fin 64, j < k → s.cl.cache[j] ≠ none) ∨
        ((∀ j : Fin 64, s.cl.cache[j] ≠ none) ∧ ∃ e, s.cl.cache[k] = some e ∧ e.age = 63) from h _ rfl
  rintro k hk
  cases hfree : tableFind Option.isNone s.cl.cache with
  | some i =>
    obtain ⟨hnone, hbefore⟩ := tableFind_eq_some_iff.mp hfree
    obtain rfl : i = k := (State.insertAt_of_free hfree).symm.trans hk
    exact .inl ⟨Option.isNone_iff_eq_none.mp hnone, fun j hj hj' => by simpa [hj'] using hbefore j hj⟩
  | none =>
    have hvalid (j : Fin 64) : s.cl.cache[j] ≠ none := fun hj => by
      simpa [hj] using tableFind_eq_none_iff.mp hfree j
    have hused : cacheUsed s.cl.cache = 64 := by
      rw [cacheUsed_eq_card, Finset.filter_true_of_mem fun j _ => Option.isSome_iff_ne_none.mpr (hvalid j)]
      simp
    obtain ⟨i, e, he, hage⟩ := ho.exists_age (a := 63) (by omega)
    refine .inr ⟨hvalid, ?_⟩
    cases hold : tableFind (fun x : Option CacheEntry => x.any (·.age == 63)) s.cl.cache with
    | none =>
      have := tableFind_eq_none_iff.mp hold i
      simp only [he, Option.any_some, hage, beq_self_eq_true] at this
      cases this
    | some l =>
      obtain rfl : l = k := by rw [← hk, State.insertAt_of_full hfree, hold, Option.getD_some]
      obtain ⟨hl, -⟩ := tableFind_eq_some_iff.mp hold
      obtain ⟨f, hf⟩ := Option.ne_none_iff_exists'.mp (hvalid l)
      simp only [hf, Option.any_some, beq_iff_eq] at hl
      exact ⟨f, hf, hl⟩

/-- The valid entries after an insertion. -/
theorem State.cacheInsert_isSome {id : Word} {kind : CacheKind} {s : State} {j : Fin 64} (h : j ≠ s.insertAt) :
    (s.cacheInsert id kind).cl.cache[j].isSome = (s.cl.cache[j]).isSome := by
  rw [State.cacheInsert_cache_other id kind s h, Option.isSome_map]

theorem State.cacheInsert_used (id : Word) (kind : CacheKind) (s : State) : cacheUsed (s.cacheInsert id kind).cl.cache =
    if s.cl.cache[s.insertAt] = none then cacheUsed s.cl.cache + 1 else cacheUsed s.cl.cache := by
  have hvalid : Finset.univ.filter (fun i : Fin 64 => (s.cacheInsert id kind).cl.cache[i].isSome = true)
      = insert s.insertAt (Finset.univ.filter (fun i : Fin 64 => s.cl.cache[i].isSome = true)) := by
    ext j
    simp only [Finset.mem_filter, Finset.mem_univ, true_and, Finset.mem_insert]
    rcases eq_or_ne j s.insertAt with rfl | hne
    · simp only [State.cacheInsert_cache_same, Option.isSome_some, true_or]
    · simp only [State.cacheInsert_isSome hne, hne, false_or]
  rw [cacheUsed_eq_card, hvalid, cacheUsed_eq_card]
  split
  next h => exact Finset.card_insert_of_notMem (by simp only [Finset.mem_filter, h]; simp)
  next h =>
    have hmem := Option.isSome_iff_ne_none.mpr h
    rw [Finset.insert_eq_of_mem (by simpa only [Finset.mem_filter, Finset.mem_univ, true_and] using hmem)]

/-- An entry after an insertion: the new one, or another with its meter ID and one year older. -/
theorem State.cacheInsert_entry {id : Word} {kind : CacheKind} {j : Fin 64} {x : CacheEntry} {s : State}
    (hx : (s.cacheInsert id kind).cl.cache[j] = some x) : (j = s.insertAt ∧ x = ⟨kind, id, 0⟩) ∨
      (j ≠ s.insertAt ∧ ∃ y, s.cl.cache[j] = some y ∧ y.meterId = x.meterId ∧ x.age = y.age + 1) := by
  rcases eq_or_ne j s.insertAt with rfl | hne
  · rw [State.cacheInsert_cache_same] at hx
    exact .inl ⟨rfl, (Option.some.inj hx).symm⟩
  · rw [State.cacheInsert_cache_other id kind s hne] at hx
    obtain ⟨y, hy, rfl⟩ := Option.map_eq_some_iff.mp hx
    exact .inr ⟨hne, y, hy, rfl, rfl⟩

theorem State.cacheInsert_agesOrder {s : State} (ho : AgesOrder s.cl.cache) (id : Word) (kind : CacheKind) :
    AgesOrder (s.cacheInsert id kind).cl.cache := by
  have hused := s.cacheInsert_used id kind
  refine ⟨fun j x hx => ?_, fun j k x y hx hy hjk => ?_⟩
  · rcases State.cacheInsert_entry hx with ⟨-, rfl⟩ | ⟨hne, y, hy, -, hage⟩
    · exact cacheUsed_pos hx
    · have hlt := ho.1 j y hy
      rcases State.insertAt_spec ho with ⟨hnone, -⟩ | ⟨-, e, he, h63⟩
      · rw [if_pos hnone] at hused
        omega
      · rw [if_neg (by simp [he])] at hused
        have hold := ho.1 _ e he
        have hdiff := ho.2 j _ y e hy he hne
        have : cacheUsed s.cl.cache ≤ 64 := by
          rw [cacheUsed_eq_card]
          exact (Finset.card_le_univ _).trans_eq (Fintype.card_fin 64)
        omega
  · rcases State.cacheInsert_entry hx with ⟨rfl, rfl⟩ | ⟨-, x', hx', -, hxage⟩ <;>
      rcases State.cacheInsert_entry hy with ⟨hk, rfl⟩ | ⟨-, y', hy', -, hyage⟩
    · exact absurd hk.symm hjk
    · exact fun h => absurd (h.trans hyage) (Nat.succ_ne_zero _).symm
    · exact fun h => absurd (hxage.symm.trans h) (Nat.succ_ne_zero _)
    · have := ho.2 j k x' y' hx' hy' hjk
      omega

/-! ### The invariant of cache and walks -/

/-- The invariant, the order of the ages apart. -/
theorem State.cacheOk_iff (s : State) : s.cacheOk ↔ AgesOrder s.cl.cache ∧
    (∀ (i j : Fin 64) (e f : CacheEntry), s.cl.cache[i] = some e → s.cl.cache[j] = some f → i ≠ j → e.meterId ≠ f.meterId) ∧
    (∀ (v w : Fin 4) (k l : Walk), s.cl.walks[v] = some k → s.cl.walks[w] = some l → v ≠ w → k.meterId ≠ l.meterId) ∧
    ∀ (i : Fin 64) (w : Fin 4) (e : CacheEntry) (k : Walk), s.cl.cache[i] = some e → s.cl.walks[w] = some k →
      e.meterId ≠ k.meterId := by
  constructor
  · rintro ⟨hage, hne, hwalk, hboth⟩
    exact ⟨⟨hage, fun i j e f he hf h => (hne i j e f he hf h).1⟩, fun i j e f he hf h => (hne i j e f he hf h).2,
      hwalk, hboth⟩
  · rintro ⟨⟨hage, hne⟩, hid, hwalk, hboth⟩
    exact ⟨hage, fun i j e f he hf h => ⟨hne i j e f he hf h, hid i j e f he hf h⟩, hwalk, hboth⟩

theorem State.keepsBounds_cacheInsert (id : Word) (kind : CacheKind) (s : State) : s.KeepsBounds (s.cacheInsert id kind) :=
  State.KeepsBounds.trans (t := { s with cl := (s.cacheInsert id kind).cl })
    (s.keepsBounds_cl fun _ => .inr rfl) (State.keeps_bump _ _ _).toKeepsBounds

theorem State.keeps_cacheHit {i : Fin 64} {e : CacheEntry} {s : State} (h : s.cl.cache[i] = some e) :
    s.Keeps (s.cacheHit i e) := by
  refine ⟨State.KeepsBounds.trans (t := { s with cl := (s.cacheHit i e).cl })
    (s.keepsBounds_cl fun _ => .inr rfl) (State.keeps_bump _ _ _).toKeepsBounds, fun hs => ?_⟩
  obtain ⟨ho, hid, hwalk, hboth⟩ := s.cacheOk_iff.mp hs
  refine (State.cacheOk_iff _).mpr ⟨State.cacheHit_agesOrder h ho, fun j k x y hx hy hjk => ?_, hwalk, fun j w x l hx hl => ?_⟩
  · obtain ⟨x', hx', hxid, -⟩ := State.cacheHit_entry h hx
    obtain ⟨y', hy', hyid, -⟩ := State.cacheHit_entry h hy
    exact hxid ▸ hyid ▸ hid j k x' y' hx' hy' hjk
  · obtain ⟨x', hx', hxid, -⟩ := State.cacheHit_entry h hx
    exact hxid ▸ hboth j w x' l hx' hl

/-- A walk's meter ID inserted, and the walk's entry freed. -/
theorem State.cacheOk_insert_free {w : Fin 4} {k : Walk} {s t : State} (hk : s.cl.walks[w] = some k) (kind : CacheKind)
    (hcache : t.cl.cache = (s.cacheInsert k.meterId kind).cl.cache) (hwalks : t.cl.walks = s.cl.walks.set w none)
    (hs : s.cacheOk) : t.cacheOk := by
  obtain ⟨ho, hid, hwalk, hboth⟩ := s.cacheOk_iff.mp hs
  have hpending {v : Fin 4} {l : Walk} (hl : t.cl.walks[v] = some l) : v ≠ w ∧ s.cl.walks[v] = some l := by
    rw [hwalks] at hl
    rcases eq_or_ne w v with rfl | hne
    · rw [table_set_same] at hl
      cases hl
    · exact ⟨hne.symm, table_set_other s.cl.walks none hne ▸ hl⟩
  refine (State.cacheOk_iff _).mpr ⟨hcache ▸ State.cacheInsert_agesOrder ho _ _, fun i j e f he hf hij => ?_,
    fun u v l m hl hm huv => hwalk u v l m (hpending hl).2 (hpending hm).2 huv, fun i v e l he hl => ?_⟩
  · rw [hcache] at he hf
    rcases State.cacheInsert_entry he with ⟨rfl, rfl⟩ | ⟨-, e', he', hidE, -⟩ <;>
      rcases State.cacheInsert_entry hf with ⟨hj, rfl⟩ | ⟨-, f', hf', hidF, -⟩
    · exact absurd hj.symm hij
    · exact hidF ▸ (hboth j w f' k hf' hk).symm
    · exact hidE ▸ hboth i w e' k he' hk
    · exact hidE ▸ hidF ▸ hid i j e' f' he' hf' hij
  · rw [hcache] at he
    obtain ⟨hvw, hv⟩ := hpending hl
    rcases State.cacheInsert_entry he with ⟨-, rfl⟩ | ⟨-, e', he', hidE, -⟩
    · exact hwalk w v k l hk hv hvw.symm
    · exact hidE ▸ hboth i v e' l he' hv

/-- A walk for a meter ID of neither cache nor walks. -/
theorem State.keeps_newWalk {w : Fin 4} {k : Walk} {s : State}
    (hcache : ∀ (i : Fin 64) (e : CacheEntry), s.cl.cache[i] = some e → e.meterId ≠ k.meterId)
    (hwalks : ∀ (v : Fin 4) (l : Walk), s.cl.walks[v] = some l → l.meterId ≠ k.meterId) :
    s.Keeps (s.setWalk w (some k)) := by
  refine ⟨s.keepsBounds_cl fun _ => .inr rfl, fun hs => ?_⟩
  obtain ⟨ho, hid, hwalk, hboth⟩ := s.cacheOk_iff.mp hs
  have hpending {v : Fin 4} {l : Walk} (hl : (s.setWalk w (some k)).cl.walks[v] = some l) :
      (v = w ∧ l = k) ∨ (v ≠ w ∧ s.cl.walks[v] = some l) := by
    simp only [State.setWalk_cl] at hl
    rcases eq_or_ne w v with rfl | hne
    · rw [table_set_same] at hl
      exact .inl ⟨rfl, (Option.some.inj hl).symm⟩
    · exact .inr ⟨hne.symm, table_set_other s.cl.walks (some k) hne ▸ hl⟩
  refine (State.cacheOk_iff _).mpr ⟨ho, hid, fun u v l m hl hm huv => ?_, fun i v e l he hl => ?_⟩
  · rcases hpending hl with ⟨rfl, rfl⟩ | ⟨-, hl'⟩ <;> rcases hpending hm with ⟨hv, rfl⟩ | ⟨-, hm'⟩
    · exact absurd hv.symm huv
    · exact (hwalks v m hm').symm
    · exact hwalks u l hl'
    · exact hwalk u v l m hl' hm' huv
  · rcases hpending hl with ⟨-, rfl⟩ | ⟨-, hl'⟩
    · exact hcache i e he
    · exact hboth i v e l he hl'

/-! ### Deciding a frame -/

theorem State.walkOf_eq_none {id : Word} {s : State} (h : s.walkOf id = none) (w : Fin 4) (k : Walk)
    (hk : s.cl.walks[w] = some k) : k.meterId ≠ id := by
  have := tableFind_eq_none_iff.mp h w
  rw [hk] at this
  simpa using this

theorem State.cached_eq_none {id : Word} {s : State} (h : s.cached id = none) (i : Fin 64) (e : CacheEntry)
    (he : s.cl.cache[i] = some e) : e.meterId ≠ id := by
  have := tableFind_eq_none_iff.mp h i
  rw [he] at this
  simpa using this

theorem State.cached_eq_some {id : Word} {s : State} {i : Fin 64} (h : s.cached id = some i) :
    ∃ e, s.cl.cache[i] = some e ∧ e.meterId = id := by
  obtain ⟨hi, -⟩ := tableFind_eq_some_iff.mp h
  cases he : s.cl.cache[i] with
  | none => rw [he] at hi; cases hi
  | some e => rw [he] at hi; exact ⟨e, rfl, by simpa using hi⟩

theorem State.keeps_seekFrame {fr : FrameRecord} {s : State} (h : s.cached fr.meterId = none) : s.Keeps (s.seekFrame fr) := by
  unfold State.seekFrame
  split
  · exact s.keeps_joinWalk _ _
  next hnone =>
    split
    next w b _ _ =>
      have hstart : (s.park b fr).Keeps ((s.park b fr).setWalk w (some ⟨fr.meterId, homeBucket fr.meterId, 1, none, [b]⟩)) :=
        State.keeps_newWalk (State.cached_eq_none h) (State.walkOf_eq_none hnone)
      exact (((s.keeps_park b fr).trans hstart).bump _ _).request (c := .walk w) nofun _
    next => exact s.keeps_stall fr

theorem State.keeps_lookupFrame (fr : FrameRecord) (s : State) : s.Keeps (s.lookupFrame fr) := by
  unfold State.lookupFrame
  split
  next i _ =>
    split
    next e he =>
      split
      · exact (State.keeps_cacheHit he).trans (State.keeps_handOn _ _ _)
      · exact (State.keeps_cacheHit he).trans (State.keeps_fallbackFrame _ _)
    next => exact .refl s
  next hnone => exact State.keeps_seekFrame hnone

theorem State.keeps_classify (fr : FrameRecord) (s : State) : s.Keeps (s.classify fr) := by
  unfold State.classify
  split
  · split
    · exact s.keeps_handOn _ _
    · exact s.keeps_lookupFrame _
  · split
    · exact s.keeps_handOn _ _
    · exact s.keeps_foreignFrame _ _

theorem State.keeps_takeFrom (c : Fin 8) (s : State) : s.Keeps (s.takeFrom c) := by
  unfold State.takeFrom
  split
  next fr rest hslots =>
    have htaken : s.Keeps (s.setChannel c { s.channels[c] with slots := rest }) := by
      refine State.keeps_setChannel ⟨?_, .inr rfl⟩
      rw [hslots]
      exact (Nat.le_succ _).trans (le_max_left _ _)
    refine (htaken.trans ?_).trans (State.keeps_classify fr _)
    exact State.keeps_cl_of_eq rfl rfl rfl
  next => exact .refl s

theorem State.keeps_takeFrameRecord (s : State) : s.Keeps s.takeFrameRecord := by
  unfold State.takeFrameRecord
  split
  · refine Keeps.trans ?_ (State.keeps_classify _ _)
    exact State.keeps_cl_of_eq rfl rfl rfl
  · split
    · exact .refl s
    · split
      · exact s.keeps_takeFrom _
      · exact .refl s

/-! ### Completing a walk: a commit leaves the classifier alone -/

theorem State.journalStage_cl (r : Reading) (offers flush : Bool) (s : State) :
    (s.journalStage r offers flush).1.cl = s.cl := by
  unfold State.journalStage
  repeat' split
  all_goals simp

theorem State.commitReading_cl (e : MergeEntry) (o : ScreenOut) (flush : Bool) (s : State) :
    (s.commitReading e o flush).1.cl = s.cl := by
  unfold State.commitReading
  cases s.statusOf e.source with
  | none => dsimp only; split <;> simp [State.journalStage_cl]
  | some st => dsimp only; split <;> simp [State.journalStage_cl]

theorem State.commit_cl (i : Fin 32) (flush : Bool) (s : State) : (s.commit i flush).1.cl = s.cl := by
  unfold State.commit
  split
  · rfl
  · dsimp only
    split
    · rfl
    · exact State.commitReading_cl _ _ _ _

theorem State.createEntry_cl (fr : FrameRecord) (src : Source) (nd : Bool) (s : State) :
    (s.createEntry fr src nd).cl = s.cl := by
  unfold State.createEntry
  split <;> rfl

theorem State.forceCommit_cl (s : State) : s.forceCommit.cl = s.cl := by
  unfold State.forceCommit
  split
  · exact State.commit_cl _ _ _
  · rfl

theorem State.receive_cl (fr : FrameRecord) (src : Source) (nd : Bool) (s : State) : (s.receive fr src nd).cl = s.cl := by
  unfold State.receive
  dsimp only
  split
  · split <;> rfl
  · rw [State.createEntry_cl, State.forceCommit_cl, State.bump_cl]

theorem State.handOn_cl (fr : FrameRecord) (src : Source) (s : State) : (s.handOn fr src).cl = s.cl := by
  unfold State.handOn
  split
  · rfl
  · exact s.receive_cl _ _ _

theorem State.foreignFrame_cl (fr : FrameRecord) (nd : Bool) (s : State) : (s.foreignFrame fr nd).cl = s.cl := by
  unfold State.foreignFrame
  split
  · rfl
  · exact s.receive_cl _ _ _

theorem State.fallbackFrame_cl (fr : FrameRecord) (s : State) : (s.fallbackFrame fr).cl = s.cl := by
  unfold State.fallbackFrame
  split
  · exact s.handOn_cl _ _
  · exact s.foreignFrame_cl _ _

/-- A fold whose steps leave the classifier alone leaves it alone. -/
theorem State.foldl_cl {f : State → FrameRecord → State} (h : ∀ (t : State) (fr : FrameRecord), (f t fr).cl = t.cl)
    (l : List FrameRecord) (s : State) : (l.foldl f s).cl = s.cl := by
  induction l generalizing s with
  | nil => rfl
  | cons a l ih => exact (ih _).trans (h s a)

/-- The frames of a walk handed on after the insertion of its meter ID, and the walk freed. -/
theorem State.keeps_completeWalk {f : State → FrameRecord → State} {w : Fin 4} {k : Walk} {s : State}
    (hk : s.cl.walks[w] = some k) (hf : ∀ (t : State) (fr : FrameRecord), t.Keeps (f t fr))
    (hcl : ∀ (t : State) (fr : FrameRecord), (f t fr).cl = t.cl) (kind : CacheKind) (l : List FrameRecord) :
    s.Keeps ((l.foldl f (s.cacheInsert k.meterId kind)).freeWalk w k) := by
  have hclassifier := State.foldl_cl hcl l (s.cacheInsert k.meterId kind)
  refine ⟨(s.keepsBounds_cacheInsert _ _).trans ((State.KeepsBounds.foldl hf l _).trans (State.keepsBounds_cl fun _ => .inr rfl)),
    State.cacheOk_insert_free hk kind ?_ ?_⟩
  · change (l.foldl f (s.cacheInsert k.meterId kind)).cl.cache = _
    rw [hclassifier]
  · change (l.foldl f (s.cacheInsert k.meterId kind)).cl.walks.set w none = _
    rw [hclassifier]
    rfl

/-- A failed walk's frames handed on, and the walk freed. -/
theorem State.keeps_freeWalk (w : Fin 4) (k : Walk) (s : State) : s.Keeps (s.freeWalk w k) := by
  refine State.keeps_cl (fun _ => .inr rfl) ⟨rfl, fun v l hl => ?_⟩
  rcases eq_or_ne w v with rfl | hne
  · rw [table_set_same] at hl
    cases hl
  · exact ⟨l, table_set_other s.cl.walks none hne ▸ hl, rfl⟩

theorem State.ended_eq_some {w : Fin 4} {k : Walk} {o : WalkOutcome} {s : State} (h : s.ended w = some (k, o)) :
    s.cl.walks[w] = some k ∧ k.outcome = some o := by
  unfold State.ended at h
  split at h
  next l hl =>
    obtain ⟨o', ho', hpair⟩ := Option.map_eq_some_iff.mp h
    cases hpair
    exact ⟨hl, ho'⟩
  next => cases h

end Sys2Proof.Machine
end

section
/-! SUPPORT. Every command answers a next state that keeps what the state before it met: one lemma for each row. -/

namespace Sys2Proof.Machine

/-- The outcome is a next state that keeps the queue of `s` and its invariants. -/
def State.Goes (s : State) (o : Host.Outcome State Fault Refusal) : Prop := ∃ t, o = .next t ∧ s.Keeps t

variable {s : State}

theorem State.Keeps.goes {t : State} (h : s.Keeps t) : s.Goes (live s t) := by
  refine ⟨_, rfl, ?_⟩
  split
  · exact h
  · exact .refl s

/-- A row that acts only under a condition. -/
theorem State.Keeps.goes_ite {p : Prop} [Decidable p] {t : State} (h : p → s.Keeps t) :
    s.Goes (live s (if p then t else s)) := by
  refine State.Keeps.goes ?_
  split
  next hp => exact h hp
  next => exact .refl s

/-- A command of the link whose owning rule keeps. -/
theorem runCommand_keeps {code : Byte} {heldToo lengthOk : Bool} {tag : Byte} {args : List Byte} {act : State → State}
    (h : ∀ u : State, u.Keeps (act u)) (s : State) : s.Goes (live s (runCommand code heldToo lengthOk tag args act s)) :=
  State.Keeps.goes (runCommand_cases s.Keeps (.refl s)
    (fun rc => s.keeps_takeFrame.trans (State.keeps_answer tag code rc [] _)) (s.keeps_takeFrame.trans (h _)))

/-- The same for a setting command. -/
theorem runSetting_keeps {code : Byte} {heldToo lengthOk : Bool} {tag : Byte} {args : List Byte} {act : State → State}
    (h : ∀ u : State, u.Keeps (act u)) (s : State) :
    s.Goes (live s (runCommand code heldToo lengthOk tag args (State.unlessScanning tag code act) s)) := by
  refine runCommand_keeps (fun u => ?_) s
  unfold State.unlessScanning
  split
  · exact u.keeps_answer _ _ _ _
  · exact h u

theorem State.Keeps.answer {t : State} (h : s.Keeps t) (tag code : Byte) (rc : ReplyCode) (r : List Byte) :
    s.Keeps (t.answer tag code rc r) := h.trans (t.keeps_answer tag code rc r)

theorem State.Keeps.startLong {t : State} (h : s.Keeps t) (tag code : Byte) (w : Work) : s.Keeps (t.startLong tag code w) :=
  h.trans (t.keeps_startLong tag code w)

/-- After the operations before it have ended, and the end of its own. -/
theorem State.keeps_settled_endOp (s : State) : s.Keeps s.settled.endOp := s.keeps_settled.trans (State.keeps_endOp _)

/-! ### Chapter 1 -/

theorem execItemDelivered_goes (p : Fin 8) (smp : Sample) (s : State) : s.Goes (execItemDelivered p smp s) :=
  (s.keeps_sample p smp).goes

theorem execSyncMatch_goes (c : Fin 8) (smp : Sample) (s : State) : s.Goes (execSyncMatch c smp s) :=
  State.Keeps.goes_ite fun _ => s.keeps_sampleOf c smp

theorem execBadcodeAbort_goes (c : Fin 8) (smp : Sample) (s : State) : s.Goes (execBadcodeAbort c smp s) :=
  State.Keeps.goes_ite fun _ => s.keeps_sampleOf c smp

theorem execFrameBodyComplete_goes (c : Fin 8) (smp : Sample) (s : State) : s.Goes (execFrameBodyComplete c smp s) :=
  State.Keeps.goes_ite fun _ => s.keeps_sampleOf c smp

theorem execNoisy_goes (c : Fin 8) (cause : NoiseCause) (s : State) : s.Goes (execNoisy c cause s) :=
  State.Keeps.goes_ite fun _ => s.keeps_noiseStep c cause

theorem execRxcInactive_goes (p : Fin 8) (s : State) : s.Goes (execRxcInactive p s) := (s.keeps_carrierLost p).goes

theorem execRxcActive_goes (p : Fin 8) (s : State) : s.Goes (execRxcActive p s) :=
  State.Keeps.goes (State.keeps_setPort_of_settings rfl)

theorem execCheckerBit_goes (p : Fin 8) (level : Bool) (s : State) : s.Goes (execCheckerBit p level s) :=
  (s.keeps_checkBit p level).goes

theorem execPn9Locked_goes (p : Fin 8) (level : Bool) (s : State) : s.Goes (execPn9Locked p level s) :=
  State.Keeps.goes_ite fun _ => s.keeps_checkBit p level

theorem execPn9Lost_goes (p : Fin 8) (level : Bool) (s : State) : s.Goes (execPn9Lost p level s) :=
  State.Keeps.goes_ite fun _ => s.keeps_checkBit p level

theorem execPortSet_goes (tag : Byte) (args : List Byte) (s : State) : s.Goes (execPortSet tag args s) := by
  refine runSetting_keeps (fun u => ?_) s
  dsimp only
  split
  next p mode inv cq _ _ _ _ =>
    split
    · exact u.keeps_answer _ _ _ _
    next hrate =>
      refine State.Keeps.answer (State.Keeps.trans (State.keeps_setPort (.inl ?_)) (.foldl (fun t c => ?_) _ _)) _ _ _ _
      · rw [Port.startChecker_settings]
        exact numAt_lt args 3 4
      · split
        · exact t.keeps_reconf c
        · exact .refl t
  next => exact u.keeps_answer _ _ _ _

theorem execMapSet_goes (tag : Byte) (args : List Byte) (s : State) : s.Goes (execMapSet tag args s) := by
  refine runSetting_keeps (fun u => ?_) s
  dsimp only
  split
  · exact u.keeps_answer _ _ _ _
  · split
    · refine State.Keeps.answer (State.Keeps.trans ?_ (State.keeps_reconf _ _)) _ _ _ _
      exact State.keeps_setChannel (.of_eq rfl rfl)
    · exact u.keeps_answer _ _ _ _

theorem familyArgs_fits {args : List Byte} {f : Family} (h : familyArgs args = some f) : f.fits := by
  unfold familyArgs at h
  split at h
  · cases h
  · cases h
    exact Family.fits_invalid
  · dsimp only at h
    split at h
    · split at h
      · cases h
        simp only [Family.fits, if_true, natAt_lt, and_true]
      · cases h
    · cases h

theorem execFamilySet_goes (tag : Byte) (args : List Byte) (s : State) : s.Goes (execFamilySet tag args s) := by
  refine runSetting_keeps (fun u => ?_) s
  dsimp only
  split
  next f fam _ hfam =>
    split
    · exact u.keeps_answer _ _ _ _
    · have hset : u.Keeps { u with families := u.families.set f fam } := by
        refine State.keeps_families fun g => ?_
        rcases eq_or_ne f g with rfl | hne
        · rw [table_set_same]
          exact .inl (familyArgs_fits hfam)
        · exact .inr (table_set_other _ _ hne)
      exact State.Keeps.answer (hset.trans (.foldl (fun t c => t.keeps_refreshFramer c) eight _)) _ _ _ _
  next => exact u.keeps_answer _ _ _ _

theorem execChannelSet_goes (tag : Byte) (args : List Byte) (s : State) : s.Goes (execChannelSet tag args s) := by
  refine runSetting_keeps (fun u => ?_) s
  dsimp only
  split
  · exact u.keeps_answer _ _ _ _
  next c _ =>
    split
    · exact u.keeps_answer _ _ _ _
    · have hset : u.Keeps (u.setChannel c { u.channels[c] with mask := args.getD 1 0#8, threshold := natAt args 2 }) :=
        State.keeps_setChannel ⟨le_max_left _ _, .inl (natAt_lt _ _)⟩
      refine State.Keeps.answer ?_ _ _ _ _
      split
      · exact hset
      · exact hset.trans (State.keeps_reconf _ _)

theorem execCheckRead_goes (tag : Byte) (args : List Byte) (s : State) : s.Goes (execCheckRead tag args s) := by
  refine runCommand_keeps (fun u => ?_) s
  dsimp only
  split
  · exact u.keeps_answer _ _ _ _
  · split
    · refine State.Keeps.answer ?_ _ _ _ _
      exact State.keeps_setPort_of_settings rfl
    · exact u.keeps_answer _ _ _ _

/-! ### Chapter 2 -/

theorem execRunClockMillisecond_goes (s : State) : s.Goes (execRunClockMillisecond s) := s.keeps_millisecond.goes

theorem execNoiseWindowEnd_goes (s : State) : s.Goes (execNoiseWindowEnd s) :=
  State.Keeps.goes_ite fun _ => s.keeps_millisecond

theorem execTpiEdge_goes (s : State) : s.Goes (execTpiEdge s) := s.keeps_edge.goes

theorem execPulseLost_goes (s : State) : s.Goes (execPulseLost s) := by
  refine State.Keeps.goes_ite fun _ => State.Keeps.raise ?_ _ _
  exact State.keeps_tb_of_window rfl

theorem execTimeSet_goes (tag : Byte) (args : List Byte) (s : State) : s.Goes (execTimeSet tag args s) := by
  refine runCommand_keeps (fun u => ?_) s
  dsimp only
  split
  · exact u.keeps_answer _ _ _ _
  · refine State.Keeps.answer ?_ _ _ _ _
    exact State.keeps_tb_of_window rfl

theorem execTimeRead_goes (tag : Byte) (args : List Byte) (s : State) : s.Goes (execTimeRead tag args s) :=
  runCommand_keeps (fun u => u.keeps_answer _ _ _ _) s

theorem execPulseMode_goes (tag : Byte) (args : List Byte) (s : State) : s.Goes (execPulseMode tag args s) := by
  refine runSetting_keeps (fun u => ?_) s
  dsimp only
  split
  · exact u.keeps_answer _ _ _ _
  · split
    · exact u.keeps_answer _ _ _ _
    · refine State.Keeps.answer (State.keeps_tb (.inl ?_)) _ _ _ _
      rw [TimeBase.setMode_window]
      exact natAt_lt _ _

/-! ### Chapter 3 -/

theorem execRouteClear_goes (tag : Byte) (args : List Byte) (s : State) : s.Goes (execRouteClear tag args s) := by
  refine runCommand_keeps (fun u => ?_) s
  dsimp only
  split
  · exact u.keeps_answer _ _ _ _
  · exact (((u.keeps_setRoute _).startLong _ _ _).request (c := .longOp) nofun _).pump

/-- A command that starts a long operation with a first request. -/
theorem State.keeps_startWork (tag code : Byte) (w : Work) {c : Client} (hc : c ≠ .upload) (op : StoreOp) (s : State) :
    s.Keeps ((s.startLong tag code w).request c op).pump := ((s.keeps_startLong tag code w).request hc op).pump

theorem execRouteLoad_goes (tag : Byte) (args : List Byte) (s : State) : s.Goes (execRouteLoad tag args s) := by
  refine runCommand_keeps (fun u => ?_) s
  split
  · exact ((u.keeps_startLong _ _ _).trans (State.keeps_loadNext _ _ _ _)).pump
  · exact u.keeps_answer _ _ _ _

theorem execRouteFinish_goes (tag : Byte) (args : List Byte) (s : State) : s.Goes (execRouteFinish tag args s) := by
  refine runCommand_keeps (fun u => ?_) s
  split
  · exact u.keeps_startWork _ _ _ (c := .longOp) nofun _
  · exact u.keeps_answer _ _ _ _

theorem execRouteDigest_goes (tag : Byte) (args : List Byte) (s : State) : s.Goes (execRouteDigest tag args s) := by
  refine runCommand_keeps (fun u => ?_) s
  split
  · exact u.keeps_startWork _ _ _ (c := .longOp) nofun _
  · exact u.keeps_answer _ _ _ _

theorem execRouteOpen_goes (tag : Byte) (args : List Byte) (s : State) : s.Goes (execRouteOpen tag args s) := by
  refine runCommand_keeps (fun u => ?_) s
  split
  · exact u.keeps_startWork _ _ _ (c := .longOp) nofun _
  · exact u.keeps_answer _ _ _ _

theorem execRouteClose_goes (tag : Byte) (args : List Byte) (s : State) : s.Goes (execRouteClose tag args s) := by
  refine runCommand_keeps (fun u => ?_) s
  dsimp only
  split
  · refine State.Keeps.startLong ?_ _ _ _
    exact State.keeps_cl_of_eq rfl rfl rfl
  · exact u.keeps_answer _ _ _ _

theorem execRouteQuery_goes (tag : Byte) (args : List Byte) (s : State) : s.Goes (execRouteQuery tag args s) := by
  refine runCommand_keeps (fun u => ?_) s
  dsimp only
  split
  · exact u.keeps_startWork _ _ _ (c := .query) nofun _
  · exact u.keeps_answer _ _ _ _

theorem execSegmentRead_goes (tag : Byte) (args : List Byte) (s : State) : s.Goes (execSegmentRead tag args s) := by
  refine runCommand_keeps (fun u => ?_) s
  dsimp only
  split
  · exact u.keeps_answer _ _ _ _
  · exact u.keeps_answer _ _ _ _

theorem execUnreadList_goes (tag : Byte) (args : List Byte) (s : State) : s.Goes (execUnreadList tag args s) := by
  refine runCommand_keeps (fun u => ?_) s
  split
  · exact u.keeps_answer _ _ _ _
  · split
    · exact u.keeps_answer _ _ _ _
    · exact u.keeps_answer _ _ _ _

theorem execRouteClearDone_goes (s : State) : s.Goes (execRouteClearDone s) := by
  refine State.Keeps.goes ?_
  split
  · split
    · exact ((s.keeps_settled.trans (State.keeps_failLong _ _)).trans (State.keeps_routeTo _ _)).pump
    · split
      · exact ((s.keeps_settled_endOp.endLong _ _).trans (State.keeps_routeTo _ _)).pump
      · exact .refl s
  · exact .refl s

theorem execRouteLoadStoreOpDone_goes (s : State) : s.Goes (execRouteLoadStoreOpDone s) := by
  refine State.Keeps.goes ?_
  split
  · split
    · exact (s.keeps_settled.trans (State.keeps_failLong _ _)).pump
    · split
      · refine State.Keeps.pump ?_
        split
        · exact (s.keeps_settled_endOp.trans (State.keeps_setRoute _ _)).trans (State.keeps_loadNext _ _ _ _)
        · exact s.keeps_settled_endOp.trans (State.keeps_loadProbed _ _ _ _ _)
      · exact .refl s
  · exact .refl s

theorem execRouteFinishReadDone_goes (s : State) : s.Goes (execRouteFinishReadDone s) := by
  refine State.Keeps.goes ?_
  split
  · split
    · exact (s.keeps_settled.trans (State.keeps_failLong _ _)).pump
    · split
      · exact (s.keeps_settled_endOp.trans (State.keeps_finishRead _)).pump
      · exact .refl s
  · exact .refl s

theorem execRouteDigestDone_goes (s : State) : s.Goes (execRouteDigestDone s) := by
  refine State.Keeps.goes ?_
  split
  · split
    · exact (s.keeps_settled.trans (State.keeps_failLong _ _)).pump
    · split
      · exact (s.keeps_settled_endOp.endLong _ _).pump
      · exact .refl s
  · exact .refl s

theorem execRouteOpenReadDone_goes (s : State) : s.Goes (execRouteOpenReadDone s) := by
  refine State.Keeps.goes ?_
  split
  · split
    · exact ((s.keeps_settled.trans (State.keeps_failLong _ _)).trans (State.keeps_setRoute _ _)).pump
    · split
      · exact (s.keeps_settled_endOp.trans (State.keeps_openDirRead _)).pump
      · exact .refl s
  · exact .refl s

theorem execRouteHeaderWriteDone_goes (s : State) : s.Goes (execRouteHeaderWriteDone s) := by
  refine State.Keeps.goes ?_
  split
  next h => exact (s.keeps_settled.trans (State.keeps_resumeHeader h)).pump
  next =>
    split
    next h => exact (s.keeps_settled.trans (State.keeps_commandHeader h)).pump
    next => exact .refl s

theorem execRouteCloseWalksEnded_goes (s : State) : s.Goes (execRouteCloseWalksEnded s) :=
  State.Keeps.goes_ite fun _ => (((s.keeps_commitAll 32).setWork _).request (c := .longOp) nofun _).pump

theorem State.keeps_emptyCache (s : State) : s.Keeps { s with cl := { s.cl with cache := emptyCache } } := by
  refine ⟨State.keepsBounds_cl fun _ => .inr rfl, fun ⟨_, _, hwalk, _⟩ => ?_⟩
  refine ⟨fun i e h => ?_, fun i j e f h => ?_, hwalk, fun i w e k h => ?_⟩ <;> simp [emptyCache] at h

theorem State.keeps_finishClose (stored : Bool) (s : State) : s.Keeps (s.finishClose stored) := by
  have hclosed := s.keeps_setRoute { s.rm with state := .closed }
  have hemptied := hclosed.trans (State.keeps_emptyCache _)
  unfold State.finishClose
  refine State.Keeps.endLong (hemptied.trans ?_) _ _
  exact State.keeps_cl_of_eq (s := { s.setRoute { s.rm with state := .closed } with
    cl := { s.cl with cache := emptyCache } }) rfl rfl rfl

theorem execRouteCloseDone_goes (s : State) : s.Goes (execRouteCloseDone s) := by
  refine State.Keeps.goes ?_
  split
  · exact (s.keeps_settled.trans (State.keeps_finishClose _ _)).pump
  · split
    · exact ((s.keeps_settled.trans (State.keeps_takeFailed _ _)).trans (State.keeps_finishClose _ _)).pump
    · split
      · exact (s.keeps_settled_endOp.trans (State.keeps_finishClose _ _)).pump
      · exact .refl s
  · exact .refl s

theorem execRouteQueryReadDone_goes (s : State) : s.Goes (execRouteQueryReadDone s) := by
  refine State.Keeps.goes ?_
  split
  · split
    · exact ((s.keeps_settled.trans (State.keeps_takeFailed _ _)).endLong _ _).pump
    · split
      · exact (s.keeps_settled_endOp.trans (State.keeps_queryRead _ _ _)).pump
      · exact .refl s
  · exact .refl s

theorem execRouteHeaderReadDone_goes (s : State) : s.Goes (execRouteHeaderReadDone s) := by
  refine State.Keeps.goes_ite fun _ => ?_
  split
  · exact ((s.keeps_settled.trans (State.keeps_takeFailed _ _)).trans (State.keeps_routeEmpty _)).pump
  · split
    · exact (s.keeps_settled_endOp.trans (State.keeps_headerRead _)).pump
    · exact .refl s

theorem execResumeRebuildDone_goes (s : State) : s.Goes (execResumeRebuildDone s) := by
  refine State.Keeps.goes ?_
  split
  · split
    · exact ((s.keeps_settled.trans (State.keeps_takeFailed _ _)).trans (State.keeps_resumeClosed _)).pump
    · split
      · exact (s.keeps_settled_endOp.trans (State.keeps_rebuilt _)).pump
      · exact .refl s
  · exact .refl s

theorem execJournalReplayDone_goes (s : State) : s.Goes (execJournalReplayDone s) := by
  refine State.Keeps.goes ?_
  split
  · split
    · exact ((s.keeps_settled.trans (State.keeps_takeFailed _ _)).trans (State.keeps_resumeClosed _)).pump
    · split
      · exact .refl s
      · exact (s.keeps_settled.trans (State.keeps_resumed _ _ _)).pump
  · exact .refl s

/-! ### Chapter 4 -/

theorem execFrameTake_goes (s : State) : s.Goes (execFrameTake s) :=
  State.Keeps.goes_ite fun _ => s.keeps_takeFrameRecord.pump

theorem execBucketReadDone_goes (s : State) : s.Goes (execBucketReadDone s) := by
  refine State.Keeps.goes ?_
  split
  · exact (s.keeps_settled_endOp.trans (State.keeps_bucketDone _ _)).pump
  · exact .refl s

theorem execWalkCompleteFound_goes (w : Fin 4) (s : State) : s.Goes (execWalkCompleteFound w s) := by
  refine State.Keeps.goes ?_
  split
  next k r h =>
    exact (State.keeps_completeWalk (State.ended_eq_some h).1 (fun t fr => t.keeps_handOn fr _)
      (fun t fr => t.handOn_cl fr _) _ _).pump
  next => exact .refl s

theorem execWalkCompleteNotFound_goes (w : Fin 4) (s : State) : s.Goes (execWalkCompleteNotFound w s) := by
  refine State.Keeps.goes ?_
  split
  next k h =>
    exact (State.keeps_completeWalk (State.ended_eq_some h).1 (fun t fr => t.keeps_fallbackFrame fr)
      (fun t fr => t.fallbackFrame_cl fr) _ _).pump
  next => exact .refl s

theorem execWalkCompleteFailed_goes (w : Fin 4) (s : State) : s.Goes (execWalkCompleteFailed w s) := by
  refine State.Keeps.goes ?_
  split
  next k _ =>
    exact (((s.keeps_bump .walkFailed 1).trans (.foldl (fun t fr => t.keeps_foreignFrame fr true) (s.walkFrames k) _)).trans
      (State.keeps_freeWalk w k _)).pump
  next => exact .refl s

theorem execCacheFlush_goes (tag : Byte) (args : List Byte) (s : State) : s.Goes (execCacheFlush tag args s) :=
  runCommand_keeps (fun u => u.keeps_emptyCache.answer _ _ _ _) s

theorem execCacheProbe_goes (tag : Byte) (args : List Byte) (s : State) : s.Goes (execCacheProbe tag args s) := by
  refine runCommand_keeps (fun u => ?_) s
  split
  · exact u.keeps_answer _ _ _ _
  · exact u.keeps_answer _ _ _ _

theorem rangeArgs_fits {args : List Byte} {r : RangeEntry} (h : rangeArgs args = some r) : r.fits := by
  unfold rangeArgs at h
  split at h
  · dsimp only at h
    split at h
    · cases h
      simp only [RangeEntry.fits, if_true, natAt_lt, true_and]
      exact fun f => familyOfCode_lt (natAt_lt _ _)
    · cases h
  · cases h

theorem State.keeps_setRange {n : Fin 8} {r : RangeEntry} (h : r.fits) : s.Keeps (s.setRange n r) := by
  refine State.keeps_cl (fun m => ?_) (.of_eq rfl rfl)
  rcases eq_or_ne n m with rfl | hne
  · rw [table_set_same]
    exact .inl h
  · exact .inr (table_set_other _ _ hne)

theorem execRangeSet_goes (tag : Byte) (args : List Byte) (s : State) : s.Goes (execRangeSet tag args s) := by
  refine runSetting_keeps (fun u => ?_) s
  split
  next n r _ hr =>
    split
    · exact u.keeps_answer _ _ _ _
    · exact (State.keeps_setRange (rangeArgs_fits hr)).answer _ _ _ _
  next => exact u.keeps_answer _ _ _ _

theorem execRangeClear_goes (tag : Byte) (args : List Byte) (s : State) : s.Goes (execRangeClear tag args s) := by
  refine runSetting_keeps (fun u => ?_) s
  split
  · exact (State.keeps_setRange RangeEntry.fits_invalid).answer _ _ _ _
  · exact u.keeps_answer _ _ _ _

theorem execForeignPolicy_goes (tag : Byte) (args : List Byte) (s : State) : s.Goes (execForeignPolicy tag args s) := by
  refine runSetting_keeps (fun u => ?_) s
  dsimp only
  split
  · refine State.Keeps.answer ?_ _ _ _ _
    exact State.keeps_cl_of_eq rfl rfl rfl
  · exact u.keeps_answer _ _ _ _

theorem execUtilitySet_goes (tag : Byte) (args : List Byte) (s : State) : s.Goes (execUtilitySet tag args s) := by
  refine runSetting_keeps (fun u => ?_) s
  dsimp only
  split
  · exact u.keeps_answer _ _ _ _
  · split
    · exact u.keeps_answer _ _ _ _
    · refine State.Keeps.answer ?_ _ _ _ _
      exact State.keeps_cl_of_eq rfl rfl rfl

/-! ### Chapters 5 and 6 -/

theorem execMergeExpiry_goes (e : Fin 32) (s : State) : s.Goes (execMergeExpiry e s) :=
  State.Keeps.goes_ite fun _ => (s.keeps_commit e false).pump

theorem execFlushMerge_goes (tag : Byte) (args : List Byte) (s : State) : s.Goes (execFlushMerge tag args s) :=
  runCommand_keeps (fun u => (u.keeps_mergeTable _).startLong _ _ _) s

theorem execFlushMergeCommit_goes (s : State) : s.Goes (execFlushMergeCommit s) := by
  refine State.Keeps.goes ?_
  split
  · exact ((s.keeps_commit _ _).setWork _).pump
  · exact .refl s

theorem execFlushMergeDone_goes (s : State) : s.Goes (execFlushMergeDone s) := by
  refine State.Keeps.goes ?_
  split
  · split
    · exact s.keeps_endLong _ _
    · exact .refl s
  · exact .refl s

theorem execMergeSet_goes (tag : Byte) (args : List Byte) (s : State) : s.Goes (execMergeSet tag args s) := by
  refine runSetting_keeps (fun u => ?_) s
  dsimp only
  split
  · exact u.keeps_answer _ _ _ _
  · exact (State.keeps_mc (.inl (numAt_lt args 0 2)) (.inl (numAt_lt args 2 2))).answer _ _ _ _

theorem execRuleSet_goes (tag : Byte) (args : List Byte) (s : State) : s.Goes (execRuleSet tag args s) := by
  refine runSetting_keeps (fun u => ?_) s
  dsimp only
  split
  · exact u.keeps_answer _ _ _ _
  next r _ =>
    refine State.Keeps.answer (State.keeps_rules fun n => ?_) _ _ _ _
    rcases eq_or_ne r n with rfl | hne
    · rw [table_set_same]
      exact .inl ⟨numAt_lt args 1 2, natAt_lt _ _, natAt_lt _ _⟩
    · exact .inr (table_set_other _ _ hne)

theorem execRuleRead_goes (tag : Byte) (args : List Byte) (s : State) : s.Goes (execRuleRead tag args s) := by
  refine runCommand_keeps (fun u => ?_) s
  split
  · exact u.keeps_answer _ _ _ _
  · exact u.keeps_answer _ _ _ _

/-! ### Chapter 7 -/

theorem execAppendProgramDone_goes (s : State) : s.Goes (execAppendProgramDone s) :=
  State.Keeps.goes_ite fun _ => (s.keeps_settled_endOp.trans (State.keeps_appendDone _)).pump

theorem execJournalSectorOpened_goes (s : State) : s.Goes (execJournalSectorOpened s) :=
  State.Keeps.goes_ite fun _ => (s.keeps_settled_endOp.trans (State.keeps_openingDone _)).pump

theorem execReclaimEraseDone_goes (s : State) : s.Goes (execReclaimEraseDone s) :=
  State.Keeps.goes_ite fun _ => (s.keeps_settled_endOp.trans (State.keeps_reclaimDone _)).pump

theorem execMarkSlotReadDone_goes (s : State) : s.Goes (execMarkSlotReadDone s) :=
  State.Keeps.goes_ite fun _ => (s.keeps_settled_endOp.trans (State.keeps_markFound _)).pump

theorem execMarkProgramDone_goes (s : State) : s.Goes (execMarkProgramDone s) :=
  State.Keeps.goes_ite fun _ => ((s.keeps_settled_endOp.bump .markPrograms 1).trans (State.keeps_marked _)).pump

theorem execProgramTimeout_goes (s : State) : s.Goes (execProgramTimeout s) :=
  State.Keeps.goes_ite fun _ => (s.keeps_failStore _).pump

theorem execEraseTimeout_goes (s : State) : s.Goes (execEraseTimeout s) :=
  State.Keeps.goes_ite fun _ => (s.keeps_failStore _).pump

theorem execConfigSave_goes (tag : Byte) (args : List Byte) (s : State) : s.Goes (execConfigSave tag args s) :=
  runSetting_keeps (fun u => u.keeps_startWork _ _ _ (c := .longOp) nofun _) s

theorem execConfigSaveDone_goes (s : State) : s.Goes (execConfigSaveDone s) := by
  refine State.Keeps.goes ?_
  split
  · split
    · exact (s.keeps_settled.trans (State.keeps_failLong _ _)).pump
    · split
      · exact (s.keeps_settled_endOp.endLong _ _).pump
      · exact .refl s
  · exact .refl s

theorem execJournalStatus_goes (tag : Byte) (args : List Byte) (s : State) : s.Goes (execJournalStatus tag args s) :=
  runCommand_keeps (fun u => u.keeps_answer _ _ _ _) s

theorem execJournalErase_goes (tag : Byte) (args : List Byte) (s : State) : s.Goes (execJournalErase tag args s) := by
  refine runCommand_keeps (fun u => ?_) s
  split
  · exact u.keeps_answer _ _ _ _
  · split
    · exact u.keeps_answer _ _ _ _
    · split
      · exact u.keeps_answer _ _ _ _
      · exact (u.keeps_startErase tag).pump

theorem execJournalEraseDone_goes (s : State) : s.Goes (execJournalEraseDone s) := by
  refine State.Keeps.goes ?_
  split
  · split
    · exact (s.keeps_settled.trans (State.keeps_failLong _ _)).pump
    · split
      · split
        · exact ((s.keeps_settled_endOp.trans (State.keeps_eraseFinished _)).endLong _ _).pump
        · exact .refl s
      · exact .refl s
  · exact .refl s

theorem execPowerOnReset_goes (s : State) : s.Goes (execPowerOnReset s) :=
  ⟨_, rfl, s.keeps_cutPower.trans (State.keeps_afresh _)⟩

theorem execLineReset_goes (s : State) : s.Goes (execLineReset s) := s.keeps_lineReset.goes

theorem execCommandReset_goes (s : State) : s.Goes (execCommandReset s) :=
  State.Keeps.goes_ite fun _ => s.keeps_commandReset

theorem execLossOfPower_goes (s : State) : s.Goes (execLossOfPower s) := s.keeps_cutPower.goes

theorem execStoreReady_goes (s : State) : s.Goes (execStoreReady s) := by
  refine State.Keeps.goes_ite fun _ => State.Keeps.pump (State.Keeps.trans ?_ (State.keeps_beginLoad _))
  refine State.Keeps.trans (State.keeps_store (m := s.port.finishing.foldl (fun m op => op.apply m) s.store) fun hwf => ?_)
    (State.keeps_port ?_)
  · generalize s.port.finishing = ops
    generalize s.store = m at hwf
    induction ops generalizing m with
    | nil => exact hwf
    | cons op ops ih => exact ih _ (op.wf_apply m hwf)
  · exact le_rfl

theorem execStoreReadyTimeout_goes (s : State) : s.Goes (execStoreReadyTimeout s) := by
  refine State.Keeps.goes_ite fun _ => State.Keeps.pump (State.Keeps.trans ?_ (State.keeps_beginLoad _))
  have hcut := (s.keeps_raise .storeFault 2#32).trans (State.keeps_cutOps false s.port.finishing _)
  exact (hcut.trans (State.keeps_storeFailed true _)).trans (State.keeps_port le_rfl)

theorem execConfigLoadDone_goes (s : State) : s.Goes (execConfigLoadDone s) := by
  refine State.Keeps.goes_ite fun _ => ?_
  split
  · exact (((s.keeps_settled.trans (State.keeps_takeFailed _ _)).raise _ _).trans (State.keeps_beginScan _)).pump
  · split
    · exact ((s.keeps_settled_endOp.trans (State.keeps_imageRead _)).trans (State.keeps_beginScan _)).pump
    · exact .refl s

theorem execJournalScanDone_goes (s : State) : s.Goes (execJournalScanDone s) := by
  refine State.Keeps.goes_ite fun _ => ?_
  split
  · exact (((s.keeps_settled.trans (State.keeps_takeFailed _ _)).trans (State.keeps_scanFault _)).trans
      (State.keeps_beginHeaderRead _)).pump
  · split
    · exact ((s.keeps_settled_endOp.trans (State.keeps_scanned _)).trans (State.keeps_beginHeaderRead _)).pump
    · exact .refl s

/-! ### Chapter 8 -/

theorem execUploadReadDone_goes (s : State) : s.Goes (execUploadReadDone s) := by
  refine State.Keeps.goes ?_
  split
  next h => exact (s.keeps_settled.trans (State.keeps_uploadRead h _)).pump
  next => exact s.keeps_settled_endOp.pump
  next => exact .refl s

theorem execUploadTimeout_goes (s : State) : s.Goes (execUploadTimeout s) :=
  State.Keeps.goes_ite fun _ => s.keeps_timeoutRewind.pump

theorem execUploadStart_goes (tag : Byte) (args : List Byte) (s : State) : s.Goes (execUploadStart tag args s) := by
  refine runCommand_keeps (fun u => ?_) s
  split
  · exact u.keeps_answer _ _ _ _
  · split
    · exact u.keeps_answer _ _ _ _
    · exact (u.keeps_startUpload.answer _ _ _ _).pump

theorem execUploadStop_goes (tag : Byte) (args : List Byte) (s : State) : s.Goes (execUploadStop tag args s) :=
  runCommand_keeps (fun u => (u.keeps_stopUpload.answer _ _ _ _).pump) s

theorem execUploadAck_goes (tag : Byte) (args : List Byte) (s : State) : s.Goes (execUploadAck tag args s) := by
  refine runCommand_keeps (fun u => ?_) s
  dsimp only
  split
  · exact (u.keeps_bump _ _).answer _ _ _ _
  next hlow =>
    split
    · exact u.keeps_answer _ _ _ _
    next hhigh => exact ((State.keeps_acknowledge hlow hhigh).answer _ _ _ _).pump

/-! ### Chapter 9 -/

theorem execLinkTuned_goes (rate : Nat) (s : State) : s.Goes (execLinkTuned rate s) := by
  refine State.Keeps.goes_ite fun _ => State.Keeps.pump ?_
  exact State.keeps_setTrunk (.of_eq rfl rfl rfl rfl)

theorem execLinkBreak_goes (s : State) : s.Goes (execLinkBreak s) := State.Keeps.goes_ite fun _ => s.keeps_break.pump

theorem execLinkFramingError_goes (s : State) : s.Goes (execLinkFramingError s) :=
  State.Keeps.goes_ite fun _ => (s.keeps_setRx none).bump _ _

theorem execCharacterAccepted_goes (b : Byte) (s : State) : s.Goes (execCharacterAccepted b s) :=
  State.Keeps.goes_ite fun _ => s.keeps_takeByte b

theorem execLinkFrameReceived_goes (b : Byte) (s : State) : s.Goes (execLinkFrameReceived b s) :=
  State.Keeps.goes_ite fun _ => s.keeps_takeByte b

theorem execUnknownCommand_goes (tag code : Byte) (args : List Byte) (s : State) : s.Goes (execUnknownCommand tag code args s) :=
  State.Keeps.goes_ite fun _ => s.keeps_takeFrame.answer _ _ _ _

theorem execLongOpReply_goes (s : State) : s.Goes (execLongOpReply s) := by
  refine State.Keeps.goes ?_
  split
  · exact State.keeps_setTrunk (.of_eq rfl rfl rfl rfl)
  · exact .refl s

theorem execTransmitBegin_goes (s : State) : s.Goes (execTransmitBegin s) := by
  refine State.Keeps.goes_ite fun _ => ?_
  split
  next h => exact State.keeps_transmit h
  next => exact .refl s

theorem State.keeps_endTx {k : TxKind} {bs : List Byte} (htx : s.tl.tx = some ⟨k, bs⟩) :
    s.Keeps ((s.setTrunk { s.tl with tx := none }).endTx k) := by
  unfold State.endTx
  split
  · exact s.keeps_silence.trans (State.keeps_commandReset _)
  · exact (State.keeps_uploadSent htx).pump
  · exact s.keeps_silence

theorem execTransmitEnd_goes (s : State) : s.Goes (execTransmitEnd s) := by
  refine State.Keeps.goes ?_
  split
  next x hx => exact State.keeps_endTx hx
  next => exact .refl s

theorem execStatus_goes (tag : Byte) (args : List Byte) (s : State) : s.Goes (execStatus tag args s) :=
  runCommand_keeps (fun u => u.keeps_answer _ _ _ _) s

theorem execCountersRead_goes (tag : Byte) (args : List Byte) (s : State) : s.Goes (execCountersRead tag args s) :=
  runCommand_keeps (fun u => u.keeps_answer _ _ _ _) s

theorem execCountersClear_goes (tag : Byte) (args : List Byte) (s : State) : s.Goes (execCountersClear tag args s) :=
  runCommand_keeps (fun _ => State.Keeps.answer (State.keeps_counters fun _ => .inl (by simp)) _ _ _ _) s

theorem execEventsClear_goes (tag : Byte) (args : List Byte) (s : State) : s.Goes (execEventsClear tag args s) := by
  refine runCommand_keeps (fun u => State.Keeps.answer ?_ _ _ _ _) s
  exact State.keeps_setTrunk (.of_eq rfl rfl rfl rfl)

theorem execEventMask_goes (tag : Byte) (args : List Byte) (s : State) : s.Goes (execEventMask tag args s) := by
  refine runSetting_keeps (fun u => State.Keeps.answer ?_ _ _ _ _) s
  exact State.keeps_setTrunk (.of_eq rfl rfl rfl rfl)

theorem execReset_goes (tag : Byte) (args : List Byte) (s : State) : s.Goes (execReset tag args s) :=
  runCommand_keeps (act := State.acceptReset tag) (fun _ => State.keeps_setTrunk (.of_eq rfl rfl rfl rfl)) s

/-! ### The step -/

/-- Every command answers a next state, with the queue and the invariants kept. -/
theorem exec_goes (c : Instr) (s : State) : s.Goes (exec c s) := by
  cases c with
  | powerOnReset => exact execPowerOnReset_goes s
  | lineReset => exact execLineReset_goes s
  | commandReset => exact execCommandReset_goes s
  | storeReady => exact execStoreReady_goes s
  | storeReadyTimeout => exact execStoreReadyTimeout_goes s
  | configLoadDone => exact execConfigLoadDone_goes s
  | journalScanDone => exact execJournalScanDone_goes s
  | routeHeaderReadDone => exact execRouteHeaderReadDone_goes s
  | resumeRebuildDone => exact execResumeRebuildDone_goes s
  | journalReplayDone => exact execJournalReplayDone_goes s
  | rxcInactive p => exact execRxcInactive_goes p s
  | rxcActive p => exact execRxcActive_goes p s
  | pn9Locked p level => exact execPn9Locked_goes p level s
  | pn9Lost p level => exact execPn9Lost_goes p level s
  | syncMatch c smp => exact execSyncMatch_goes c smp s
  | badcodeAbort c smp => exact execBadcodeAbort_goes c smp s
  | frameBodyComplete c smp => exact execFrameBodyComplete_goes c smp s
  | noisy c cause => exact execNoisy_goes c cause s
  | noiseWindowEnd => exact execNoiseWindowEnd_goes s
  | tpiEdge => exact execTpiEdge_goes s
  | pulseLost => exact execPulseLost_goes s
  | frameTake => exact execFrameTake_goes s
  | bucketReadDone => exact execBucketReadDone_goes s
  | walkCompleteFound w => exact execWalkCompleteFound_goes w s
  | walkCompleteNotFound w => exact execWalkCompleteNotFound_goes w s
  | walkCompleteFailed w => exact execWalkCompleteFailed_goes w s
  | mergeExpiry e => exact execMergeExpiry_goes e s
  | flushMergeCommit => exact execFlushMergeCommit_goes s
  | flushMergeDone => exact execFlushMergeDone_goes s
  | appendProgramDone => exact execAppendProgramDone_goes s
  | journalSectorOpened => exact execJournalSectorOpened_goes s
  | reclaimEraseDone => exact execReclaimEraseDone_goes s
  | markSlotReadDone => exact execMarkSlotReadDone_goes s
  | markProgramDone => exact execMarkProgramDone_goes s
  | programTimeout => exact execProgramTimeout_goes s
  | eraseTimeout => exact execEraseTimeout_goes s
  | uploadReadDone => exact execUploadReadDone_goes s
  | uploadTimeout => exact execUploadTimeout_goes s
  | linkTuned rate => exact execLinkTuned_goes rate s
  | linkBreak => exact execLinkBreak_goes s
  | linkFramingError => exact execLinkFramingError_goes s
  | linkFrameReceived b => exact execLinkFrameReceived_goes b s
  | unknownCommand tag code args => exact execUnknownCommand_goes tag code args s
  | longOpReply => exact execLongOpReply_goes s
  | transmitBegin => exact execTransmitBegin_goes s
  | transmitEnd => exact execTransmitEnd_goes s
  | portSet tag args => exact execPortSet_goes tag args s
  | mapSet tag args => exact execMapSet_goes tag args s
  | familySet tag args => exact execFamilySet_goes tag args s
  | channelSet tag args => exact execChannelSet_goes tag args s
  | checkRead tag args => exact execCheckRead_goes tag args s
  | timeSet tag args => exact execTimeSet_goes tag args s
  | timeRead tag args => exact execTimeRead_goes tag args s
  | pulseMode tag args => exact execPulseMode_goes tag args s
  | routeClear tag args => exact execRouteClear_goes tag args s
  | routeClearDone => exact execRouteClearDone_goes s
  | routeLoad tag args => exact execRouteLoad_goes tag args s
  | routeLoadStoreOpDone => exact execRouteLoadStoreOpDone_goes s
  | routeFinish tag args => exact execRouteFinish_goes tag args s
  | routeFinishReadDone => exact execRouteFinishReadDone_goes s
  | routeHeaderWriteDone => exact execRouteHeaderWriteDone_goes s
  | routeDigest tag args => exact execRouteDigest_goes tag args s
  | routeDigestDone => exact execRouteDigestDone_goes s
  | routeOpen tag args => exact execRouteOpen_goes tag args s
  | routeOpenReadDone => exact execRouteOpenReadDone_goes s
  | routeClose tag args => exact execRouteClose_goes tag args s
  | routeCloseWalksEnded => exact execRouteCloseWalksEnded_goes s
  | routeCloseDone => exact execRouteCloseDone_goes s
  | routeQuery tag args => exact execRouteQuery_goes tag args s
  | routeQueryReadDone => exact execRouteQueryReadDone_goes s
  | segmentRead tag args => exact execSegmentRead_goes tag args s
  | unreadList tag args => exact execUnreadList_goes tag args s
  | cacheFlush tag args => exact execCacheFlush_goes tag args s
  | cacheProbe tag args => exact execCacheProbe_goes tag args s
  | rangeSet tag args => exact execRangeSet_goes tag args s
  | rangeClear tag args => exact execRangeClear_goes tag args s
  | foreignPolicy tag args => exact execForeignPolicy_goes tag args s
  | utilitySet tag args => exact execUtilitySet_goes tag args s
  | mergeSet tag args => exact execMergeSet_goes tag args s
  | flushMerge tag args => exact execFlushMerge_goes tag args s
  | ruleSet tag args => exact execRuleSet_goes tag args s
  | ruleRead tag args => exact execRuleRead_goes tag args s
  | configSave tag args => exact execConfigSave_goes tag args s
  | configSaveDone => exact execConfigSaveDone_goes s
  | journalStatus tag args => exact execJournalStatus_goes tag args s
  | journalErase tag args => exact execJournalErase_goes tag args s
  | journalEraseDone => exact execJournalEraseDone_goes s
  | uploadStart tag args => exact execUploadStart_goes tag args s
  | uploadStop tag args => exact execUploadStop_goes tag args s
  | uploadAck tag args => exact execUploadAck_goes tag args s
  | status tag args => exact execStatus_goes tag args s
  | countersRead tag args => exact execCountersRead_goes tag args s
  | countersClear tag args => exact execCountersClear_goes tag args s
  | eventsClear tag args => exact execEventsClear_goes tag args s
  | eventMask tag args => exact execEventMask_goes tag args s
  | reset tag args => exact execReset_goes tag args s
  | itemDelivered p smp => exact execItemDelivered_goes p smp s
  | checkerBit p level => exact execCheckerBit_goes p level s
  | runClockMillisecond => exact execRunClockMillisecond_goes s
  | characterAccepted b => exact execCharacterAccepted_goes b s
  | lossOfPower => exact execLossOfPower_goes s

/-- A step keeps every invariant: with a command in front it is `exec` of the state without that command, whose
invariants are those of the state, and without one it is the end of at most one store operation. -/
theorem step_keeps_safe {s t : State} (h : step s = .next t) (P : State → Prop)
    (hqueue : P s → ∀ l : List Instr, P { s with pending := l }) (hkeeps : ∀ u v : State, u.Keeps v → P u → P v)
    (hs : P s) : P t := by
  unfold step at h
  split at h
  next c rest _ =>
    obtain ⟨u, hu, hkeep⟩ := exec_goes c { s with pending := rest }
    rw [hu] at h
    cases h
    exact hkeeps _ _ hkeep (hqueue hs rest)
  next =>
    cases h
    exact hkeeps _ _ s.keeps_idle hs

/-- Settles O2: every row goes on to a state that keeps the queue (`exec_goes`). -/
theorem execAnswersNextAndKeepsQueue : Obligations.ExecAnswersNextAndKeepsQueue := fun c s =>
  (exec_goes c s).imp fun _ ⟨hnext, hkeeps⟩ => ⟨hnext, hkeeps.pending⟩

/-- Settles O4: a step keeps (`step_keeps_safe`), and an operation's end, cut short or not, is the only thing that
writes to the store. -/
theorem stepKeepsStoreForm : Obligations.StepKeepsStoreForm := fun _ _ hs h =>
  step_keeps_safe h State.storeOk (fun hs _ => hs) (fun _ _ hk => hk.store) hs

/-- Settles O5, with `step_keeps_safe`: each queue takes an entry only where it has room. -/
theorem stepKeepsQueueBounds : Obligations.StepKeepsQueueBounds := fun _ _ hs h =>
  step_keeps_safe h State.queuesOk (fun hs _ => hs) (fun _ _ hk => hk.queues) hs

/-- Settles O6, with `step_keeps_safe`: a counter goes up to its largest value at most, and a setting comes from
argument bytes or from the image. -/
theorem stepKeepsCountersInRange : Obligations.StepKeepsCountersInRange :=
  ⟨fun _ _ hs h => step_keeps_safe h State.countersOk (fun hs _ => hs) (fun _ _ hk => hk.counters) hs,
    fun _ _ hs h => step_keeps_safe h State.settingsOk (fun hs _ => hs) (fun _ _ hk => hk.settings) hs⟩

/-- Settles O7, with `step_keeps_safe`: a ready frame is made when the outstanding read has ended (`keeps_uploadRead`),
and joins the window when its transmission ends (`keeps_uploadSent`). -/
theorem stepKeepsUploadWindow : Obligations.StepKeepsUploadWindow := fun _ _ hs h =>
  step_keeps_safe h State.windowOk (fun hs _ => hs) (fun _ _ hk => hk.window) hs

/-- Settles O8, with `step_keeps_safe`: an acknowledgment moves both serials (`keeps_acknowledge`), the scan sets them
alike (`keeps_scanPointers`), and a mark is programmed at or below the target (`keeps_markFound`). -/
theorem stepKeepsAcknowledgedSerial : Obligations.StepKeepsAcknowledgedSerial := fun _ _ hs h =>
  step_keeps_safe h State.ackOk (fun hs _ => hs) (fun _ _ hk => hk.ack) hs

/-- Settles O38: the step with `step_keeps_safe`; what a hit and an insertion do entry by entry, and that both keep the
ages an order. -/
theorem cacheAgesStayAnOrder : Obligations.CacheAgesStayAnOrder := by
  refine ⟨fun _ _ hs h => step_keeps_safe h State.cacheOk (fun hs _ => hs) (fun _ _ hk => hk.cache) hs, fun s => ?_⟩
  refine ⟨fun i e => rfl, fun id kind => rfl, fun i e he haged => ?hit, fun id kind haged => ?insert⟩
  case hit =>
    exact ⟨s.cacheHit_cache_same i e, (agesOrder_iff _).mp (State.cacheHit_agesOrder he ((agesOrder_iff _).mpr haged)),
      fun j hj => State.cacheHit_cache_other e s hj⟩
  case insert =>
    have horder := (agesOrder_iff _).mpr haged
    exact ⟨(agesOrder_iff _).mp (State.cacheInsert_agesOrder horder id kind), s.insertAt,
      s.cacheInsert_cache_same id kind, State.insertAt_spec horder, fun j hj => s.cacheInsert_cache_other id kind hj⟩

/-- Settles O1. -/
theorem stepRunsFrontCommand : Obligations.StepRunsFrontCommand := fun _ _ _ => rfl

/-- Settles O9: the reset state has nothing in the store, the queues and the port, zero serials and counters, an empty
cache, and default settings. -/
theorem resetIsSafe : Obligations.ResetIsSafe := by
  refine ⟨Memory.wf_nil, ⟨by decide, by decide, by decide, by decide, by decide⟩, State.reset_countersOk,
    ⟨by decide, nofun, .inl rfl⟩, ⟨rfl, le_rfl, le_rfl, nofun⟩, State.reset_cacheOk, State.reset_settingsOk⟩

end Sys2Proof.Machine
end

section
/-! SUPPORT. The course of every command of the link, read off its form. -/

namespace Sys2Proof.Machine

/-- A command of the link is the common course with the code, marks and length of its form; a setting command is held
off while the journal is SCANNING. -/
theorem exec_of_form {c : Instr} {f : CommandForm} (h : c.form? = some f) :
    ∃ act : State → State,
      (∀ s : State, exec c s = live s (runCommand f.code f.heldToo f.lengthOk f.tag f.args act s))
        ∧ (f.setting = true → ∃ a, act = State.unlessScanning f.tag f.code a) := by
  cases c
  all_goals cases h
  case portSet | mapSet | familySet | channelSet | pulseMode | rangeSet | rangeClear | foreignPolicy | utilitySet
    | mergeSet | ruleSet | configSave | eventMask => exact ⟨_, fun _ => rfl, fun _ => ⟨_, rfl⟩⟩
  all_goals exact ⟨_, fun _ => rfl, nofun⟩

/-- Settles O3: the branches of the common course, for the form of each command (`exec_of_form`). -/
theorem commandFramesTakenBusyOrMalformed : Obligations.CommandFramesTakenBusyOrMalformed := by
  intro c f s hform hpow
  obtain ⟨act, hrun, hsetting⟩ := exec_of_form hform
  rw [hrun, live_powered hpow]
  refine ⟨fun hnot => ?_, fun htake hheld hbusy => ?_, fun htake hfree hlen => ?_, fun haccepts hlen hset hscan => ?_⟩
  · rw [runCommand_not_taken hnot]
  · rw [hbusy, runCommand_busy htake.2 hheld]
  · rw [hlen, runCommand_badArg htake.2 hfree]
  · obtain ⟨a, rfl⟩ := hsetting hset
    rw [hlen, runCommand_acts haccepts.1.2 (.inl haccepts.2), State.unlessScanning_scanning (s := s.takeFrame) hscan,
      State.takeFrame_answer]

end Sys2Proof.Machine
end

section
/-! SUPPORT. What a delivery reaches. -/

namespace Sys2Proof.Machine

/-- Settles O11: `deliver_channel` says what becomes of each channel, and no framer's item touches another block. -/
theorem deliveryReachesTheMappedChannels : Obligations.DeliveryReachesTheMappedChannels := by
  intro p it s
  refine ⟨s.deliver_channel p it, ?_⟩
  apply State.ext_fields
  case h17 => exact s.deliver_tl p it
  all_goals simp

end Sys2Proof.Machine
end

section
/-! SUPPORT. The examination of a bucket, slot by slot from the first. -/

namespace Sys2Proof.Machine

/-- Slot `k` of bucket `b`, judged. -/
def Memory.dirSlot (m : Memory) (b k : Nat) : DirSlot := judgeDir (m.bytes (131072 + 256 * b + 32 * k) 32)

/-- Slot `k` of bucket `b` lets the examination for `id` go on: a damaged slot, or a record of another meter ID. -/
def Memory.passesSlot (m : Memory) (id : Word) (b k : Nat) : Prop :=
  m.dirSlot b k = .damaged ∨ ∃ r : RouteRecord, m.dirSlot b k = .valid r ∧ r.meterId ≠ id

/-- The damaged slots among the first `k`. -/
def Memory.damagedBefore (m : Memory) (b k : Nat) : Nat :=
  (List.range k).countP (fun j => decide (m.dirSlot b j = .damaged))

theorem Memory.damagedBefore_succ (m : Memory) (b k : Nat) :
    m.damagedBefore b (k + 1) = m.damagedBefore b k + if m.dirSlot b k = .damaged then 1 else 0 := by
  simp [Memory.damagedBefore, List.range_succ, List.countP_append, List.countP_cons]

variable {m : Memory} {id : Word} {b : Nat}

/-- The slot that `examine` reads with `n` slots left after it. -/
theorem Memory.bytes_examined (m : Memory) (b n : Nat) :
    judgeDir (m.bytes (bucketAddr b + (8 - (n + 1)) * slotSize) slotSize) = m.dirSlot b (7 - n) := by
  unfold Memory.dirSlot
  congr 2
  simp only [bucketAddr, dirSector, sectorSize, slotSize]
  omega

theorem Memory.examine_erased {n : Nat} (h : m.dirSlot b (7 - n) = .erased) :
    m.examine id b (n + 1) = (some (.absent (7 - n)), 0) := by
  rw [Memory.examine]
  simp only [Memory.bytes_examined, h]
  rw [show 8 - (n + 1) = 7 - n by omega]

theorem Memory.examine_found {n : Nat} {r : RouteRecord} (h : m.dirSlot b (7 - n) = .valid r) (hid : r.meterId = id) :
    m.examine id b (n + 1) = (some (.found r), 0) := by
  rw [Memory.examine]
  simp only [Memory.bytes_examined, h, if_pos hid]

theorem Memory.examine_passes {n : Nat} (h : m.passesSlot id b (7 - n)) :
    m.examine id b (n + 1) =
      ((m.examine id b n).1, (m.examine id b n).2 + if m.dirSlot b (7 - n) = .damaged then 1 else 0) := by
  rw [Memory.examine]
  simp only [Memory.bytes_examined]
  rcases h with h | ⟨r, h, hid⟩
  · simp [h]
  · simp [h, hid]

/-- The first `k` slots passed, the examination is that of the rest, with the damaged ones counted. -/
theorem Memory.examine_after {k : Nat} (hk : k ≤ 8) (h : ∀ j, j < k → m.passesSlot id b j) :
    m.examine id b 8 = ((m.examine id b (8 - k)).1, (m.examine id b (8 - k)).2 + m.damagedBefore b k) := by
  induction k with
  | zero => rfl
  | succ k ih =>
    obtain ⟨n, hn⟩ : ∃ n, 8 - k = n + 1 := ⟨7 - k, by omega⟩
    have hslot : 7 - n = k := by omega
    rw [ih (by omega) (fun j hj => h j (by omega)), hn, Memory.examine_passes (hslot ▸ h k (by omega)), hslot,
      show 8 - (k + 1) = n by omega, Memory.damagedBefore_succ]
    simp only [Prod.mk.injEq, true_and]
    omega

/-- Settles O24: the slots before `k` passed (`examine_after`), slot `k` ends the examination, or none does. -/
theorem probeFollowsTheSlots : Obligations.ProbeFollowsTheSlots := by
  intro m id b
  have hrest (k : Nat) (hk : k < 8) : ∃ n, 8 - k = n + 1 ∧ 7 - n = k := ⟨7 - k, by omega, by omega⟩
  refine ⟨rfl, ?_, fun k hk herased hpass => ?_, fun k r hk hvalid hid hpass => ?_, fun hpass => ?_⟩
  · unfold homeBucket
    omega
  · obtain ⟨n, hn, hslot⟩ := hrest k hk
    rw [Memory.examine_after hk.le hpass, hn, Memory.examine_erased (hslot ▸ herased), hslot, Nat.zero_add]
    rfl
  · obtain ⟨n, hn, hslot⟩ := hrest k hk
    rw [Memory.examine_after hk.le hpass, hn, Memory.examine_found (hslot ▸ hvalid) hid, Nat.zero_add]
    rfl
  · rw [Memory.examine_after le_rfl hpass, Nat.sub_self, Memory.examine, Nat.zero_add]
    rfl

end Sys2Proof.Machine
end

section
/-! SUPPORT. The entry of earliest expiry. -/

namespace Sys2Proof.Machine

/-- How far an expiry stands above the start of the 10,000 ms before `now`. -/
def MergeEntry.lead (now : Word) (e : MergeEntry) : Nat := (e.expiry - now + 10000#32).toNat

/-- Within the bound, the cyclic order of expiries is the order of their leads. -/
theorem earlier_iff_lead {now : Word} {e f : MergeEntry} (he : e.lead now ≤ 20000) (hf : f.lead now ≤ 20000) :
    earlier e.expiry f.expiry = true ↔ e.lead now < f.lead now := by
  unfold MergeEntry.lead at *
  simp only [earlier, bne_iff_ne, Bool.and_eq_true, decide_eq_true_eq, ne_eq]
  bv_omega

theorem MergeEntry.lead_eq_of_expiry {now : Word} {e f : MergeEntry} (h : e.expiry = f.expiry) : e.lead now = f.lead now := by
  rw [MergeEntry.lead, MergeEntry.lead, h]

/-- Entry `i` is in use and accepted. -/
def Accepted (p : MergeEntry → Bool) (t : Vector (Option MergeEntry) 32) (i : Fin 32) (e : MergeEntry) : Prop :=
  t[i] = some e ∧ p e = true

/-- The choice so far, with entry `i` examined next. -/
def chooseEarlier (p : MergeEntry → Bool) (t : Vector (Option MergeEntry) 32) (best : Option (Fin 32)) (i : Fin 32) :
    Option (Fin 32) :=
  match t[i] with
  | some e =>
    if p e then
      match best with
      | none => some i
      | some b =>
        match t[b] with
        | some eb => if earlier e.expiry eb.expiry then some i else best
        | none => some i
    else best
  | none => best

theorem earliestEntry_eq (p : MergeEntry → Bool) (t : Vector (Option MergeEntry) 32) :
    earliestEntry p t = (List.finRange 32).foldl (chooseEarlier p t) none := rfl

section
variable {p : MergeEntry → Bool} {t : Vector (Option MergeEntry) 32} {i b : Fin 32} {e eb : MergeEntry}

theorem chooseEarlier_skip (h : ∀ e, ¬ Accepted p t i e) (best : Option (Fin 32)) : chooseEarlier p t best i = best := by
  unfold chooseEarlier
  split
  next e he => rw [if_neg fun hp => h e ⟨he, hp⟩]
  next => rfl

theorem chooseEarlier_first (h : Accepted p t i e) : chooseEarlier p t none i = some i := by
  simp only [chooseEarlier, h.1, if_pos h.2]

theorem chooseEarlier_next (h : Accepted p t i e) (hb : t[b] = some eb) :
    chooseEarlier p t (some b) i = if earlier e.expiry eb.expiry then some i else some b := by
  simp only [chooseEarlier, h.1, hb, if_pos h.2]

/-- `best` is the choice among the entries numbered in `l`: none is accepted, or it is the first of least lead. -/
def IsEarliest (p : MergeEntry → Bool) (t : Vector (Option MergeEntry) 32) (now : Word) (l : List (Fin 32)) :
    Option (Fin 32) → Prop
  | none => ∀ i ∈ l, ∀ e, ¬ Accepted p t i e
  | some b => b ∈ l ∧ ∃ eb, Accepted p t b eb ∧ ∀ j ∈ l, ∀ f, Accepted p t j f →
      eb.lead now ≤ f.lead now ∧ (f.expiry = eb.expiry → b ≤ j)

/-- The entry after those of `l`, examined. -/
theorem chooseEarlier_isEarliest {now : Word} {l : List (Fin 32)} {best : Option (Fin 32)}
    (hnear : ∀ (i : Fin 32) (e : MergeEntry), t[i] = some e → e.lead now ≤ 20000) (hafter : ∀ j ∈ l, j < i)
    (hbest : IsEarliest p t now l best) : IsEarliest p t now (l ++ [i]) (chooseEarlier p t best i) := by
  have hlast {P : Fin 32 → Prop} (hl : ∀ j ∈ l, P j) (hi : P i) : ∀ j ∈ l ++ [i], P j := by
    simpa [or_imp, forall_and] using ⟨hl, hi⟩
  by_cases hi : ∃ e, Accepted p t i e
  case neg =>
    have hnone (e) : ¬ Accepted p t i e := fun h => hi ⟨e, h⟩
    rw [chooseEarlier_skip hnone]
    cases best with
    | none => exact hlast hbest hnone
    | some b =>
      obtain ⟨hmem, eb, hacc, hleast⟩ := hbest
      exact ⟨by simp [hmem], eb, hacc, hlast hleast fun f hf => absurd hf (hnone f)⟩
  case pos =>
    obtain ⟨e, he⟩ := hi
    have hself (f) (hf : Accepted p t i f) : e = f := Option.some.inj (he.1.symm.trans hf.1)
    cases best with
    | none =>
      rw [chooseEarlier_first he]
      refine ⟨by simp, e, he, hlast (fun j hj f hf => absurd hf (hbest j hj f)) fun f hf => ?_⟩
      cases hself f hf
      exact ⟨le_rfl, fun _ => le_rfl⟩
    | some b =>
      obtain ⟨hmem, eb, hacc, hleast⟩ := hbest
      have hlead := earlier_iff_lead (hnear i e he.1) (hnear b eb hacc.1)
      rw [chooseEarlier_next he hacc.1]
      split
      next hearly =>
        have hlt := hlead.mp hearly
        refine ⟨by simp, e, he, hlast (fun j hj f hf => ?_) fun f hf => ?_⟩
        · have hle := (hleast j hj f hf).1
          refine ⟨by omega, fun heq => ?_⟩
          have := MergeEntry.lead_eq_of_expiry (now := now) heq
          omega
        · cases hself f hf
          exact ⟨le_rfl, fun _ => le_rfl⟩
      next hearly =>
        have hle : eb.lead now ≤ e.lead now := by
          by_contra hlt
          exact hearly (hlead.mpr (by omega))
        refine ⟨by simp [hmem], eb, hacc, hlast hleast fun f hf => ?_⟩
        cases hself f hf
        exact ⟨hle, fun _ => (hafter b hmem).le⟩

/-- The choice among the entries numbered in a rising list. -/
theorem foldl_chooseEarlier_isEarliest {now : Word}
    (hnear : ∀ (i : Fin 32) (e : MergeEntry), t[i] = some e → e.lead now ≤ 20000) (l : List (Fin 32))
    (hsorted : l.Pairwise (· < ·)) : IsEarliest p t now l (l.foldl (chooseEarlier p t) none) := by
  induction l using List.reverseRecOn with
  | nil => exact fun i hi => absurd hi (by simp)
  | append_singleton l i ih =>
    obtain ⟨hl, -, hafter⟩ := List.pairwise_append.mp hsorted
    rw [List.foldl_append, List.foldl_cons, List.foldl_nil]
    exact chooseEarlier_isEarliest hnear (fun j hj => hafter j hj i (by simp)) (ih hl)

end

/-- Settles O42: the choice is the first entry of least lead over `now` among all 32 (`foldl_chooseEarlier_isEarliest`). -/
theorem earliestEntryIsChosen : Obligations.EarliestEntryIsChosen := by
  intro p t now hnear
  have hchosen := foldl_chooseEarlier_isEarliest (p := p) hnear (List.finRange 32) (List.pairwise_lt_finRange 32)
  rw [← earliestEntry_eq] at hchosen
  generalize earliestEntry p t = best at hchosen
  refine ⟨⟨?_, fun hnone => ?_⟩, ?_⟩
  · rintro rfl i e he
    simpa [Accepted, he] using hchosen i (List.mem_finRange i) e
  · cases best with
    | none => rfl
    | some b =>
      obtain ⟨-, e, ⟨he, hp⟩, -⟩ := hchosen
      rw [hnone b e he] at hp
      cases hp
  · rintro i rfl
    obtain ⟨-, e, ⟨he, hp⟩, hleast⟩ := hchosen
    exact ⟨e, he, hp, fun j f hf hpf => hleast j (List.mem_finRange j) f ⟨hf, hpf⟩⟩

end Sys2Proof.Machine
end

section
/-! SUPPORT. UNREAD LIST: the entries reported and the continuation. -/

namespace Sys2Proof.Machine

/-- Where the list goes on: after its hundredth entry, if that is below the meter count. -/
def RouteManager.unreadNext (r : RouteManager) (segment start : Nat) : Option Nat :=
  (r.unread segment start)[99]?.bind fun p => if p.2 + 1 < r.meterCount then some (p.2 + 1) else none

theorem RouteManager.unreadReport_eq (r : RouteManager) (segment start : Nat) :
    r.unreadReport segment start =
      byteOf ((r.unread segment start).take 100).length
        :: ((r.unread segment start).take 100).flatMap (fun p => beBytes 4 p.1.meterId.toNat ++ beBytes 2 p.2)
          ++ optBytes 2 (r.unreadNext segment start) := by
  unfold RouteManager.unreadReport RouteManager.unreadNext
  dsimp only
  cases (r.unread segment start)[99]? <;> rfl

theorem RouteManager.unread_pairwise (r : RouteManager) (segment start : Nat) :
    (r.unread segment start).Pairwise (fun p q => p.2 < q.2) := by
  refine List.Pairwise.filter _ ?_
  have h : ((r.status.take r.meterCount).zipIdx.map Prod.snd).Pairwise (· < ·) := by
    rw [List.zipIdx_map_snd]
    exact List.pairwise_lt_range'
  exact List.pairwise_map.mp h

theorem RouteManager.mem_unread {r : RouteManager} {segment start i : Nat} {e : StatusEntry} :
    (e, i) ∈ r.unread segment start ↔ r.status[i]? = some e ∧ start ≤ i ∧ i < r.meterCount ∧ e.segment.val = segment
      ∧ (e.status = .unread ∨ e.status = .unstored) := by
  simp only [RouteManager.unread, List.mem_filter, List.mk_mem_zipIdx_iff_getElem?, List.getElem?_take,
    Bool.and_eq_true, Bool.or_eq_true, decide_eq_true_eq, beq_iff_eq]
  by_cases hi : i < r.meterCount
  · simp only [hi, if_true]
    tauto
  · simp [hi]

variable {α : Type} {f : α → Nat}

/-- In a list rising by `f`, an element is among the first `n + 1` exactly when element `n`, if there is one, is not
before it. -/
theorem mem_take_of_rising {l : List α} (h : l.Pairwise (fun p q => f p < f q)) {p : α} (hp : p ∈ l) (n : Nat) :
    p ∈ l.take (n + 1) ↔ ∀ q, l[n]? = some q → f p ≤ f q := by
  constructor
  · intro htake q hq
    obtain ⟨i, hi, rfl⟩ := List.getElem_of_mem htake
    obtain ⟨hn, rfl⟩ := List.getElem?_eq_some_iff.mp hq
    rw [List.getElem_take]
    have hin : i ≤ n := by simp at hi; omega
    rcases hin.lt_or_eq with hlt | rfl
    · exact (List.pairwise_iff_getElem.mp h i n (by omega) hn hlt).le
    · exact le_rfl
  · intro hlast
    obtain ⟨i, hi, rfl⟩ := List.getElem_of_mem hp
    suffices hin : i < n + 1 from List.mem_take_iff_getElem.mpr ⟨i, by omega, rfl⟩
    by_contra hin
    have hlt := List.pairwise_iff_getElem.mp h n i (by omega) hi (by omega)
    have hle := hlast l[n] (List.getElem?_eq_getElem (by omega))
    omega

theorem RouteManager.unreadNext_eq_some {r : RouteManager} {segment start n : Nat} :
    r.unreadNext segment start = some n ↔
      ∃ q, (r.unread segment start)[99]? = some q ∧ q.2 + 1 = n ∧ n < r.meterCount := by
  unfold RouteManager.unreadNext
  cases (r.unread segment start)[99]? with
  | none => simp
  | some q =>
    simp only [Option.bind_some, Option.ite_none_right_eq_some, Option.some.injEq, exists_eq_left']
    constructor
    · rintro ⟨h, rfl⟩
      exact ⟨rfl, h⟩
    · rintro ⟨rfl, h⟩
      exact ⟨h, rfl⟩

/-- The hundredth element is the last of the list of a hundred. -/
theorem getLast_take_hundred {β : Type} (l : List α) (g : α → β) (b : β) :
    ((l.take 100).length = 100 ∧ (l.take 100).getLast?.map g = some b) ↔ ∃ q, l[99]? = some q ∧ g q = b := by
  rw [List.getLast?_eq_getElem?, List.length_take, Option.map_eq_some_iff]
  constructor
  · rintro ⟨hlen, q, hq, rfl⟩
    rw [hlen, List.getElem?_take] at hq
    exact ⟨q, by simpa using hq, rfl⟩
  · rintro ⟨q, hq, rfl⟩
    obtain ⟨hlt, -⟩ := List.getElem?_eq_some_iff.mp hq
    have hlen : min 100 l.length = 100 := by omega
    refine ⟨hlen, q, ?_, rfl⟩
    rw [hlen, List.getElem?_take]
    simpa using hq

theorem RouteManager.unread_range {r : RouteManager} {segment start : Nat} {p : StatusEntry × Nat}
    (hp : p ∈ r.unread segment start) : p.2 < r.meterCount := (RouteManager.mem_unread.mp hp).2.2.1

/-- An entry still to be read is in the list exactly when it stands below the continuation. -/
theorem RouteManager.mem_unread_take {r : RouteManager} {segment start i : Nat} {e : StatusEntry}
    (h : (e, i) ∈ r.unread segment start) :
    (e, i) ∈ (r.unread segment start).take 100 ↔ ∀ n, r.unreadNext segment start = some n → i < n := by
  rw [mem_take_of_rising (r.unread_pairwise segment start) h 99]
  constructor
  · intro hle n hn
    obtain ⟨q, hq, rfl, -⟩ := RouteManager.unreadNext_eq_some.mp hn
    exact Nat.lt_succ_of_le (hle q hq)
  · intro hlt q hq
    have hi := RouteManager.unread_range h
    by_cases hnext : q.2 + 1 < r.meterCount
    · have := hlt _ (RouteManager.unreadNext_eq_some.mpr ⟨q, hq, rfl, hnext⟩)
      show i ≤ q.2
      omega
    · show i ≤ q.2
      have hi' : i < r.meterCount := hi
      omega

/-- UNREAD LIST accepted: the refusals and the report. -/
theorem exec_unreadList {tag a b c : Byte} {s : State} (h : s.accepts tag 0x38#8 [a, b, c]) :
    exec (.unreadList tag [a, b, c]) s =
      .next (if 16383 < b.toNat * 256 + c.toNat then s.replied tag 0x38#8 .badArg []
        else if s.progressReadable then s.replied tag 0x38#8 .ok (s.rm.unreadReport a.toNat (b.toNat * 256 + c.toNat))
        else s.replied tag 0x38#8 .badState []) := by
  have hruns : exec (.unreadList tag [a, b, c]) s = .next _ := h.runs rfl
  rw [hruns, numAt_two]
  rfl

/-- Settles O31: the list is the first hundred of the entries still to be read (`mem_unread`, `unread_pairwise`), and the
continuation bounds it (`mem_unread_take`). -/
theorem unreadListReportsInOrder : Obligations.UnreadListReportsInOrder := by
  intro tag a b c s haccepts start
  rw [exec_unreadList haccepts]
  refine ⟨fun hbig => ?_, fun hsmall hunreadable => ?_, fun hsmall hreadable => ?_⟩
  · rw [if_pos hbig]
  · rw [if_neg (by omega), if_neg (by rwa [State.progressReadable_iff])]
  · rw [if_neg (by omega), if_pos ((s.progressReadable_iff).mpr hreadable), RouteManager.unreadReport_eq]
    refine ⟨(s.rm.unread a.toNat start).take 100, s.rm.unreadNext a.toNat start, ?_, List.length_take_le _ _,
      (s.rm.unread_pairwise _ _).sublist (List.take_sublist _ _), fun p hp => ?_, fun n => ?_, fun i e he => ?_⟩
    · cases s.rm.unreadNext a.toNat start <;> rfl
    · exact (RouteManager.mem_unread.mp (List.mem_of_mem_take hp)).1
    · rw [RouteManager.unreadNext_eq_some, ← and_assoc, getLast_take_hundred]
      simp only [← and_assoc, exists_and_right]
    · constructor
      · intro hmem
        have hunread := List.mem_of_mem_take hmem
        obtain ⟨-, hstart, hcount, hsegment, hstatus⟩ := RouteManager.mem_unread.mp hunread
        exact ⟨hstart, hcount, (RouteManager.mem_unread_take hunread).mp hmem, hsegment, hstatus⟩
      · rintro ⟨hstart, hcount, hbelow, hsegment, hstatus⟩
        exact (RouteManager.mem_unread_take (RouteManager.mem_unread.mpr ⟨he, hstart, hcount, hsegment, hstatus⟩)).mpr hbelow

end Sys2Proof.Machine
end

section
/-! SUPPORT. The progress stage of a commit. -/

namespace Sys2Proof.Machine

theorem RouteManager.allDone_iff (r : RouteManager) :
    r.allDone = true ↔ ∀ i : Fin 256, r.segments[i].meters - r.segments[i].excluded = 0 ∨ r.segments[i].done = true := by
  simp only [RouteManager.allDone, List.all_eq_true, Bool.or_eq_true, beq_iff_eq, SegmentEntry.active,
    Vector.mem_toList_iff, Vector.mem_iff_getElem]
  constructor
  · intro h i
    exact h _ ⟨i.val, i.isLt, rfl⟩
  · rintro h g ⟨i, hi, rfl⟩
    exact h ⟨i, hi⟩

theorem State.queueCompletion_masked {route : Bool} {n : Notice} {s : State}
    (h : s.tl.mask.getLsbD (if route then 15 else 14) = false) : s.queueCompletion route n = s := by
  simp [State.queueCompletion, h]

theorem State.queueCompletion_room {route : Bool} {n : Notice} {s : State}
    (h : s.tl.mask.getLsbD (if route then 15 else 14) = true) (hroom : s.tl.notices.length < 16) :
    s.queueCompletion route n = { s with tl := { s.tl with notices := s.tl.notices ++ [n] } } := by
  rw [State.queueCompletion, if_pos h, State.queueNotice, noticeRoom, if_pos hroom]

theorem State.queueCompletion_full {route : Bool} {n : Notice} {s : State}
    (h : s.tl.mask.getLsbD (if route then 15 else 14) = true) (hfull : 16 ≤ s.tl.notices.length) :
    s.queueCompletion route n = ({ s with tl := { s.tl with overrun := true } }).bump .noticeDrop := by
  rw [State.queueCompletion, if_pos h, State.queueNotice, noticeRoom, if_neg (Nat.not_lt.mpr hfull)]

variable {seg : Fin 256} {before after : MeterStatus} {s : State}

/-- The segment's new entry reaches its active count now. -/
def SegmentEntry.Reaches (g : SegmentEntry) : Prop :=
  g.read = g.meters - g.excluded ∧ g.meters - g.excluded ≠ 0 ∧ g.done = false

theorem SegmentEntry.reaches_iff (g : SegmentEntry) :
    (g.read == g.active && g.active != 0 && !g.done) = true ↔ g.Reaches := by
  simp [SegmentEntry.Reaches, SegmentEntry.active, and_assoc]

theorem State.moveSegment_below (hne : before ≠ after) (h : ¬ (s.rm.segments[seg].move before after).Reaches) :
    s.moveSegment seg before after =
      { s with rm := { s.rm with segments := s.rm.segments.set seg (s.rm.segments[seg].move before after) } } := by
  rw [← SegmentEntry.reaches_iff] at h
  unfold State.moveSegment
  rw [if_neg hne, if_neg h]

theorem State.moveSegment_reaches (hne : before ≠ after) (h : (s.rm.segments[seg].move before after).Reaches) :
    s.moveSegment seg before after =
      (({ s with rm := { s.rm with
            segments := s.rm.segments.set seg { s.rm.segments[seg].move before after with done := true } } }).queueCompletion
        false (.completion false seg.val s.rm.segments[seg].meters s.rm.segments[seg].excluded
          (s.rm.segments[seg].move before after).read (s.rm.segments[seg].move before after).flagged)).routeCompletion := by
  rw [← SegmentEntry.reaches_iff] at h
  unfold State.moveSegment
  rw [if_neg hne, if_pos h]
  rfl

/-- Settles O32: the counts that each change of status moves, the segment done when they reach its active count, and the
route done when every active segment is. -/
theorem statusChangesMoveTheSegment : Obligations.StatusChangesMoveTheSegment := by
  refine ⟨fun route n s => ⟨State.queueCompletion_masked, State.queueCompletion_room, State.queueCompletion_full⟩,
    fun seg before after s => ?_⟩
  intro g move reached put t
  refine ⟨fun heq => if_pos heq, fun g' hne hg' hchange => ?_⟩
  have hmove : g' = s.rm.segments[seg].move before after := by
    subst hg'
    rcases hchange with ⟨rfl, rfl | rfl | rfl⟩ | ⟨rfl, rfl | rfl⟩ | ⟨rfl, rfl⟩ <;> rfl
  clear hg'
  subst hmove
  refine ⟨State.moveSegment_below hne, fun hreach => ?_⟩
  intro u all
  have ht : t = u.routeCompletion := State.moveSegment_reaches hne hreach
  have hdone : u.rm.routeDone = s.rm.routeDone ∧ u.rm.meterCount = s.rm.meterCount := by simp [u, put]
  have hcond : (u.rm.allDone && !u.rm.routeDone) = true ↔ all ∧ s.rm.routeDone = false := by
    rw [Bool.and_eq_true, RouteManager.allDone_iff, hdone.1, Bool.not_eq_true']
  rw [ht]
  unfold State.routeCompletion
  refine ⟨fun hno => ?_, fun hall hopen => ?_⟩
  · rw [if_neg (by rwa [hcond])]
  · rw [if_pos (hcond.mpr ⟨hall, hopen⟩), hdone.2]
    rfl

end Sys2Proof.Machine
end

section
/-! SUPPORT. Counters: each has a number of its own, and an event may count a notice lost. -/

namespace Sys2Proof.Machine

/-- The counters in the order of their numbers (R184). -/
def Counter.inOrder : List Counter :=
  (List.finRange 8).flatMap (fun c =>
      [.frames c, .crcErr c, .badCode c, .cut c, .badValue c, .reconf c, .slotOverflow c])
    ++ [.tpiGlitch, .replaySkip, .cacheHits, .cacheInserts, .walks, .walkFailed, .joinDrop, .stalls, .withheld,
      .foreignDrop, .dirCrc, .receptions, .forcedCommits, .readings, .repeats, .unstored, .journalAppends,
      .appendDiscard, .markPrograms, .reclaims, .eraseSuspends, .uploadFrames, .uploadRecords, .uploadRewinds,
      .ackStale, .linkBreaks, .linkFraming, .linkDiscard, .cmdOverrun, .replyLost, .noticeDrop, .liveDrop]

theorem Counter.inOrder_index (c : Counter) : Counter.inOrder[c.index.val]? = some c := by
  cases c
  case frames c | crcErr c | badCode c | cut c | badValue c | reconf c | slotOverflow c => revert c; decide
  all_goals rfl

theorem Counter.index_injective : Function.Injective Counter.index := fun c d h =>
  Option.some.inj ((Counter.inOrder_index c).symm.trans (h ▸ Counter.inOrder_index d))

variable {s : State}

theorem State.bump_count_other {c d : Counter} (h : c ≠ d) (s : State) (n : Nat) : (s.bump c n).count d = s.count d := by
  have hne : c.index.val ≠ d.index.val := fun heq => h (Counter.index_injective (Fin.ext heq))
  simp only [State.count, State.bump, Fin.getElem_fin]
  exact Vector.getElem_set_ne _ _ hne

theorem State.bump_count_same (c : Counter) (s : State) (n : Nat) :
    (s.bump c n).count c = capTo counterMax (s.count c + n) := by
  simp only [State.count, State.bump, Fin.getElem_fin, Vector.getElem_set_self]

theorem State.count_congr {t : State} (h : t.counters = s.counters) (c : Counter) : t.count c = s.count c := by
  rw [State.count, State.count, h]

theorem State.queueNotice_count {c : Counter} (h : c ≠ .noticeDrop) (n : Notice) (s : State) :
    (s.queueNotice n).count c = s.count c := by
  unfold State.queueNotice
  split
  · rfl
  · exact State.bump_count_other h.symm _ _

/-- An event counts nothing but a notice lost. -/
theorem State.raise_count {c : Counter} (h : c ≠ .noticeDrop) (e : Event) (d : Word) (s : State) :
    (s.raise e d).count c = s.count c := by
  unfold State.raise
  split
  · rfl
  · dsimp only
    split
    · exact State.queueNotice_count h _ _
    · rfl

end Sys2Proof.Machine
end

section
/-! SUPPORT. The arbiter: the request it serves, and the requests that wait through the close of a step. -/

namespace Sys2Proof.Machine

variable {s : State}

/-! ### The request served -/

theorem bestRequest_of_mem {l : List StoreReq} (h : l ≠ []) : ∃ r ∈ l, bestRequest l = some r := by
  induction l with
  | nil => exact absurd rfl h
  | cons r rs ih =>
    rw [bestRequest]
    split
    next q hq =>
      have hmem : q ∈ rs := by
        by_cases hrs : rs = []
        · subst hrs; cases hq
        · obtain ⟨p, hp, hbest⟩ := ih hrs
          rw [hbest] at hq
          cases hq
          exact hp
      split
      · exact ⟨q, by simp [hmem], rfl⟩
      · exact ⟨r, by simp, rfl⟩
    next => exact ⟨r, by simp, rfl⟩

/-- The first request of the lowest class. -/
theorem bestRequest_eq {pre post : List StoreReq} {r : StoreReq} (hpre : ∀ q ∈ pre, r.client.cls < q.client.cls)
    (hpost : ∀ q ∈ post, r.client.cls ≤ q.client.cls) : bestRequest (pre ++ r :: post) = some r := by
  induction pre with
  | nil =>
    rw [List.nil_append, bestRequest]
    by_cases hp : post = []
    · subst hp; rfl
    · obtain ⟨q, hq, hbest⟩ := bestRequest_of_mem hp
      simp only [hbest, if_neg (Nat.not_lt.mpr (hpost q hq))]
  | cons p pre ih =>
    rw [List.cons_append, bestRequest, ih fun q hq => hpre q (by simp [hq])]
    exact if_pos (hpre p (by simp))

theorem lookupRequest_eq_none {l : List StoreReq} (h : ∀ q ∈ l, q.client.cls ≠ 1) : lookupRequest l = none := by
  simpa [lookupRequest] using h

/-- The first request of class 1. -/
theorem lookupRequest_eq {pre post : List StoreReq} {r : StoreReq} (hr : r.client.cls = 1)
    (hpre : ∀ q ∈ pre, q.client.cls ≠ 1) : lookupRequest (pre ++ r :: post) = some r := by
  rw [lookupRequest, List.find?_eq_some_iff_append]
  exact ⟨by simpa using hr, pre, post, rfl, by simpa using hpre⟩

/-- The request served leaves its place in the queue. -/
theorem State.beginOp_eq {pre post : List StoreReq} {r : StoreReq} (h : s.port.waiting = pre ++ r :: post)
    (hr : r ∉ pre) : s.beginOp r = { s with port := { s.port with
      waiting := pre ++ post, active := some ⟨r.client, r.op, s.tb.runClock, 0⟩ } } := by
  rw [State.beginOp, h, List.erase_append_right _ hr, List.erase_cons_head]

theorem State.holdsCode_iff (code : Byte) (s : State) :
    s.holdsCode code = true ↔ ∃ l : LongOp, s.tl.longOp = some l ∧ l.code = code := by
  cases h : s.tl.longOp <;> simp [State.holdsCode, h]

/-- The row that ends the erase's requester is the next command. -/
theorem State.eraseOver_iff (a : ActiveOp) (s : State) : s.eraseOver a = true ↔
    (a.client = .reclaim ∧ s.pending.head? = some .reclaimEraseDone) ∨
    (a.client = .opening ∧ s.pending.head? = some .journalSectorOpened) ∨
    (a.client = .longOp ∧ ∃ l : LongOp, s.tl.longOp = some l ∧
      (l.code = 0x70#8 ∧ s.pending.head? = some .configSaveDone ∨
        l.code = 0x72#8 ∧ s.pending.head? = some .journalEraseDone)) := by
  unfold State.eraseOver
  split
  next hc hp => simp [hc, hp]
  next hc hp => simp [hc, hp]
  next hc hp => simp [hc, hp, State.holdsCode_iff]
  next hc hp => simp [hc, hp, State.holdsCode_iff]
  next h1 h2 h3 h4 =>
    simp only [Bool.false_eq_true, false_iff, not_or, not_and, not_exists]
    exact ⟨h1, h2, fun hc l _ => ⟨fun _ => h3 hc, fun _ => h4 hc⟩⟩

/-! ### A request of class 1 through the close of a step -/

/-- `r` is the first request of class 1, and the port is free: it is served next. -/
def State.ServesNext (r : StoreReq) (s : State) : Prop :=
  s.port.active = none ∧ s.port.suspended = none ∧ r.client.cls = 1
    ∧ ∃ pre post, s.port.waiting = pre ++ r :: post ∧ ∀ q ∈ pre, q.client.cls ≠ 1

variable {r : StoreReq}

theorem State.ServesNext.of_port {t : State} (h : s.ServesNext r) (hp : t.port = s.port) : t.ServesNext r := by
  rw [State.ServesNext, hp]
  exact h

theorem State.ServesNext.request (h : s.ServesNext r) (c : Client) (op : StoreOp) : (s.request c op).ServesNext r := by
  obtain ⟨hact, hsus, hr, pre, post, hwait, hpre⟩ := h
  unfold State.request
  split
  · split
    case h_1 => exact State.ServesNext.of_port ⟨hact, hsus, hr, pre, post, hwait, hpre⟩ (State.failWalk_port _ _)
    all_goals exact ⟨hact, hsus, hr, pre, post, hwait, hpre⟩
  · exact ⟨hact, hsus, hr, pre, post ++ [⟨c, op⟩], by simp [hwait], hpre⟩

theorem State.ServesNext.dropUploadRead (h : s.ServesNext r) : s.dropUploadRead.ServesNext r := by
  obtain ⟨hact, hsus, hr, pre, post, hwait, hpre⟩ := h
  have hkept : (r.client != .upload) = true := by
    rw [bne_iff_ne]
    rintro hc
    rw [hc] at hr
    cases hr
  refine ⟨by simp [State.dropUploadRead, hact], hsus, hr, pre.filter (fun q => q.client != .upload),
    post.filter (fun q => q.client != .upload), ?_, fun q hq => hpre q (List.mem_of_mem_filter hq)⟩
  simp only [State.dropUploadRead, hwait, List.filter_append, List.filter_cons, hkept, if_true]

theorem State.ServesNext.testReclaim (h : s.ServesNext r) : s.testReclaim.ServesNext r := by
  unfold State.testReclaim
  split
  · exact h.request _ _
  · exact h

theorem State.ServesNext.wantAppend (h : s.ServesNext r) : s.wantAppend.ServesNext r := by
  unfold State.wantAppend
  split
  case isFalse => exact h
  split
  case h_1 => exact h
  split
  · split
    · exact h
    · exact h.request _ _
  · split
    · exact h.request _ _
    · exact h

theorem State.ServesNext.failUploadRead (h : s.ServesNext r) : s.failUploadRead.ServesNext r := by
  refine (h.of_port (State.putBack_port s)).dropUploadRead.of_port ?_
  unfold State.failUploadRead State.stallUpload State.rewindUpload
  rw [State.raise_port, State.setUpload_port, State.rewindPointer_eq]
  rfl

theorem State.ServesNext.want (h : s.ServesNext r) : s.want.ServesNext r := by
  have hbegun : s.beginErase.ServesNext r := by
    refine State.beginErase_cases (fun t => t.ServesNext r) h (h.of_port (by simp)) fun l w op _ _ _ _ => ?_
    refine State.ServesNext.request ?_ _ _
    exact h.of_port rfl
  have happend := hbegun.wantAppend
  have hmark : s.beginErase.wantAppend.wantMark.ServesNext r := by
    unfold State.wantMark
    split
    · exact happend.request _ _
    · exact happend
  unfold State.want State.wantUpload
  split
  case isFalse => exact hmark
  split
  · exact hmark.failUploadRead
  · exact hmark.request _ _

theorem Client.cls_pos (c : Client) : 1 ≤ c.cls := by cases c <;> simp [Client.cls]

/-- A request of class 1 at a free port is served, with no suspension counted. -/
theorem State.ServesNext.grant (h : s.ServesNext r) :
    s.grant.port.active = some ⟨r.client, r.op, s.tb.runClock, 0⟩ ∧ s.grant.port.suspended = none
      ∧ s.grant.counters = s.counters := by
  obtain ⟨hact, hsus, hr, pre, post, hwait, hpre⟩ := h
  have hbest : bestRequest s.port.waiting = some r := by
    rw [hwait]
    refine bestRequest_eq (fun q hq => ?_) fun q _ => hr ▸ q.client.cls_pos
    have := q.client.cls_pos
    have := hpre q hq
    omega
  have hserved : s.grant = s.beginOp r := by
    unfold State.grant
    rw [hact, hsus]
    simp only [hbest]
  rw [hserved]
  exact ⟨rfl, hsus, rfl⟩

theorem State.failUploadRead_count {c : Counter} (h : c ≠ .noticeDrop) (s : State) :
    s.failUploadRead.count c = s.count c := by
  unfold State.failUploadRead State.stallUpload State.rewindUpload
  rw [State.raise_count h, State.rewindPointer_eq]
  exact State.count_congr (State.stopGathering_counters s) c

theorem State.want_count {c : Counter} (h : c ≠ .noticeDrop) (s : State) : s.want.count c = s.count c := by
  have hmark : s.beginErase.wantAppend.wantMark.counters = s.counters := by simp
  unfold State.want State.wantUpload
  split
  case isFalse => exact State.count_congr hmark c
  split
  · exact (State.failUploadRead_count h _).trans (State.count_congr hmark c)
  · exact State.count_congr ((State.request_counters _ _ _).trans hmark) c

/-- The end of a reclaim erase with a request of class 1 waiting. -/
theorem exec_reclaimEraseDone_serves {since : Word} {spent sec : Nat} {pre post : List StoreReq}
    (hpow : s.powered = true) (hact : s.port.active = some ⟨.reclaim, .erase sec, since, spent⟩)
    (hwait : s.port.waiting = pre ++ r :: post) (hr : r.client.cls = 1) (hpre : ∀ q ∈ pre, q.client.cls ≠ 1)
    (hsus : s.port.suspended = none) :
    ∃ t : State, exec .reclaimEraseDone s = .next t ∧ t.port.active = some ⟨r.client, r.op, s.tb.runClock, 0⟩
      ∧ t.port.suspended = none ∧ t.count .eraseSuspends = s.count .eraseSuspends
      ∧ t.store = s.store.clear (sec * 65536) 65536 := by
  have hsettled : s.settled = s := State.settled_eq (by simp [State.advance?, hact])
  have hflight : s.inFlight = some .reclaim := by simp [State.inFlight, hact]
  have hended : s.endOp = { s with store := s.store.clear (sec * 65536) 65536, port := { s.port with active := none } } := by
    simp [State.endOp, hact, StoreOp.apply, sectorSize]
  have hexec : exec .reclaimEraseDone s = .next s.endOp.reclaimDone.pump := by
    show live s (if s.settled.inFlight = some .reclaim then s.settled.endOp.reclaimDone.pump else s) = _
    rw [hsettled, if_pos hflight, live_powered hpow]
  have hnext : s.endOp.reclaimDone.want.ServesNext r := by
    refine State.ServesNext.want (State.ServesNext.testReclaim ?_)
    rw [hended]
    exact ⟨rfl, hsus, hr, pre, post, hwait, hpre⟩
  obtain ⟨hserved, hnone, hcounters⟩ := hnext.grant
  have hclock : s.endOp.reclaimDone.want.tb = s.tb := by simp [State.want, State.reclaimDone]
  refine ⟨_, hexec, ?_, hnone, ?_, ?_⟩
  · rw [← hclock]
    exact hserved
  · calc s.endOp.reclaimDone.pump.count .eraseSuspends
        = s.endOp.reclaimDone.want.count .eraseSuspends := State.count_congr hcounters _
      _ = s.endOp.reclaimDone.count .eraseSuspends := State.want_count (by decide) _
      _ = s.count .eraseSuspends := by
          rw [State.reclaimDone, State.count_congr (State.testReclaim_counters _), State.bump_count_other (by decide)]
          exact State.count_congr (by simp) _
  · rw [State.pump_store]
    simp only [State.reclaimDone, State.testReclaim_store, State.bump_store, State.setJournal_store]
    rw [hended]

/-- Settles O50: `grant` branch by branch, the request served being the first of its class. -/
theorem arbiterServesByClass : Obligations.ArbiterServesByClass := by
  intro s serving firstOfClass1 none1 endNext
  have hfirst {pre : List StoreReq} {r : StoreReq} (h : firstOfClass1 pre r) : r ∉ pre := fun hr => h.2 r hr h.1
  refine ⟨fun hact hsus => ⟨fun hwait => ?_, fun pre post r hwait hpre hpost => ?_⟩, fun a hact => ?_,
    fun e hact hsus => ⟨fun hnone => ?_, fun pre post r hwait hf => ?_⟩,
    fun since spent sec pre post r hpow hact hwait hf hsus =>
      exec_reclaimEraseDone_serves hpow hact hwait hf.1 hf.2 hsus, rfl, fun c => ?_⟩
  · simp [State.grant, hact, hsus, hwait, bestRequest]
  · have hbegun := State.beginOp_eq hwait fun hr => absurd (hpre r hr) (Nat.lt_irrefl _)
    simp only [State.grant, hact, hsus]
    rw [hwait, bestRequest_eq hpre hpost]
    exact hbegun.trans (by simp only [serving, hsus])
  · refine ⟨fun hidle => ?_, fun herase hsus hend => ?_, fun herase hsus hend pre post r hwait hf => ?_⟩
    · unfold State.grant
      rw [hact]
      cases hsus : s.port.suspended with
      | some _ => rfl
      | none =>
        rcases hidle with hop | hsome | hnone
        · simp [hop]
        · exact absurd hsus hsome
        · simp [lookupRequest_eq_none hnone]
    · have hover := (State.eraseOver_iff a s).mpr hend
      simp only [State.grant, hact, hsus, herase, if_true, hover]
      split <;> rfl
    · have hover : s.eraseOver a = false := by
        rw [← Bool.not_eq_true, State.eraseOver_iff]
        exact hend
      have hlookup : lookupRequest s.port.waiting = some r := hwait ▸ lookupRequest_eq hf.1 hf.2
      simp only [State.grant, hact, hsus, herase, if_true, hover, hlookup]
      exact congrArg (State.bump .eraseSuspends) (State.beginOp_eq hwait (hfirst hf))
  · simp only [State.grant, hact, hsus, lookupRequest_eq_none hnone]
  · simp only [State.grant, hact, hsus]
    rw [hwait, lookupRequest_eq hf.1 hf.2]
    exact (State.beginOp_eq hwait (hfirst hf)).trans (by simp only [serving, hsus])
  · cases c <;> rfl

end Sys2Proof.Machine
end

section
/-! SUPPORT. Deciding a frame (R63 to R70): the table entries it looks for, and the branch each of them leads to. -/

namespace Sys2Proof.Machine

variable {s : State} {id : Word} {fr : FrameRecord}

/-! ### The entries looked for -/

/-- A meter ID lies in range entry `n`, whose mode is `mode`. -/
def State.InRange (s : State) (id : Word) (n : Fin 8) (mode : RangeMode) : Prop :=
  s.cl.ranges[n].valid = true ∧ s.cl.ranges[n].mode = mode
    ∧ id.toNat / 2 ^ s.cl.ranges[n].k * 2 ^ s.cl.ranges[n].k = s.cl.ranges[n].base.toNat

theorem State.inRange_iff {n : Fin 8} {mode : RangeMode} :
    s.InRange id n mode ↔ (s.cl.ranges[n].mode == mode && s.cl.ranges[n].holds id) = true := by
  simp only [State.InRange, RangeEntry.holds, Bool.and_eq_true, beq_iff_eq]
  tauto

theorem State.inRange_either_iff {n : Fin 8} :
    s.InRange id n .direct ∨ s.InRange id n .fallback ↔ (true && s.cl.ranges[n].holds id) = true := by
  simp only [State.InRange, RangeEntry.holds, Bool.and_eq_true, beq_iff_eq, true_and]
  cases s.cl.ranges[n].mode <;> simp

/-- The first range entry that the ID lies in, of those `p` accepts. -/
theorem State.rangeOfId_first {p : RangeEntry → Bool} {P : Fin 8 → Prop} {n : Fin 8}
    (hP : ∀ m : Fin 8, P m ↔ (p s.cl.ranges[m] && s.cl.ranges[m].holds id) = true) (hn : P n)
    (hfirst : ∀ m : Fin 8, m < n → ¬ P m) : s.rangeOfId p id = some n :=
  tableFind_eq_some_iff.mpr ⟨(hP n).mp hn, fun m hm => Bool.eq_false_iff.mpr fun h => hfirst m hm ((hP m).mpr h)⟩

theorem State.rangeOfId_none {p : RangeEntry → Bool} {P : Fin 8 → Prop}
    (hP : ∀ m : Fin 8, P m ↔ (p s.cl.ranges[m] && s.cl.ranges[m].holds id) = true) (hnone : ∀ m : Fin 8, ¬ P m) :
    s.rangeOfId p id = none :=
  tableFind_eq_none_iff.mpr fun m => Bool.eq_false_iff.mpr fun h => hnone m ((hP m).mpr h)

theorem State.cached_first {i : Fin 64} {e : CacheEntry} (he : s.cl.cache[i] = some e) (hid : e.meterId = id)
    (hfirst : ∀ j : Fin 64, ∀ e' : CacheEntry, s.cl.cache[j] = some e' → e'.meterId = id → i ≤ j) :
    s.cached id = some i := by
  refine tableFind_eq_some_iff.mpr ⟨by simp [he, hid], fun j hj => ?_⟩
  cases hcache : s.cl.cache[j] with
  | none => rfl
  | some e' =>
    rw [beq_eq_false_iff_ne]
    intro h
    exact absurd (hfirst j e' hcache h) (Fin.not_le.mpr hj)

theorem State.cached_none (h : ∀ (i : Fin 64) (e : CacheEntry), s.cl.cache[i] = some e → e.meterId ≠ id) :
    s.cached id = none := by
  refine tableFind_eq_none_iff.mpr fun i => ?_
  cases hcache : s.cl.cache[i] with
  | none => rfl
  | some e => exact beq_eq_false_iff_ne.mpr (h i e hcache)

theorem State.walkOf_first {w : Fin 4} {k : Walk} (hk : s.cl.walks[w] = some k) (hid : k.meterId = id)
    (hfirst : ∀ v : Fin 4, v < w → ∀ k', s.cl.walks[v] = some k' → k'.meterId ≠ id) : s.walkOf id = some w := by
  refine tableFind_eq_some_iff.mpr ⟨by simp [hk, hid], fun v hv => ?_⟩
  cases hwalk : s.cl.walks[v] with
  | none => rfl
  | some k' => exact beq_eq_false_iff_ne.mpr (hfirst v hv k' hwalk)

theorem State.walkOf_none (h : ∀ (w : Fin 4) (k : Walk), s.cl.walks[w] = some k → k.meterId ≠ id) :
    s.walkOf id = none := by
  refine tableFind_eq_none_iff.mpr fun w => ?_
  cases hwalk : s.cl.walks[w] with
  | none => rfl
  | some k => exact beq_eq_false_iff_ne.mpr (h w k hwalk)

/-- The lowest-numbered free entry of a table. -/
theorem tableFind_isNone_first {α : Type} {n : Nat} {v : Vector (Option α) n} {i : Fin n} (hi : v[i] = none)
    (hfirst : ∀ j : Fin n, j < i → v[j] ≠ none) : tableFind Option.isNone v = some i :=
  tableFind_eq_some_iff.mpr ⟨by simp [hi], fun j hj => by simpa using Option.ne_none_iff_isSome.mp (hfirst j hj)⟩

theorem tableFind_isNone_none {α : Type} {n : Nat} {v : Vector (Option α) n} (h : ∀ i : Fin n, v[i] ≠ none) :
    tableFind Option.isNone v = none :=
  tableFind_eq_none_iff.mpr fun i => by simpa using Option.ne_none_iff_isSome.mp (h i)

/-! ### The branches -/

theorem State.excludedAt_iff (i : Nat) :
    s.excludedAt i = false ↔ ∀ e, s.rm.status[i]? = some e → e.status ≠ .excluded := by
  unfold State.excludedAt
  cases s.rm.status[i]? <;> simp

theorem State.withholds_route (i : Nat) (a : RouteAttrs) : s.withholds (.route i a) = true ↔
    ¬ (s.cl.utilities.getLsbD a.utility = true ∧ ∀ e, s.rm.status[i]? = some e → e.status ≠ .excluded) := by
  rw [← State.excludedAt_iff, State.withholds]
  simp [imp_iff_not_or]

theorem State.withholds_range (n : Fin 8) (a : RangeAttrs) :
    s.withholds (.range n a) = !s.cl.utilities.getLsbD a.utility := rfl

theorem State.handOn_route (i : Nat) (a : RouteAttrs) : s.handOn fr (.route i a) =
    if s.cl.utilities.getLsbD a.utility = true ∧ (∀ e, s.rm.status[i]? = some e → e.status ≠ .excluded) then
      s.receive fr (.route i a) false
    else s.bump .withheld := by
  unfold State.handOn
  split
  next h => rw [if_neg ((State.withholds_route i a).mp h)]
  next h => rw [if_pos (not_not.mp (mt (State.withholds_route i a).mpr h))]

theorem State.handOn_range (n : Fin 8) (a : RangeAttrs) : s.handOn fr (.range n a) =
    if s.cl.utilities.getLsbD a.utility then s.receive fr (.range n a) false else s.bump .withheld := by
  rw [State.handOn, State.withholds_range]
  cases s.cl.utilities.getLsbD a.utility <;> rfl

theorem State.fallbackFrame_range {n : Fin 8} (hn : s.InRange fr.meterId n .fallback)
    (hfirst : ∀ m : Fin 8, m < n → ¬ s.InRange fr.meterId m .fallback) :
    s.fallbackFrame fr = s.handOn fr (s.rangeSource n) := by
  have hfound : s.rangeOfId (·.mode == .fallback) fr.meterId = some n :=
    State.rangeOfId_first (fun _ => State.inRange_iff) hn hfirst
  simp only [State.fallbackFrame, hfound]

theorem State.fallbackFrame_foreign (h : ∀ n : Fin 8, ¬ s.InRange fr.meterId n .fallback) :
    s.fallbackFrame fr = s.foreignFrame fr false := by
  have hnone : s.rangeOfId (·.mode == .fallback) fr.meterId = none := State.rangeOfId_none (fun _ => State.inRange_iff) h
  simp only [State.fallbackFrame, hnone]

theorem State.lookupFrame_route {i : Fin 64} {e : CacheEntry} {n : Nat} {a : RouteAttrs}
    (hi : s.cached fr.meterId = some i) (he : s.cl.cache[i] = some e) (hkind : e.kind = .route n a) :
    s.lookupFrame fr = (s.cacheHit i e).handOn fr (.route n a) := by
  simp only [State.lookupFrame, hi, he, hkind]

theorem State.lookupFrame_foreign {i : Fin 64} {e : CacheEntry} (hi : s.cached fr.meterId = some i)
    (he : s.cl.cache[i] = some e) (hkind : e.kind = .foreign) :
    s.lookupFrame fr = (s.cacheHit i e).fallbackFrame fr := by
  simp only [State.lookupFrame, hi, he, hkind]

theorem State.lookupFrame_miss (h : s.cached fr.meterId = none) : s.lookupFrame fr = s.seekFrame fr := by
  simp only [State.lookupFrame, h]

theorem State.seekFrame_joins {w : Fin 4} {k : Walk} {b : Fin 16} (hw : s.walkOf fr.meterId = some w)
    (hk : s.cl.walks[w] = some k) (hb : s.freeBuffer = some b) (hroom : k.waiting.length < 8) :
    s.seekFrame fr = { s with cl := { s.cl with
      pool := s.cl.pool.set b (some fr), walks := s.cl.walks.set w (some { k with waiting := k.waiting ++ [b] }) } } := by
  simp only [State.seekFrame, hw, State.joinWalk, hk, hb, if_pos hroom]
  rfl

theorem State.seekFrame_joinDrop {w : Fin 4} {k : Walk} (hw : s.walkOf fr.meterId = some w)
    (hk : s.cl.walks[w] = some k) (hfull : 8 ≤ k.waiting.length ∨ s.freeBuffer = none) :
    s.seekFrame fr = s.bump .joinDrop := by
  simp only [State.seekFrame, hw, State.joinWalk, hk]
  cases hb : s.freeBuffer with
  | none => rfl
  | some b =>
    rcases hfull with hlen | hnone
    · exact if_neg (Nat.not_lt.mpr hlen)
    · rw [hb] at hnone
      cases hnone

theorem State.seekFrame_starts {w : Fin 4} {b : Fin 16} (hnew : s.walkOf fr.meterId = none)
    (hw : tableFind Option.isNone s.cl.walks = some w) (hb : s.freeBuffer = some b) :
    s.seekFrame fr = s.startWalk w b fr := by
  simp only [State.seekFrame, hnew, hw, hb]

theorem State.seekFrame_stalls (hnew : s.walkOf fr.meterId = none)
    (h : tableFind Option.isNone s.cl.walks = none ∨ s.freeBuffer = none) : s.seekFrame fr = s.stall fr := by
  simp only [State.seekFrame, hnew]
  split
  next hw hb => simp [hw, hb] at h
  next => rfl

theorem State.classify_closed_range {n : Fin 8} (hstate : s.rm.state ≠ .opened)
    (h : s.rangeOfId (fun _ => true) fr.meterId = some n) : s.classify fr = s.handOn fr (s.rangeSource n) := by
  simp only [State.classify, if_neg hstate, h]

theorem State.classify_closed_foreign (hstate : s.rm.state ≠ .opened)
    (h : s.rangeOfId (fun _ => true) fr.meterId = none) : s.classify fr = s.foreignFrame fr false := by
  simp only [State.classify, if_neg hstate, h]

theorem State.classify_open_range {n : Fin 8} (hstate : s.rm.state = .opened)
    (h : s.rangeOfId (·.mode == .direct) fr.meterId = some n) : s.classify fr = s.handOn fr (s.rangeSource n) := by
  simp only [State.classify, if_pos hstate, h]

theorem State.classify_open_lookup (hstate : s.rm.state = .opened)
    (h : s.rangeOfId (·.mode == .direct) fr.meterId = none) : s.classify fr = s.lookupFrame fr := by
  simp only [State.classify, if_pos hstate, h]

/-- Settles O35: each branch of the decision is reached by the entries that are there (`rangeOfId_first`, `cached_first`,
`walkOf_first` and their opposites). -/
theorem classifierDecidesByTheFirstThatApplies : Obligations.ClassifierDecidesByTheFirstThatApplies := by
  intro fr s id inRange attrs handed foreign
  refine ⟨fun hclosed => ⟨fun n hn hfirst => ?_, fun hnone => ?_⟩, fun hopen => ⟨fun n hn hfirst => ?_, fun hnone => ?_⟩,
    fun n a => State.handOn_range n a, fun i a => State.handOn_route i a⟩
  · exact State.classify_closed_range hclosed (State.rangeOfId_first (fun _ => State.inRange_either_iff) hn hfirst)
  · exact State.classify_closed_foreign hclosed (State.rangeOfId_none (fun _ => State.inRange_either_iff) hnone)
  · exact State.classify_open_range hopen (State.rangeOfId_first (fun _ => State.inRange_iff) hn hfirst)
  · rw [State.classify_open_lookup hopen (State.rangeOfId_none (fun _ => State.inRange_iff) hnone)]
    refine ⟨fun i e he hid hfirst => ?_, fun habsent => ?_⟩
    · have hi := State.cached_first he hid hfirst
      refine ⟨fun n a hkind => State.lookupFrame_route hi he hkind, fun hkind => ?_⟩
      rw [State.lookupFrame_foreign hi he hkind]
      exact ⟨fun n hn hfirst => State.fallbackFrame_range hn hfirst, fun hno => State.fallbackFrame_foreign hno⟩
    · rw [State.lookupFrame_miss (State.cached_none habsent)]
      refine ⟨fun w k hk hid hfirst => ?_, fun hnew => ?_⟩
      · have hw := State.walkOf_first hk hid hfirst
        refine ⟨fun b hb hbuffer hroom => State.seekFrame_joins hw hk (tableFind_isNone_first hb hbuffer) hroom,
          fun hfull => State.seekFrame_joinDrop hw hk (hfull.imp_right fun h => tableFind_isNone_none h)⟩
      · have hno := State.walkOf_none hnew
        refine ⟨fun w b hw hwalks hb hbuffer => ?_, fun hfull => State.seekFrame_stalls hno
          (hfull.imp (fun h => tableFind_isNone_none h) fun h => tableFind_isNone_none h)⟩
        exact State.seekFrame_starts hno (tableFind_isNone_first hw hwalks) (tableFind_isNone_first hb hbuffer)

end Sys2Proof.Machine
end

section
/-! SUPPORT. A commit, stage by stage (R97 to R106), and the live queue (R181). -/

namespace Sys2Proof.Machine

variable {s : State} {e : MergeEntry} {o : ScreenOut} {flush : Bool} {i : Fin 32}

/-! ### Flags, kinds and the repeat test -/

theorem alarmBits_eq (f : BitVec 16) : alarmBits f = decide (f &&& 0x003F#16 ≠ 0#16) := by
  rw [decide_not]
  rfl

theorem alarmBits_iff (f : BitVec 16) : alarmBits f = true ↔ f &&& 0x003F#16 ≠ 0#16 := by simp [alarmBits_eq]

theorem MeterStatus.counts_iff (st : MeterStatus) : st.counts = true ↔ st = .read ∨ st = .flagged := by
  cases st <;> simp [MeterStatus.counts]

/-- The source is a ROUTE whose status entry is `st`, READ or FLAGGED. -/
def State.Reread (s : State) (e : MergeEntry) (st : StatusEntry) : Prop :=
  s.statusOf e.source = some st ∧ (st.status = .read ∨ st.status = .flagged)

theorem State.statusOf_route {n : Nat} {a : RouteAttrs} (h : e.source = .route n a) :
    s.statusOf e.source = s.rm.status[n]? := by rw [h]; rfl

theorem State.statusOf_eq_some {st : StatusEntry} :
    s.statusOf e.source = some st ↔ ∃ n a, e.source = .route n a ∧ s.rm.status[n]? = some st := by
  cases hsrc : e.source <;> simp [State.statusOf]

theorem State.statusOf_eq_none :
    s.statusOf e.source = none ↔ ∀ n a, e.source = .route n a → s.rm.status[n]? = none := by
  cases hsrc : e.source <;> simp [State.statusOf]

/-- The provisional kind is REREAD for a ROUTE source with an entry READ or FLAGGED alone. -/
theorem State.provisional_reread_iff : s.provisional e.source = .reread ↔ ∃ st, s.Reread e st := by
  unfold State.Reread State.provisional
  cases hsrc : e.source with
  | route n a =>
    cases hst : s.statusOf (.route n a) with
    | none => simp
    | some st =>
      simp only [Option.some.injEq, exists_eq_left', ← MeterStatus.counts_iff]
      cases st.status.counts <;> simp
  | range n a => simp [State.statusOf]
  | foreign => simp [State.statusOf]

theorem State.provisional_route_new {n : Nat} {a : RouteAttrs} (hsrc : e.source = .route n a)
    (h : ¬ ∃ st, s.Reread e st) : s.provisional e.source = .new := by
  rw [← State.provisional_reread_iff] at h
  rw [hsrc] at h ⊢
  unfold State.provisional at h ⊢
  dsimp only at h ⊢
  split
  next hst =>
    simp only [hst] at h
    exact if_neg fun hc => h (if_pos hc)
  next => rfl

/-- The repeat test holds (R100). -/
def State.Repeats (s : State) (e : MergeEntry) (alarm : Bool) : Prop :=
  ∃ st last, s.Reread e st ∧ st.lastCommit = some last ∧ (s.tb.runSeconds - last).toNat < s.mc.quiet
    ∧ (alarm = false ∨ st.status = .flagged)

theorem State.isRepeat_iff {flags : BitVec 16} : s.isRepeat e flags = true ↔ s.Repeats e (alarmBits flags) := by
  unfold State.isRepeat State.Repeats
  by_cases hread : ∃ st, s.Reread e st
  · have hkind := State.provisional_reread_iff.mpr hread
    obtain ⟨st, hst⟩ := hread
    have hunique (st') (h : s.Reread e st') : st = st' := Option.some.inj (hst.1.symm.trans h.1)
    simp only [hkind, hst.1]
    cases hlast : st.lastCommit with
    | none =>
      simp only [Bool.false_eq_true, false_iff, not_exists]
      rintro st' last ⟨hread, hl, -⟩
      rw [← hunique st' hread, hlast] at hl
      cases hl
    | some last =>
      simp only [Bool.and_eq_true, Bool.or_eq_true, decide_eq_true_eq, Bool.not_eq_true', beq_iff_eq]
      constructor
      · rintro ⟨hquiet, hcalm⟩
        exact ⟨st, last, hst, hlast, hquiet, hcalm⟩
      · rintro ⟨st', last', hread, hl, hquiet, hcalm⟩
        rw [← hunique st' hread] at hl hcalm
        rw [hlast] at hl
        cases hl
        exact ⟨hquiet, hcalm⟩
  · have hkind := mt State.provisional_reread_iff.mp hread
    split
    next h _ => exact absurd h hkind
    next =>
      simp only [Bool.false_eq_true, false_iff, not_exists]
      rintro st last ⟨h, -⟩
      exact hread ⟨st, h⟩

/-! ### The journal offer -/

/-- The journal accepts an offer made now (R139). -/
def State.takesRecord (s : State) : Bool :=
  decide (s.journal.queue.length < 64 ∧ s.journal.state = .ready ∧ s.storeFailed = false)

/-- Why an offer is refused, as APPEND_BACKLOG's detail numbers it (R139). -/
def State.refusal (s : State) : Word :=
  if 64 ≤ s.journal.queue.length then 0#32 else if s.journal.state = .full then 1#32 else 2#32

theorem State.offerAnswer_taken (h : s.takesRecord = true) : s.offerAnswer = .accepted s.journal.nextSerial := by
  obtain ⟨hroom, hready, hstore⟩ := of_decide_eq_true h
  rw [State.offerAnswer, queueRoom, if_neg (by omega), if_neg (by simp [hready]), if_pos ⟨hready, hstore⟩]

theorem State.offerAnswer_refused (h : s.takesRecord = false) :
    ∃ n, s.offerAnswer = .refused n ∧ BitVec.ofNat 32 n = s.refusal := by
  have hno := of_decide_eq_false h
  unfold State.offerAnswer State.refusal queueRoom
  split
  · exact ⟨0, rfl, rfl⟩
  · split
    · exact ⟨1, rfl, rfl⟩
    · refine ⟨2, if_neg fun hready => hno ⟨by omega, hready⟩, rfl⟩

/-- What the third stage of a commit leaves (R102, R103). -/
def State.journaled (r : Reading) (offers flush : Bool) (s : State) : State :=
  if offers && !s.takesRecord then (s.bump .unstored).raise .appendBacklog s.refusal
  else if offers then s.queueRecord r flush
  else s

theorem State.journalStage_eq (r : Reading) (offers flush : Bool) (s : State) : s.journalStage r offers flush =
    (s.journaled r offers flush, if offers && s.takesRecord then s.journal.nextSerial else 0,
      offers && !s.takesRecord) := by
  unfold State.journalStage State.journaled
  cases offers with
  | false => rfl
  | true =>
    cases htake : s.takesRecord with
    | true => simp [State.offerAnswer_taken htake]
    | false =>
      obtain ⟨n, hn, hreason⟩ := State.offerAnswer_refused htake
      simp [hn, hreason]

theorem State.journaled_rm (r : Reading) (offers flush : Bool) (s : State) : (s.journaled r offers flush).rm = s.rm := by
  unfold State.journaled
  split
  · simp
  · split <;> rfl

theorem State.journaled_tb (r : Reading) (offers flush : Bool) (s : State) : (s.journaled r offers flush).tb = s.tb := by
  unfold State.journaled
  split
  · simp
  · split <;> rfl

/-! ### The stages together -/

/-- The commit offers its reading to the journal (R102). -/
def State.offersReading (s : State) (e : MergeEntry) (o : ScreenOut) : Bool :=
  alarmBits (commitFlags e o) || s.classOf e.source == .store || s.classOf e.source == .both

/-- The state after the live offer of a commit (R104). -/
def State.sent (s : State) (e : MergeEntry) (o : ScreenOut) (u : State) : State :=
  let unstored : Bool := s.offersReading e o && !s.takesRecord
  if alarmBits (commitFlags e o) || s.classOf e.source == .live || s.classOf e.source == .both || unstored then
    u.offerLive ⟨{ s.readingOf e o with
      serial := if s.offersReading e o && s.takesRecord then s.journal.nextSerial else 0 }, unstored⟩
  else u

theorem State.commitReading_info (e : MergeEntry) (o : ScreenOut) (flush : Bool) (s : State) :
    (s.commitReading e o flush).2 = ⟨false, s.offersReading e o, s.offersReading e o && !s.takesRecord⟩ := by
  simp only [State.commitReading, State.journalStage_eq]
  rfl

/-- A reading without a status entry. -/
theorem State.commitReading_none (h : s.statusOf e.source = none) : (s.commitReading e o flush).1 =
    s.sent e o ((s.bump .readings).journaled (s.readingOf e o) (s.offersReading e o) flush) := by
  simp only [State.commitReading, State.journalStage_eq, h]
  rfl

/-- The status entry a commit writes (R101). -/
def State.committedEntry (s : State) (st : StatusEntry) (after : MeterStatus) (value : Nat) : StatusEntry :=
  { st with status := after, lastValue := some value, lastCommit := some s.tb.runSeconds }

/-- A reading with a status entry: the entry is written, and its segment moved. -/
theorem State.commitReading_some {n : Nat} {a : RouteAttrs} {st : StatusEntry} {after : MeterStatus}
    (hsrc : e.source = .route n a) (h : s.rm.status[n]? = some st)
    (hafter : decidedStatus st.status (alarmBits (commitFlags e o)) (s.offersReading e o && !s.takesRecord) = after) :
    (s.commitReading e o flush).1 =
      (s.sent e o { (s.bump .readings).journaled (s.readingOf e o) (s.offersReading e o) flush with
        rm := { s.rm with status := s.rm.status.set n (s.committedEntry st after o.value) } }).moveSegment
        st.segment st.status after := by
  have hst : s.statusOf e.source = some st := (State.statusOf_route hsrc).trans h
  have hwrite : ((s.bump .readings).journaled (s.readingOf e o) (s.offersReading e o) flush).writeStatus e.source o.value after
      = { (s.bump .readings).journaled (s.readingOf e o) (s.offersReading e o) flush with
          rm := { s.rm with status := s.rm.status.set n (s.committedEntry st after o.value) } } := by
    generalize hu : (s.bump .readings).journaled (s.readingOf e o) (s.offersReading e o) flush = u
    have hrm : u.rm = s.rm := hu ▸ State.journaled_rm _ _ _ _
    have htb : u.tb = s.tb := hu ▸ State.journaled_tb _ _ _ _
    have hst' : u.statusOf (.route n a) = some st := by
      rw [← h, ← hrm]
      rfl
    simp only [State.writeStatus, State.committedEntry, hsrc, hst', hrm, htb]
  rw [← hwrite, ← hafter]
  simp only [State.commitReading, State.journalStage_eq, hst]
  rfl

theorem State.commit_repeat (h : s.mc.table[i] = some e)
    (hrep : s.Repeats e (alarmBits (commitFlags e (screen (s.screenInput e))))) :
    s.commit i flush = ((s.freeEntry i).bump .repeats, ⟨true, false, false⟩) := by
  unfold State.commit
  simp only [h]
  exact if_pos (State.isRepeat_iff.mpr hrep)

theorem State.commit_reading (h : s.mc.table[i] = some e)
    (hrep : ¬ s.Repeats e (alarmBits (commitFlags e (screen (s.screenInput e))))) :
    s.commit i flush = (s.freeEntry i).commitReading e (screen (s.screenInput e)) flush := by
  unfold State.commit
  simp only [h]
  exact if_neg (mt State.isRepeat_iff.mp hrep)

/-! ### The live queue -/

theorem LiveFrame.alarm_iff (f : LiveFrame) : f.alarm = true ↔ f.reading.flags &&& 0x003F#16 ≠ 0#16 := alarmBits_iff _

theorem State.offerLive_room (f : LiveFrame) (h : s.tl.live.length < 64) :
    s.offerLive f = { s with tl := { s.tl with live := s.tl.live ++ [f] } } := by
  rw [State.offerLive, liveRoom, if_pos h]
  rfl

theorem State.offerLive_lost {f : LiveFrame} (hfull : 64 ≤ s.tl.live.length)
    (h : f.alarm = false ∨ ∀ g ∈ s.tl.live, g.alarm = true) : s.offerLive f = s.dropLive f.reading.meterId := by
  rw [State.offerLive, liveRoom, if_neg (Nat.not_lt.mpr hfull)]
  rcases h with h | h
  · simp [h]
  · have hnone : s.tl.live.find? (fun g => !g.alarm) = none := by simpa using h
    simp [hnone]

theorem State.offerLive_replaces {f g : LiveFrame} {pre post : List LiveFrame} (hfull : 64 ≤ s.tl.live.length)
    (hf : f.alarm = true) (hlive : s.tl.live = pre ++ g :: post) (hg : g.alarm = false)
    (hpre : ∀ h ∈ pre, h.alarm = true) :
    s.offerLive f = (s.setLive (pre ++ post ++ [f])).dropLive g.reading.meterId := by
  have hfirst : s.tl.live.find? (fun g => !g.alarm) = some g :=
    List.find?_eq_some_iff_append.mpr ⟨by simp [hg], pre, post, hlive, by simpa using hpre⟩
  have hnotin : g ∉ pre := fun hmem => by simp [hpre g hmem] at hg
  have herase : s.tl.live.erase g = pre ++ post := by
    rw [hlive, List.erase_append_right _ hnotin, List.erase_cons_head]
  rw [State.offerLive, liveRoom, if_neg (Nat.not_lt.mpr hfull), if_pos hf]
  simp only [hfirst, herase]

/-! ### The screen's input -/

theorem tableAt_val {α : Type} {n : Nat} (v : Vector α n) (k : Nat) (d : α) (m : Fin n) (h : m.val = k) :
    tableAt v k d = v[m] := by
  subst h
  exact dif_pos m.isLt

theorem State.screenInput_last_some {st : StatusEntry} (h : s.Reread e st) : (s.screenInput e).last = st.lastValue := by
  simp only [State.screenInput, State.provisional_reread_iff.mpr ⟨st, h⟩, h.1]

theorem State.screenInput_last_none (h : ¬ ∃ st, s.Reread e st) : (s.screenInput e).last = none := by
  rw [← State.provisional_reread_iff] at h
  unfold State.screenInput
  dsimp only
  split
  next hk _ => exact absurd hk h
  next => rfl

theorem State.exec_mergeExpiry (hpow : s.powered = true) (he : s.mc.table[i] = some e) :
    exec (.mergeExpiry i) s =
      .next (if (s.tb.runClock - e.expiry).toNat < 2 ^ 31 then ((s.commit i false).1).pump else s) := by
  show live s (if s.expiryDue i = true then ((s.commit i false).1).pump else s) = _
  simp only [State.expiryDue, he, reached, decide_eq_true_eq, live_powered hpow]
  rfl

theorem State.screenInput_route {n : Nat} {a : RouteAttrs} (hsrc : e.source = .route n a) :
    (s.screenInput e).modulus = 10 ^ a.digits ∧ (s.screenInput e).prior = some (a.prior, a.priorDay)
      ∧ (s.screenInput e).expected = some a.family
      ∧ ∀ m : Fin 16, m.val = a.rule → (s.screenInput e).rule = s.rules[m] := by
  simp only [State.screenInput, State.ruleOfSource]
  rw [hsrc]
  exact ⟨rfl, rfl, rfl, fun m hm => tableAt_val _ _ _ m hm⟩

theorem State.screenInput_range {n : Fin 8} {a : RangeAttrs} (hsrc : e.source = .range n a) :
    (s.screenInput e).modulus = 10 ^ 9 ∧ (s.screenInput e).prior = none ∧ (s.screenInput e).expected = a.family
      ∧ ∀ m : Fin 16, m.val = a.rule → (s.screenInput e).rule = s.rules[m] := by
  simp only [State.screenInput, State.ruleOfSource]
  rw [hsrc]
  exact ⟨rfl, rfl, rfl, fun m hm => tableAt_val _ _ _ m hm⟩

theorem State.screenInput_foreign (hsrc : e.source = .foreign) :
    (s.screenInput e).modulus = 10 ^ 9 ∧ (s.screenInput e).prior = none ∧ (s.screenInput e).expected = none
      ∧ (s.screenInput e).rule = ⟨0, 0, 0⟩ := by
  simp only [State.screenInput, State.ruleOfSource]
  rw [hsrc]
  exact ⟨rfl, rfl, rfl, rfl⟩

/-! ### The fields of the reading -/

theorem State.readingOf_route {n : Nat} {a : RouteAttrs} (hsrc : e.source = .route n a) :
    (s.readingOf e o).routeIndex = n ∧ (s.readingOf e o).source = 0 ∧ (s.readingOf e o).segment = a.segment.val
      ∧ (s.readingOf e o).rule = a.rule ∧ (s.readingOf e o).utility = a.utility
      ∧ (s.readingOf e o).kind = s.provisional e.source := by
  simp only [State.readingOf, hsrc, and_self]

theorem State.readingOf_range {n : Fin 8} {a : RangeAttrs} (hsrc : e.source = .range n a) :
    (s.readingOf e o).routeIndex = 65535 ∧ (s.readingOf e o).source = 1 ∧ (s.readingOf e o).segment = 0
      ∧ (s.readingOf e o).rule = a.rule ∧ (s.readingOf e o).utility = a.utility
      ∧ (s.readingOf e o).kind = .range := by
  simp only [State.readingOf]
  rw [hsrc]
  exact ⟨rfl, rfl, rfl, rfl, rfl, rfl⟩

theorem State.readingOf_foreign (hsrc : e.source = .foreign) :
    (s.readingOf e o).routeIndex = 65535 ∧ (s.readingOf e o).source = 2 ∧ (s.readingOf e o).segment = 0
      ∧ (s.readingOf e o).rule = 0 ∧ (s.readingOf e o).utility = 0 ∧ (s.readingOf e o).kind = .foreign := by
  simp only [State.readingOf]
  rw [hsrc]
  exact ⟨rfl, rfl, rfl, rfl, rfl, rfl⟩

/-- The status a commit decides for an entry that is not EXCLUDED (R103). -/
theorem decidedStatus_eq {before : MeterStatus} (h : before ≠ .excluded) (alarm unstored : Bool) :
    decidedStatus before alarm unstored =
      if before = .unread ∨ before = .unstored then (if unstored then .unstored else if alarm then .flagged else .read)
      else if alarm then .flagged else before := by
  cases before with
  | excluded => exact absurd rfl h
  | flagged => cases alarm <;> rfl
  | unread | unstored | read => rfl

/-- Settles O43: the screen's input field by field, the stages of a commit (`commit_repeat`, `commit_reading`,
`commitReading_none`, `commitReading_some`), the reading's fields, and the live queue. -/
theorem commitMakesAReading : Obligations.CommitMakesAReading := by
  refine ⟨fun i e flush s he => ?_, fun f s => ?_⟩
  · intro x o flags alarm cls offers taken unstored freed t read repeated
    have halarm : alarm = alarmBits (commitFlags e o) := (alarmBits_eq _).symm
    have hread (n : Nat) (a : RouteAttrs) (st : StatusEntry) (hsrc : e.source = .route n a) :
        (s.rm.status[n]? = some st ∧ read st) ↔ s.Reread e st := by
      rw [State.Reread, State.statusOf_route hsrc]
    have hrereads : (∃ (n : Nat) (a : RouteAttrs) (st : StatusEntry), e.source = .route n a ∧ s.rm.status[n]? = some st
        ∧ read st) ↔ ∃ st, s.Reread e st := by
      constructor
      · rintro ⟨n, a, st, hsrc, h⟩
        exact ⟨st, (hread n a st hsrc).mp h⟩
      · rintro ⟨st, h⟩
        obtain ⟨n, a, hsrc, -⟩ := State.statusOf_eq_some.mp h.1
        exact ⟨n, a, st, hsrc, (hread n a st hsrc).mpr h⟩
    have hrepeats : repeated ↔ s.Repeats e (alarmBits (commitFlags e o)) := by
      rw [← halarm]
      constructor
      · rintro ⟨n, a, st, last, hsrc, hst, hr, h⟩
        exact ⟨st, last, (hread n a st hsrc).mp ⟨hst, hr⟩, h⟩
      · rintro ⟨st, last, h, hrest⟩
        obtain ⟨n, a, hsrc, -⟩ := State.statusOf_eq_some.mp h.1
        obtain ⟨hst, hr⟩ := (hread n a st hsrc).mpr h
        exact ⟨n, a, st, last, hsrc, hst, hr, hrest⟩
    have hoffers : offers = s.offersReading e o := by
      simp only [offers, halarm]
      rfl
    have hfreed : ¬ repeated → s.commit i flush = freed.commitReading e o flush := fun h =>
      State.commit_reading he (mt hrepeats.mpr h)
    have hsame : freed.offersReading e o = offers ∧ freed.takesRecord = taken := ⟨hoffers.symm, rfl⟩
    refine ⟨fun hpow hdue => ?expired, fun hearly => ?early, ⟨rfl, rfl, rfl, rfl, rfl, rfl, rfl, ?attrs,
      fun n a st hsrc hst hr => State.screenInput_last_some ((hread n a st hsrc).mp ⟨hst, hr⟩),
      fun h => State.screenInput_last_none (mt hrereads.mpr h)⟩, fun h => State.commit_repeat he (hrepeats.mp h),
      fun h => ?info, fun h => ?reading⟩
    case expired => rw [State.exec_mergeExpiry hpow he, if_pos hdue]
    case early =>
      by_cases hpow : s.powered = true
      · rw [State.exec_mergeExpiry hpow he, if_neg (Nat.not_lt.mpr hearly)]
      · exact live_unpowered (by simpa using hpow) _
    case attrs =>
      cases hsrc : e.source with
      | route n a => exact State.screenInput_route hsrc
      | range n a => exact State.screenInput_range hsrc
      | foreign => exact State.screenInput_foreign hsrc
    case info => rw [hfreed h, State.commitReading_info, hsame.1, hsame.2]
    case reading =>
      intro r reason journaled sent
      have ht : t = (freed.commitReading e o flush).1 := congrArg Prod.fst (hfreed h)
      have hjournaled : (freed.bump .readings).journaled (freed.readingOf e o) (freed.offersReading e o) flush = journaled := by
        rw [hsame.1]
        rfl
      have hsent (u : State) : freed.sent e o u = sent u := by
        simp only [State.sent, hsame.1, hsame.2, sent, halarm]
        rfl
      refine ⟨fun hnone => ?nostatus, fun n a st hsrc hst hin => ?status, rfl, rfl, rfl, rfl, rfl, rfl, rfl, rfl, rfl, ?fields⟩
      case nostatus =>
        have hno : freed.statusOf e.source = none := State.statusOf_eq_none.mpr hnone
        rw [ht, State.commitReading_none hno, hjournaled, hsent]
      case status =>
        intro after entry
        have hafter : decidedStatus st.status (alarmBits (commitFlags e o))
            (freed.offersReading e o && !freed.takesRecord) = after := by
          rw [decidedStatus_eq hin, hsame.1, hsame.2, ← halarm]
        rw [ht, State.commitReading_some (s := freed) hsrc hst hafter, hjournaled, hsent]
        rfl
      case fields =>
        cases hsrc : e.source with
        | route n a =>
          obtain ⟨hindex, hsource, hsegment, hrule, hutility, hkind⟩ := State.readingOf_route (s := s) (o := o) hsrc
          refine ⟨hindex, hsource, hsegment, hrule, hutility, fun hr => ?_, fun hr => ?_⟩
          · obtain ⟨st, hst⟩ := hr
            exact hkind.trans (State.provisional_reread_iff.mpr ⟨st, (hread n a st hsrc).mp hst⟩)
          · refine hkind.trans (State.provisional_route_new hsrc fun ⟨st, hst⟩ => hr ⟨st, ?_⟩)
            exact (hread n a st hsrc).mpr hst
        | range n a => exact State.readingOf_range hsrc
        | foreign => exact State.readingOf_foreign hsrc
  · intro alarms lost
    have hcalm (g : LiveFrame) : ¬ alarms g ↔ g.alarm = false := by
      exact (not_congr (LiveFrame.alarm_iff g)).symm.trans (Bool.not_eq_true _).to_iff
    refine ⟨State.offerLive_room f, fun hfull => ⟨fun h => ?_, fun hf pre post g hlive hg hpre => ?_⟩⟩
    · exact State.offerLive_lost hfull (h.imp (hcalm f).mp fun hall g hg => (LiveFrame.alarm_iff g).mpr (hall g hg))
    · exact State.offerLive_replaces hfull ((LiveFrame.alarm_iff f).mpr hf) hlive ((hcalm g).mp hg)
        fun h hh => (LiveFrame.alarm_iff h).mpr (hpre h hh)

end Sys2Proof.Machine
end

section
/-! SUPPORT. The port at the end of an operation without a row (log 2), and what a commit leaves alone. -/

namespace Sys2Proof.Machine

variable {s t : State} {c : Client} {op : StoreOp} {code tag : Byte} {w : Work} {r : Option (List Byte)}

/-! ### The end of an operation -/

/-- The end of an operation of a long operation's work, where the work goes on after it. -/
theorem State.inPort.step_longOp (h : s.inPort .longOp op) (hpow : s.powered = true) (hpending : s.pending = [])
    (hl : s.tl.longOp = some ⟨code, tag, w, r⟩) (hw : s.afterLongOp w op = some t) : step s = .next t.pump := by
  obtain ⟨⟨since, spent, hact⟩, -⟩ := h
  have hadvance : s.advance? = some t.pump := by simp only [State.advance?, hact, hl, hw, Option.map_some]
  simp only [step, hpending, State.idle, hpow, if_true, hadvance, Option.getD_some]

/-- The same for the start-up path. -/
theorem State.inPort.step_startup (h : s.inPort .startup op) (hpow : s.powered = true) (hpending : s.pending = [])
    (hw : s.afterStartup op = some t) : step s = .next t.pump := by
  obtain ⟨⟨since, spent, hact⟩, -⟩ := h
  have hadvance : s.advance? = some t.pump := by simp only [State.advance?, hact, hw, Option.map_some]
  simp only [step, hpending, State.idle, hpow, if_true, hadvance, Option.getD_some]

/-- An operation that has a row of its own stays in the port. -/
theorem State.ownRow.settled (h : s.ownRow) : s.settled = s := by
  cases hact : s.port.active with
  | none => exact State.settled_of_free hact
  | some a =>
    obtain ⟨hstart, hlong, hopening⟩ := h a hact
    obtain ⟨client, op, since, spent⟩ := a
    refine State.settled_eq ?_
    cases client with
    | startup => exact absurd rfl hstart
    | longOp => exact absurd rfl hlong
    | opening =>
      have hprogram := hopening rfl
      cases op with
      | program a bs => simp only [State.advance?, hact]
      | read a n => simp [StoreOp.isProgram] at hprogram
      | erase sec => simp [StoreOp.isProgram] at hprogram
    | _ => simp only [State.advance?, hact]

theorem State.working.work (h : s.working code tag w) : s.work = some w := by
  rw [State.work, h.2]
  rfl

theorem State.unanswered.longFailed (h : s.unanswered .longOp) : s.longFailed = true := decide_eq_true h.2

theorem State.inPort.longFailed (h : s.inPort .longOp op) : s.longFailed = false := decide_eq_false h.2

theorem State.inPort.longInFlight (h : s.inPort .longOp op) : s.longInFlight = true := by
  rw [State.longInFlight, h.inFlight]
  rfl

theorem State.inPort.programInFlight (h : s.inPort c op) : s.programInFlight = op.isProgram := by
  obtain ⟨⟨since, spent, hact⟩, -⟩ := h
  simp only [State.programInFlight, hact]

theorem State.unanswered.startFailed (h : s.unanswered .startup) : s.startFailed = true := decide_eq_true h.2

theorem State.inPort.startFailed (h : s.inPort .startup op) : s.startFailed = false := decide_eq_false h.2

theorem State.inPort.startInFlight (h : s.inPort .startup op) : s.startInFlight = true := by
  rw [State.startInFlight, h.inFlight]
  rfl

/-- The end of a read leaves the store. -/
theorem State.inPort.endOp_read {a n : Nat} (h : s.inPort c (.read a n)) : s.endOp = { s with port := s.port.freed } :=
  h.endOp

/-! ### What a commit leaves alone -/

/-- What neither a commit nor an event touches, of the blocks that a close goes on with. -/
structure State.SameWork (s t : State) : Prop where
  powered : t.powered = s.powered
  store : t.store = s.store
  port : t.port = s.port
  cl : t.cl = s.cl
  longOp : t.tl.longOp = s.tl.longOp
  state : t.rm.state = s.rm.state
  header : ∀ st, t.rm.header st = s.rm.header st

theorem State.SameWork.refl (s : State) : s.SameWork s := ⟨rfl, rfl, rfl, rfl, rfl, rfl, fun _ => rfl⟩

theorem State.SameWork.trans {u : State} (h : s.SameWork t) (h' : t.SameWork u) : s.SameWork u :=
  ⟨h'.powered.trans h.powered, h'.store.trans h.store, h'.port.trans h.port, h'.cl.trans h.cl,
    h'.longOp.trans h.longOp, h'.state.trans h.state, fun st => (h'.header st).trans (h.header st)⟩

theorem State.SameWork.bump (c : Counter) (s : State) (n : Nat) : s.SameWork (s.bump c n) :=
  ⟨rfl, rfl, rfl, rfl, rfl, rfl, fun _ => rfl⟩

theorem State.queueNotice_longOp (n : Notice) (s : State) : (s.queueNotice n).tl.longOp = s.tl.longOp := by
  unfold State.queueNotice
  split <;> rfl

theorem State.SameWork.raise (e : Event) (d : Word) (s : State) : s.SameWork (s.raise e d) :=
  ⟨State.raise_powered e d s, State.raise_store e d s, State.raise_port e d s, State.raise_cl e d s,
    by rw [State.raise_tl]; rfl, by rw [State.raise_rm], fun st => by rw [State.raise_rm]⟩

theorem State.SameWork.queueCompletion (route : Bool) (n : Notice) (s : State) : s.SameWork (s.queueCompletion route n) := by
  refine ⟨by simp, by simp, by simp, by simp, ?_, by simp, fun st => by simp⟩
  unfold State.queueCompletion
  generalize s.tl.mask.getLsbD (if route = true then 15 else 14) = masked
  split
  · exact State.queueNotice_longOp n s
  · rfl

/-- An update of the tables of the route manager. -/
theorem State.SameWork.rm {x : RouteManager} (hstate : x.state = s.rm.state) (hheader : ∀ st, x.header st = s.rm.header st) :
    s.SameWork { s with rm := x } := ⟨rfl, rfl, rfl, rfl, rfl, hstate, hheader⟩

theorem State.SameWork.routeCompletion (s : State) : s.SameWork s.routeCompletion := by
  unfold State.routeCompletion
  split
  · refine .trans ?_ (.queueCompletion _ _ _)
    exact .rm rfl fun _ => rfl
  · exact .refl s

theorem State.SameWork.moveSegment (g : Fin 256) (x y : MeterStatus) (s : State) : s.SameWork (s.moveSegment g x y) := by
  unfold State.moveSegment
  split
  · exact .refl s
  · dsimp only
    split
    · refine .trans (.rm ?_ ?_) (.trans (.queueCompletion _ _ _) (.routeCompletion _))
      · rfl
      · exact fun _ => rfl
    · exact .rm rfl fun _ => rfl

theorem State.SameWork.offerLive (f : LiveFrame) (s : State) : s.SameWork (s.offerLive f) := by
  have hlive (l : List LiveFrame) : s.SameWork (s.setLive l) := ⟨rfl, rfl, rfl, rfl, rfl, rfl, fun _ => rfl⟩
  have hdrop (id : Word) (u : State) : u.SameWork (u.dropLive id) := (State.SameWork.bump _ u _).trans (.raise _ _ _)
  unfold State.offerLive
  split
  · exact hlive _
  · split
    · split
      · exact (hlive _).trans (hdrop _ _)
      · exact hdrop _ s
    · exact hdrop _ s

theorem State.SameWork.journaled (x : Reading) (offers flush : Bool) (s : State) : s.SameWork (s.journaled x offers flush) := by
  unfold State.journaled
  split
  · exact (State.SameWork.bump _ s _).trans (.raise _ _ _)
  · split
    · exact ⟨rfl, rfl, rfl, rfl, rfl, rfl, fun _ => rfl⟩
    · exact .refl s

theorem State.SameWork.sent (e : MergeEntry) (o : ScreenOut) (s u : State) : u.SameWork (s.sent e o u) := by
  unfold State.sent
  dsimp only
  split
  · exact .offerLive _ u
  · exact .refl u

theorem State.SameWork.commitReading (e : MergeEntry) (o : ScreenOut) (flush : Bool) (s : State) :
    s.SameWork (s.commitReading e o flush).1 := by
  have hjournaled := (State.SameWork.bump .readings s 1).trans
    (.journaled (s.readingOf e o) (s.offersReading e o) flush _)
  cases hst : s.statusOf e.source with
  | none =>
    rw [State.commitReading_none hst]
    exact hjournaled.trans (.sent e o s _)
  | some st =>
    obtain ⟨n, a, hsrc, h⟩ := State.statusOf_eq_some.mp hst
    rw [State.commitReading_some hsrc h rfl]
    refine hjournaled.trans (.trans (.rm ?_ fun st => ?_) (.trans (.sent e o s _) (.moveSegment _ _ _ _)))
    · rw [State.journaled_rm]
      rfl
    · rw [State.journaled_rm]
      rfl

theorem State.SameWork.commit (i : Fin 32) (flush : Bool) (s : State) : s.SameWork (s.commit i flush).1 := by
  have hfree : s.SameWork (s.freeEntry i) := ⟨rfl, rfl, rfl, rfl, rfl, rfl, fun _ => rfl⟩
  cases he : s.mc.table[i] with
  | none =>
    unfold State.commit
    simp only [he]
    exact .refl s
  | some e =>
    by_cases hrep : s.Repeats e (alarmBits (commitFlags e (screen (s.screenInput e))))
    · rw [State.commit_repeat he hrep]
      exact hfree.trans (.bump _ _ _)
    · rw [State.commit_reading he hrep]
      exact hfree.trans (.commitReading _ _ _ _)

/-! ### The merge table of a commit -/

theorem State.journaled_mc (x : Reading) (offers flush : Bool) (s : State) : (s.journaled x offers flush).mc = s.mc := by
  unfold State.journaled
  split
  · simp
  · split <;> rfl

theorem State.sent_mc (e : MergeEntry) (o : ScreenOut) (s u : State) : (s.sent e o u).mc = u.mc := by
  unfold State.sent
  dsimp only
  split
  · exact State.offerLive_mc _ _
  · rfl

theorem State.commitReading_mc (e : MergeEntry) (o : ScreenOut) (flush : Bool) (s : State) :
    (s.commitReading e o flush).1.mc = s.mc := by
  cases hst : s.statusOf e.source with
  | none => rw [State.commitReading_none hst, State.sent_mc, State.journaled_mc, State.bump_mc]
  | some st =>
    obtain ⟨n, a, hsrc, h⟩ := State.statusOf_eq_some.mp hst
    rw [State.commitReading_some hsrc h rfl, State.moveSegment_mc, State.sent_mc]
    exact State.journaled_mc _ _ _ _

/-- A commit frees its entry, and leaves the others. -/
theorem State.commit_table {i : Fin 32} {e : MergeEntry} (he : s.mc.table[i] = some e) (flush : Bool) :
    (s.commit i flush).1.mc = { s.mc with table := s.mc.table.set i none } := by
  by_cases hrep : s.Repeats e (alarmBits (commitFlags e (screen (s.screenInput e))))
  · rw [State.commit_repeat he hrep]
    rfl
  · rw [State.commit_reading he hrep, State.commitReading_mc]
    rfl

end Sys2Proof.Machine
end

section
/-! SUPPORT. Settling the port leaves the part powered. -/

namespace Sys2Proof.Machine

variable {s t : State}

theorem State.reportDamaged_powered (sec : Nat) (s : State) : (s.reportDamaged sec).powered = s.powered := by
  have h (l : List Nat) (u : State) :
      (l.foldl (fun t b => t.raise .dirCrc (BitVec.ofNat 32 b)) u).powered = u.powered := by
    induction l generalizing u with
    | nil => rfl
    | cons b l ih => rw [List.foldl_cons, ih, State.raise_powered]
  exact h _ _

theorem State.replaySlot_powered (sec slot rep skip : Nat) (s : State) : (s.replaySlot sec slot rep skip).1.powered = s.powered := by
  unfold State.replaySlot
  split
  case h_2 => rfl
  split
  · rfl
  split
  case h_2 => rfl
  split <;> rfl

theorem State.replayNext_powered (sec slot rep skip : Nat) (s : State) : (s.replayNext sec slot rep skip).powered = s.powered := by
  unfold State.replayNext
  dsimp only
  split
  · rfl
  · simp

theorem State.afterLongOp_powered {w : Work} {op : StoreOp} (h : s.afterLongOp w op = some t) : t.powered = s.powered := by
  unfold State.afterLongOp at h
  split at h
  case h_1 | h_2 | h_3 =>
    split at h
    · rw [← Option.some.inj h]; simp
    · cases h
  case h_4 =>
    split at h
    · rw [← Option.some.inj h]; simp [State.reportDamaged_powered]
    · cases h
  case h_10 =>
    dsimp only at h
    split at h
    all_goals rw [← Option.some.inj h]; simp
  case h_14 => cases h
  all_goals rw [← Option.some.inj h]; simp

theorem State.afterStartup_powered {op : StoreOp} (h : s.afterStartup op = some t) : t.powered = s.powered := by
  unfold State.afterStartup at h
  split at h
  case h_1 =>
    split at h
    · rw [← Option.some.inj h]; simp
    · cases h
  case h_2 | h_4 => rw [← Option.some.inj h]; simp
  case h_3 =>
    split at h
    · rw [← Option.some.inj h]; simp [State.reportDamaged_powered]
    · cases h
  case h_5 =>
    rw [← Option.some.inj h, State.replayNext_powered]
    exact (State.replaySlot_powered _ _ _ _ _).trans (State.endOp_powered s)
  case h_6 => cases h

theorem State.advance_powered (h : s.advance? = some t) : t.powered = s.powered := by
  have hopening (op : StoreOp) :
      (if s.endOp.erasing then s.endOp else s.endOp.request .opening op).pump.powered = s.powered := by
    split <;> simp
  unfold State.advance? at h
  split at h
  · cases h
  · split at h
    · cases h; exact hopening _
    · cases h; exact hopening _
    · split at h
      · obtain ⟨u, hu, rfl⟩ := Option.map_eq_some_iff.mp h
        exact (State.pump_powered u).trans (State.afterLongOp_powered hu)
      · cases h
    · obtain ⟨u, hu, rfl⟩ := Option.map_eq_some_iff.mp h
      exact (State.pump_powered u).trans (State.afterStartup_powered hu)
    · cases h

theorem State.settled_powered (s : State) : s.settled.powered = s.powered := by
  suffices h : ∀ (n : Nat) (s : State), (s.settle n).powered = s.powered from h settleBound s
  intro n
  induction n with
  | zero => exact fun _ => rfl
  | succ n ih =>
    intro s
    unfold State.settle
    split
    next t ht => exact (ih t).trans (State.advance_powered ht)
    next => rfl

end Sys2Proof.Machine
end

section
/-! SUPPORT. ROUTE CLOSE (R55, R56). -/

namespace Sys2Proof.Machine

variable {s : State} {tag : Byte}

/-! ### Every entry committed -/

theorem foldl_chooseEarlier_chosen {p : MergeEntry → Bool} {t : Vector (Option MergeEntry) 32} (l : List (Fin 32)) :
    (l.foldl (chooseEarlier p t) none = none ∧ ∀ i ∈ l, ∀ e, ¬ Accepted p t i e) ∨
      ∃ i e, l.foldl (chooseEarlier p t) none = some i ∧ Accepted p t i e := by
  induction l using List.reverseRecOn with
  | nil => exact .inl ⟨rfl, by simp⟩
  | append_singleton l i ih =>
    rw [List.foldl_append, List.foldl_cons, List.foldl_nil]
    by_cases hi : ∃ e, Accepted p t i e
    · obtain ⟨e, he⟩ := hi
      right
      rcases ih with ⟨hnone, -⟩ | ⟨b, eb, hb, hacc⟩
      · exact ⟨i, e, by rw [hnone, chooseEarlier_first he], he⟩
      · rw [hb, chooseEarlier_next he hacc.1]
        split
        · exact ⟨i, e, rfl, he⟩
        · exact ⟨b, eb, rfl, hacc⟩
    · rw [chooseEarlier_skip fun e he => hi ⟨e, he⟩]
      refine ih.imp_left fun ⟨hnone, hl⟩ => ⟨hnone, fun j hj => ?_⟩
      rcases List.mem_append.mp hj with hj | hj
      · exact hl j hj
      · rw [List.mem_singleton.mp hj]
        exact fun e he => hi ⟨e, he⟩

/-- The entry chosen is in use and accepted, whatever the expiries. -/
theorem earliestEntry_accepted {p : MergeEntry → Bool} {t : Vector (Option MergeEntry) 32} {i : Fin 32}
    (h : earliestEntry p t = some i) : ∃ e, t[i] = some e ∧ p e = true := by
  rw [earliestEntry_eq] at h
  rcases foldl_chooseEarlier_chosen (p := p) (t := t) (List.finRange 32) with ⟨hnone, -⟩ | ⟨j, e, hj, hacc⟩
  · rw [hnone] at h
    cases h
  · rw [hj] at h
    cases h
    exact ⟨e, hacc⟩

theorem earliestEntry_eq_none_iff {p : MergeEntry → Bool} {t : Vector (Option MergeEntry) 32} :
    earliestEntry p t = none ↔ ∀ (i : Fin 32) (e : MergeEntry), t[i] = some e → p e = false := by
  rw [earliestEntry_eq]
  rcases foldl_chooseEarlier_chosen (p := p) (t := t) (List.finRange 32) with ⟨hnone, hl⟩ | ⟨j, e, hj, he, hp⟩
  · refine ⟨fun _ i e he => Bool.eq_false_iff.mpr fun hp => hl i (List.mem_finRange i) e ⟨he, hp⟩, fun _ => hnone⟩
  · refine ⟨fun h => ?_, fun h => ?_⟩
    · rw [hj] at h
      cases h
    · rw [h j e he] at hp
      cases hp

/-- The merge entries in use. -/
def entriesUsed (t : Vector (Option MergeEntry) 32) : Finset (Fin 32) := Finset.univ.filter fun i => t[i].isSome = true

theorem entriesUsed_free {t : Vector (Option MergeEntry) 32} {i : Fin 32} {e : MergeEntry} (h : t[i] = some e) :
    (entriesUsed (t.set i none)).card + 1 = (entriesUsed t).card := by
  have hmem : i ∈ entriesUsed t := by simp [entriesUsed, h, -Fin.getElem_fin]
  have herase : entriesUsed (t.set i none) = (entriesUsed t).erase i := by
    ext j
    rcases eq_or_ne i j with rfl | hne
    · simp [entriesUsed]
    · simp only [entriesUsed, Finset.mem_filter, Finset.mem_univ, true_and, Finset.mem_erase, table_set_other _ _ hne]
      simp [hne.symm]
  rw [herase]
  exact Finset.card_erase_add_one hmem

theorem State.commitAll_none (h : ∀ i : Fin 32, s.mc.table[i] = none) (n : Nat) : State.commitAll n s = s := by
  have hnone : earliestEntry (fun _ => true) s.mc.table = none :=
    earliestEntry_eq_none_iff.mpr fun i e he => by rw [h i] at he; cases he
  cases n with
  | zero => rfl
  | succ n => simp only [State.commitAll, hnone]

theorem State.commitAll_next {i : Fin 32} (h : earliestEntry (fun _ => true) s.mc.table = some i) (n : Nat) :
    State.commitAll (n + 1) s = State.commitAll n (s.commit i false).1 := by
  simp only [State.commitAll, h]

/-- With a commit for each entry in use, none is left. -/
theorem State.commitAll_empties (n : Nat) (s : State) (h : (entriesUsed s.mc.table).card ≤ n) :
    ∀ i : Fin 32, (State.commitAll n s).mc.table[i] = none := by
  induction n generalizing s with
  | zero =>
    intro i
    by_contra hi
    have hmem : i ∈ entriesUsed s.mc.table :=
      Finset.mem_filter.mpr ⟨Finset.mem_univ i, Option.ne_none_iff_isSome.mp hi⟩
    have := Finset.card_pos.mpr ⟨i, hmem⟩
    omega
  | succ n ih =>
    cases hnext : earliestEntry (fun _ => true) s.mc.table with
    | none =>
      have hempty (i : Fin 32) : s.mc.table[i] = none :=
        Option.eq_none_iff_forall_ne_some.mpr fun e he => by
          simpa using earliestEntry_eq_none_iff.mp hnext i e he
      rw [State.commitAll_none hempty]
      exact hempty
    | some i =>
      obtain ⟨e, he, -⟩ := earliestEntry_accepted hnext
      rw [State.commitAll_next hnext]
      refine ih _ ?_
      rw [State.commit_table he]
      have := entriesUsed_free he
      show (entriesUsed (s.mc.table.set i none)).card ≤ n
      omega

theorem State.SameWork.commitAll (n : Nat) (s : State) : s.SameWork (State.commitAll n s) := by
  induction n generalizing s with
  | zero => exact .refl s
  | succ n ih =>
    unfold State.commitAll
    split
    · exact (State.SameWork.commit _ _ s).trans (ih _)
    · exact .refl s

/-! ### The rows -/

theorem State.walksEnded_iff : s.walksEnded = true ↔ (∀ w : Fin 4, s.cl.walks[w] = none) ∧ s.cl.held = none := by
  simp only [State.walksEnded, Bool.and_eq_true, List.all_eq_true, Vector.mem_toList_iff, Vector.mem_iff_getElem,
    Option.isNone_iff_eq_none]
  constructor
  · rintro ⟨h, hheld⟩
    exact ⟨fun w => h _ ⟨w.val, w.isLt, rfl⟩, hheld⟩
  · rintro ⟨h, hheld⟩
    refine ⟨?_, hheld⟩
    rintro x ⟨i, hi, rfl⟩
    exact h ⟨i, hi⟩

/-- What the end of a close answers (R55). -/
def RouteManager.closeTotals (r : RouteManager) : List Byte :=
  beBytes 2 r.meterCount ++ beBytes 2 (r.total (fun g => g.meters - g.excluded)) ++ beBytes 2 (r.total (·.read))
    ++ beBytes 2 (r.total (·.flagged))

/-- The state after the last step of a close, answered `rc` (R55, R56). -/
def State.closedBy (tag : Byte) (rc : ReplyCode) (s : State) : State :=
  { s with
    rm := { s.rm with state := .closed },
    cl := { s.cl with cache := Vector.replicate 64 none, stopped := false },
    tl := s.tl.ended 0x35#8 tag rc s.rm.closeTotals }

theorem State.finishClose_eq {w : Work} {r : Option (List Byte)} (h : s.tl.longOp = some ⟨0x35#8, tag, w, r⟩)
    (stored : Bool) :
    s.finishClose stored = s.closedBy tag (if stored = true ∧ s.storeFailed = false then .ok else .storeFault) := by
  have hrc : (if stored && !s.storeFailed then ReplyCode.ok else .storeFault)
      = if stored = true ∧ s.storeFailed = false then .ok else .storeFault := by
    cases stored <;> cases s.storeFailed <;> rfl
  rw [← hrc]
  exact State.endLong_eq (s := { s.setRoute { s.rm with state := .closed } with
    cl := { s.cl with cache := emptyCache, stopped := false } }) h _ _

/-- Settles O28: the entries are committed one by one (`commitAll_empties`), which leaves the work alone
(`SameWork.commitAll`), and the last step is taken once the port is settled. -/
theorem routeCloseRunsItsSteps : Obligations.RouteCloseRunsItsSteps := by
  refine ⟨fun n s => ⟨fun i h => State.commitAll_next h n, fun h => State.commitAll_none h n⟩, fun tag s => ?_⟩
  intro totals closed
  refine ⟨fun haccepts => ?_, fun hwork hwalks hheld => ?_, State.ownRow.settled, fun stored hwork => ?_, fun hwork =>
    ⟨fun a bs hport => ?_, fun hfailed => ?_⟩⟩
  · have hruns : exec (.routeClose tag []) s = .next _ := haccepts.runs rfl
    rw [hruns, State.takeFrame_rm]
    split <;> rfl
  · intro u t
    have hsame : s.SameWork u := .commitAll 32 s
    have hwork' : u.tl.longOp = some ⟨0x35#8, tag, .closeWalks, none⟩ := hsame.longOp.trans hwork.2
    have hset : u.setWork .closeHeader = t := State.setWork_eq hwork' _
    have hheader : t.workHeader .closeHeader = ⟨.closed, s.rm.meterCount, s.rm.digest, s.rm.firstSerial, s.rm.openDay⟩ :=
      hsame.header .closed
    refine ⟨?_, State.commitAll_empties 32 s ?_, hsame.state, hsame.store, hsame.port, hsame.cl⟩
    · show live s (if _ then _ else _) = _
      rw [if_pos ⟨hwork.work, State.walksEnded_iff.mpr ⟨hwalks, hheld⟩⟩, live_powered hwork.1]
      show Host.Outcome.next ((u.setWork .closeHeader).request .longOp _).pump = _
      rw [hset, hheader]
    · exact (Finset.card_le_univ _).trans (by simp)
  · have hpow : s.powered = true := s.settled_powered.symm.trans hwork.1
    have hrun : exec .routeCloseDone s = .next (s.settled.finishClose stored).pump := by
      show execRouteCloseDone s = _
      simp only [execRouteCloseDone, hwork.work, live_powered hpow]
    rw [hrun, State.finishClose_eq hwork.2]
    rfl
  · have hsettled : s.settled = s := hport.settled_longOp hwork.2 rfl
    have hrun : exec .routeCloseDone s = .next (s.endOp.finishClose true).pump := by
      show execRouteCloseDone s = _
      simp only [execRouteCloseDone, hsettled, hwork.work, live_powered hwork.1, hport.longFailed, hport.longInFlight,
        hport.programInFlight]
      rfl
    have hended : s.endOp.tl.longOp = some ⟨0x35#8, tag, .closeHeader, none⟩ := by
      rw [hport.endOp]
      exact hwork.2
    have hrc : (if true = true ∧ s.storeFailed = false then ReplyCode.ok else .storeFault)
        = if s.storeFailed then .storeFault else .ok := by
      cases s.storeFailed <;> rfl
    rw [hrun, State.finishClose_eq hended, hport.endOp, hrc]
    rfl
  · have hrun : exec .routeCloseDone s = .next ((s.takeFailed .longOp).finishClose false).pump := by
      show execRouteCloseDone s = _
      simp only [execRouteCloseDone, hfailed.settled, hwork.work, live_powered hwork.1, hfailed.longFailed, if_true]
    rw [hrun, State.finishClose_eq (s := s.takeFailed .longOp) hwork.2]
    rfl

end Sys2Proof.Machine
end

section
/-! SUPPORT. What lies in a canonical store: the bytes that are not FFH, the slots that are not erased, and the judgement of
a slot by its bytes. -/

namespace Sys2Proof.Machine

/-! ### Rising lists -/

theorem mem_dedupRising {x : Nat} (l : List Nat) : x ∈ dedupRising l ↔ x ∈ l := by
  induction l using dedupRising.induct with
  | case1 => rfl
  | case2 a => rfl
  | case3 a l ih =>
    rw [dedupRising, if_pos rfl, ih]
    simp
  | case4 a b l hne ih => rw [dedupRising, if_neg hne, List.mem_cons, ih, ← List.mem_cons]

/-- Without its repeats a list that does not fall rises strictly. -/
theorem dedupRising_pairwise {l : List Nat} (h : l.Pairwise (· ≤ ·)) : (dedupRising l).Pairwise (· < ·) := by
  induction l using dedupRising.induct with
  | case1 => exact .nil
  | case2 a => exact List.pairwise_singleton _ _
  | case3 a l ih =>
    rw [dedupRising, if_pos rfl]
    exact ih h.of_cons
  | case4 a b l hne ih =>
    rw [dedupRising, if_neg hne]
    obtain ⟨hle, hrest⟩ := List.pairwise_cons.mp h
    refine List.pairwise_cons.mpr ⟨fun x hx => ?_, ih hrest⟩
    have hab := hle b (by simp)
    rcases List.mem_cons.mp ((mem_dedupRising _).mp hx) with rfl | hx
    · omega
    · have := (List.pairwise_cons.mp hrest).1 x hx
      omega

/-- Numbers read off a store in a way that does not fall. -/
theorem Memory.filterMap_pairwise {m : Memory} (h : m.wf) {f : Host.Cell → Option Nat}
    (hf : ∀ c d x y, c.1 < d.1 → f c = some x → f d = some y → x ≤ y) : (m.filterMap f).Pairwise (· ≤ ·) := by
  refine List.Pairwise.filterMap f ?_ h.1
  intro c d hcd x hx y hy
  exact hf c d x y hcd hx hy

/-! ### Bytes that are listed -/

theorem Memory.read_of_mem {m : Memory} (h : m.wf) {c : Host.Cell} (hc : c ∈ m) : m.read c.1 = c.2 := by
  unfold Memory.read
  cases hfind : m.find? (fun d => d.1 == c.1) with
  | none =>
    have := List.find?_eq_none.mp hfind c hc
    simp at this
  | some d =>
    have haddr : d.1 = c.1 := by simpa using List.find?_some hfind
    have hmem := List.mem_of_find?_eq_some hfind
    have hkeys : (m.map Prod.fst).Nodup := List.pairwise_map.mpr (h.1.imp fun hlt => hlt.ne)
    rw [List.inj_on_of_nodup_map hkeys hmem hc haddr]

/-- The bytes listed are those that are not FFH. -/
theorem Memory.exists_mem_iff {m : Memory} (h : m.wf) (a : Nat) : (∃ c ∈ m, c.1 = a) ↔ m.read a ≠ 0xFF#8 := by
  constructor
  · rintro ⟨c, hc, rfl⟩
    rw [Memory.read_of_mem h hc]
    exact h.2 c hc
  · intro hread
    unfold Memory.read at hread
    cases hfind : m.find? (fun d => d.1 == a) with
    | none => simp [hfind] at hread
    | some d => exact ⟨d, List.mem_of_find?_eq_some hfind, by simpa using List.find?_some hfind⟩

theorem erasedBytes_iff (bs : List Byte) : erasedBytes bs = true ↔ ∀ b ∈ bs, b = 0xFF#8 := by
  simp [erasedBytes]

/-- A run of bytes is erased where each of them reads FFH. -/
theorem Memory.erasedBytes_iff {m : Memory} (h : m.wf) (a n : Nat) :
    erasedBytes (m.bytes a n) = true ↔ ∀ i, i < n → m.read (a + i) = 0xFF#8 := by
  rw [Machine.erasedBytes_iff, Memory.bytes_eq m a n h]
  simp

theorem Memory.blank_iff {m : Memory} (h : m.wf) (a n : Nat) :
    m.blank a n = true ↔ ∀ i, i < n → m.read (a + i) = 0xFF#8 := by
  have hcells : m.blank a n = true ↔ ∀ c ∈ m, c.1 < a ∨ a + n ≤ c.1 := by simp [Memory.blank]
  rw [hcells]
  constructor
  · intro hout i hi
    by_contra hread
    obtain ⟨c, hc, haddr⟩ := (Memory.exists_mem_iff h (a + i)).mpr hread
    have := hout c hc
    omega
  · intro hread c hc
    by_contra hin
    have := hread (c.1 - a) (by omega)
    rw [show a + (c.1 - a) = c.1 by omega, Memory.read_of_mem h hc] at this
    exact h.2 c hc this

/-- The occupied slots of a region are those whose bytes are not all FFH, in ascending order. -/
theorem Memory.occupied_eq {m : Memory} (h : m.wf) (a n : Nat) :
    m.occupied a n = (List.range n).filter fun i => !erasedBytes (m.bytes (a + i * 32) 32) := by
  refine List.Pairwise.eq_of_mem_iff (r := (· < ·)) (dedupRising_pairwise (Memory.filterMap_pairwise h ?_))
    (List.pairwise_lt_range.filter _) fun i => ?_
  · intro c d x y hcd hx hy
    simp only [Option.ite_none_right_eq_some, Option.some.injEq] at hx hy
    obtain ⟨-, rfl⟩ := hx
    obtain ⟨-, rfl⟩ := hy
    exact Nat.div_le_div_right (by omega)
  · have herased : (!erasedBytes (m.bytes (a + i * 32) 32)) = true ↔ ∃ c ∈ m, a + i * 32 ≤ c.1 ∧ c.1 < a + i * 32 + 32 := by
      rw [Bool.not_eq_true', ← Bool.not_eq_true, Memory.erasedBytes_iff h]
      push Not
      constructor
      · rintro ⟨k, hk, hread⟩
        obtain ⟨c, hc, haddr⟩ := (Memory.exists_mem_iff h _).mpr hread
        exact ⟨c, hc, by omega, by omega⟩
      · rintro ⟨c, hc, hle, hlt⟩
        refine ⟨c.1 - (a + i * 32), by omega, ?_⟩
        rw [show a + i * 32 + (c.1 - (a + i * 32)) = c.1 by omega]
        exact (Memory.exists_mem_iff h c.1).mp ⟨c, hc, rfl⟩
    rw [Memory.occupied, mem_dedupRising, List.mem_filter, List.mem_range, herased, List.mem_filterMap]
    simp only [Option.ite_none_right_eq_some, Option.some.injEq]
    simp only [slotSize]
    constructor
    · rintro ⟨c, hc, ⟨hle, hlt⟩, rfl⟩
      exact ⟨by omega, c, hc, by omega, by omega⟩
    · rintro ⟨hi, c, hc, hle, hlt⟩
      exact ⟨c, hc, ⟨by omega, by omega⟩, by omega⟩

/-! ### The judgement of a slot -/

theorem beNat_append_two (a b : Byte) : beNat [a, b] = a.toNat * 256 + b.toNat := by simp [beNat]

/-- The CRC of a slot of 32 bytes agrees where its last two bytes spell the CRC of those before. -/
theorem crcAgrees_iff {bs : List Byte} (h : bs.length = 32) (n : Nat) :
    crcAgrees bs n = true ↔ beNat (bs.drop 30) = (crcK1 (bs.take n)).toNat := by
  have hcrc : (crcK1 (bs.take n)).toNat < 65536 := (crcK1 (bs.take n)).isLt
  have hslice : slice bs 30 2 = bs.drop 30 := List.take_of_length_le (by simp [h])
  rw [crcAgrees, beq_iff_eq, hslice, crcBytes]
  obtain ⟨a, b, hab⟩ : ∃ a b, bs.drop 30 = [a, b] := List.length_eq_two.mp (by simp [h])
  rw [hab]
  constructor
  · intro heq
    rw [heq, beNat_beBytes2 _ hcrc]
  · intro heq
    rw [← heq, beNat_append_two]
    have ha := a.isLt
    have hb := b.isLt
    simp only [beBytes]
    refine List.cons_eq_cons.mpr ⟨?_, List.cons_eq_cons.mpr ⟨?_, rfl⟩⟩
    · apply BitVec.eq_of_toNat_eq
      simp
      omega
    · apply BitVec.eq_of_toNat_eq
      simp
      omega

theorem judgeDir_erased {bs : List Byte} (h : erasedBytes bs = true) : judgeDir bs = .erased := if_pos h

theorem judgeDir_eq_erased_iff {bs : List Byte} : judgeDir bs = .erased ↔ erasedBytes bs = true := by
  unfold judgeDir
  split
  · simp [*]
  · split <;> simp [*]

theorem judgeDir_valid {bs : List Byte} (he : erasedBytes bs = false) (h : crcAgrees bs 30 = true) :
    judgeDir bs = .valid (routeRecordOf bs) := by simp [judgeDir, he, h]

theorem judgeDir_damaged {bs : List Byte} (he : erasedBytes bs = false) (h : crcAgrees bs 30 = false) :
    judgeDir bs = .damaged := by simp [judgeDir, he, h]

end Sys2Proof.Machine
end

section
/-! SUPPORT. The directory of a canonical store, and the tables its records make (R40, R47, R49). -/

namespace Sys2Proof.Machine

/-! ### The directory slot by slot -/

/-- Slot `i` of the route directory, judged. -/
def Memory.judgedSlot (m : Memory) (i : Nat) : DirSlot := judgeDir (m.bytes (131072 + 32 * i) 32)

theorem Memory.directory_eq {m : Memory} (h : m.wf) : m.directory =
    ((List.range 32768).filter fun i => !erasedBytes (m.bytes (131072 + 32 * i) 32)).map fun i => (i, m.judgedSlot i) := by
  have haddr (i : Nat) : 131072 + i * 32 = 131072 + 32 * i := by omega
  unfold Memory.directory
  rw [Memory.occupied_eq h]
  simp only [dirSector, sectorSize, slotSize, dirSectors, sectorSlots, Memory.judgedSlot, haddr, Nat.reduceMul]

/-- What is read off the slots that are not erased is what is read off all of them, where an erased one gives nothing. -/
theorem Memory.directory_filterMap {m : Memory} (h : m.wf) {α : Type} (f : Nat × DirSlot → Option α)
    (hf : ∀ i, f (i, .erased) = none) :
    m.directory.filterMap f = (List.range 32768).filterMap fun i => f (i, m.judgedSlot i) := by
  rw [Memory.directory_eq h, List.filterMap_map, List.filterMap_filter]
  refine List.filterMap_congr fun i _ => ?_
  split
  · rfl
  next herased =>
    have hslot : m.judgedSlot i = .erased := judgeDir_erased (by simpa using herased)
    rw [hslot, hf]

theorem Memory.digest_eq {m : Memory} (h : m.wf) : m.digest = crc32 (m.bytes 131072 1048576) := by
  rw [Memory.digest, Memory.foldBytes_eq _ _ _ _ _ h, crc32, Memory.bytes_eq _ _ _ h, List.foldl_map]
  rfl

/-! ### Whole directories -/

theorem indicesComplete_iff {rs : List RouteRecord} {n : Nat} :
    indicesComplete rs n = true ↔ rs.length = n ∧ ∀ i, i < n → ∃ r ∈ rs, r.index = i := by
  simp [indicesComplete]

/-- As many records as indices, and each index there: they are each there once. -/
theorem indices_perm {rs : List RouteRecord} {n : Nat} (hlen : rs.length = n) (hall : ∀ i, i < n → ∃ r ∈ rs, r.index = i) :
    (List.range n).Perm (rs.map (·.index)) := by
  have hsubset : List.range n ⊆ rs.map (·.index) := fun i hi => List.mem_map.mpr (hall i (List.mem_range.mp hi))
  exact (List.nodup_range.subperm hsubset).perm_of_length_le (by simp [hlen])

theorem State.directoryWhole_iff (s : State) : s.directoryWhole = true ↔ s.store.damagedBuckets = []
    ∧ s.store.routeRecords.length = s.rm.meterCount
    ∧ ∀ i, i < s.rm.meterCount → ∃ r ∈ s.store.routeRecords, r.index = i := by
  rw [State.directoryWhole, Bool.and_eq_true, indicesComplete_iff, List.isEmpty_iff]

/-! ### The status table -/

/-- The records' entries written one after the other. -/
def writeEntries (utilities : BitVec 16) (l : List StatusEntry) (rs : List RouteRecord) : List StatusEntry :=
  rs.foldl (fun l r => l.set r.index (statusOfRecord utilities r)) l

theorem statusTable_eq (utilities : BitVec 16) (n : Nat) (rs : List RouteRecord) :
    statusTable utilities n rs = writeEntries utilities (List.replicate n ⟨0#32, 0, .unread, none, none⟩) rs := rfl

section
variable {utilities : BitVec 16} {l : List StatusEntry} {rs : List RouteRecord}

theorem writeEntries_length : (writeEntries utilities l rs).length = l.length := by
  induction rs generalizing l with
  | nil => rfl
  | cons r rs ih => exact ih.trans List.length_set

theorem writeEntries_other {i : Nat} (h : ∀ r ∈ rs, r.index ≠ i) : (writeEntries utilities l rs)[i]? = l[i]? := by
  induction rs generalizing l with
  | nil => rfl
  | cons r rs ih =>
    have hrest : (writeEntries utilities (l.set r.index (statusOfRecord utilities r)) rs)[i]? = _ :=
      ih fun q hq => h q (by simp [hq])
    exact hrest.trans (List.getElem?_set_ne (h r (by simp)))

/-- Each record's entry stands at its index, the indices being different. -/
theorem writeEntries_entry (hdistinct : (rs.map (·.index)).Nodup) {r : RouteRecord} (hr : r ∈ rs)
    (hin : r.index < l.length) : (writeEntries utilities l rs)[r.index]? = some (statusOfRecord utilities r) := by
  induction rs generalizing l with
  | nil => cases hr
  | cons q rs ih =>
    obtain ⟨hq, hrest⟩ := List.nodup_cons.mp hdistinct
    rcases List.mem_cons.mp hr with rfl | hmem
    · have hkept : (writeEntries utilities (l.set r.index (statusOfRecord utilities r)) rs)[r.index]? = _ :=
        writeEntries_other fun p hp heq => hq (List.mem_map.mpr ⟨p, hp, heq⟩)
      exact hkept.trans (List.getElem?_set_self hin)
    · exact ih hrest hmem (by simpa using hin)

/-- Every entry is one of before, or a record's. -/
theorem writeEntries_forall {P : StatusEntry → Prop} (hl : ∀ e ∈ l, P e) (hrec : ∀ r ∈ rs, P (statusOfRecord utilities r)) :
    ∀ e ∈ writeEntries utilities l rs, P e := by
  induction rs generalizing l with
  | nil => exact hl
  | cons r rs ih =>
    refine ih (fun e he => ?_) fun q hq => hrec q (by simp [hq])
    rcases List.mem_or_eq_of_mem_set he with h | rfl
    · exact hl e h
    · exact hrec r (by simp)

end

/-- A table just built holds entries UNREAD and EXCLUDED alone. -/
theorem statusTable_fresh (utilities : BitVec 16) (n : Nat) (rs : List RouteRecord) :
    ∀ e ∈ statusTable utilities n rs, e.status = .unread ∨ e.status = .excluded := by
  rw [statusTable_eq]
  refine writeEntries_forall (fun e he => ?_) fun r _ => ?_
  · rw [List.eq_of_mem_replicate he]
    exact .inl rfl
  · simp only [statusOfRecord]
    split
    · exact .inl rfl
    · exact .inr rfl

theorem statusTable_length (utilities : BitVec 16) (n : Nat) (rs : List RouteRecord) :
    (statusTable utilities n rs).length = n := by
  rw [statusTable_eq, writeEntries_length, List.length_replicate]

theorem statusTable_entry {utilities : BitVec 16} {n : Nat} {rs : List RouteRecord} (hlen : rs.length = n)
    (hall : ∀ i, i < n → ∃ r ∈ rs, r.index = i) {r : RouteRecord} (hr : r ∈ rs) :
    (statusTable utilities n rs)[r.index]? = some (statusOfRecord utilities r) := by
  have hperm := indices_perm hlen hall
  have hin : r.index < n := List.mem_range.mp (hperm.mem_iff.mpr (List.mem_map.mpr ⟨r, hr, rfl⟩))
  rw [statusTable_eq]
  exact writeEntries_entry (hperm.nodup_iff.mp List.nodup_range) hr (by simpa using hin)

/-! ### The segment table -/

theorem segmentTable_get (status : List StatusEntry) (seg : Fin 256) :
    let mine := status.filter (fun e => e.segment == seg)
    let excluded := mine.countP (fun e => e.status == .excluded)
    let read := mine.countP (fun e => e.status == .read || e.status == .flagged)
    (segmentTable status)[seg] = ⟨mine.length, excluded, read, mine.countP (fun e => e.status == .flagged),
      decide (read = mine.length - excluded ∧ mine.length - excluded ≠ 0)⟩ := by
  intro mine excluded read
  have hcounts : mine.countP (fun e => e.status.counts) = read := by
    refine List.countP_congr fun e _ => ?_
    rw [MeterStatus.counts_iff]
    simp
  rw [segmentTable, Fin.getElem_fin, Vector.getElem_ofFn]
  simp only [SegmentEntry.active, Fin.eta]
  rw [hcounts, Bool.decide_and, decide_not]
  rfl

/-- The segments of a table just built: nothing read, and none done. -/
theorem segmentTable_fresh {status : List StatusEntry} (h : ∀ e ∈ status, e.status = .unread ∨ e.status = .excluded)
    (seg : Fin 256) : (segmentTable status)[seg] = ⟨status.countP (·.segment == seg),
      status.countP (fun e => e.segment == seg && e.status == .excluded), 0, 0, false⟩ := by
  have hzero (p : StatusEntry → Bool) (hp : ∀ e, p e = true → e.status = .read ∨ e.status = .flagged) :
      (status.filter (fun e => e.segment == seg)).countP p = 0 := by
    rw [List.countP_eq_zero]
    intro e he hpe
    have hstatus := h e (List.mem_of_mem_filter he)
    rcases hp e hpe with hread | hread <;> simp [hread] at hstatus
  have hread := hzero (fun e => e.status == .read || e.status == .flagged) (by simp)
  have hflagged := hzero (fun e => e.status == .flagged) fun e he => .inr (by simpa using he)
  have hexcluded : (status.filter (fun e => e.segment == seg)).countP (fun e => e.status == .excluded)
      = status.countP (fun e => e.segment == seg && e.status == .excluded) := by
    rw [List.countP_filter]
    exact List.countP_congr fun e _ => by rw [Bool.and_comm]
  rw [segmentTable_get]
  simp only [hread, hflagged, hexcluded, List.countP_eq_length_filter (p := fun e : StatusEntry => e.segment == seg)]
  congr 1
  rw [decide_eq_false_iff_not]
  omega

end Sys2Proof.Machine
end

section
/-! SUPPORT. The damaged slots that a read of the directory reports, and ROUTE OPEN (R49, R50). -/

namespace Sys2Proof.Machine

variable {s : State} {tag : Byte}

/-! ### The report -/

/-- What events keep, a report keeps. -/
theorem State.reportDamaged_induct (P : State → Prop) (hraise : ∀ (t : State) (e : Event) (d : Word), P t → P (t.raise e d))
    (hbump : ∀ n, P (s.bump .dirCrc n)) (sec : Nat) : P (s.reportDamaged sec) := by
  have h (l : List Nat) (u : State) (hu : P u) :
      P (l.foldl (fun t b => t.raise .dirCrc (BitVec.ofNat 32 b)) u) := by
    induction l generalizing u with
    | nil => exact hu
    | cons b l ih => exact ih _ (hraise _ _ _ hu)
  exact h _ _ (hbump _)

/-- A report counts and raises events: of the state, counters and the link's notices and flags alone. -/
theorem State.reportDamaged_eq (sec : Nat) (s : State) : s.reportDamaged sec =
    { s with counters := (s.reportDamaged sec).counters, tl := s.tl.signal (s.reportDamaged sec).tl } := by
  refine State.reportDamaged_induct (fun t => t = { s with counters := t.counters, tl := s.tl.signal t.tl })
    (fun t e d ht => ?_) (fun n => rfl) sec
  have htl : (t.raise e d).tl = s.tl.signal (t.raise e d).tl := by
    refine Trunk.signal_trans ?_ (State.raise_tl e d t)
    rw [ht]
    rfl
  apply State.ext_fields
  case h17 => exact htl
  all_goals simp only [State.raise_pending, State.raise_powered, State.raise_freeIndex, State.raise_ports,
    State.raise_channels, State.raise_families, State.raise_tb, State.raise_rm, State.raise_cl, State.raise_mc,
    State.raise_rules, State.raise_store, State.raise_port, State.raise_startup, State.raise_storeFailed,
    State.raise_journal, State.raise_ue]
  all_goals rw [ht]

/-- With no damaged slot nothing is reported. -/
theorem State.reportDamaged_none (h : s.store.damagedBuckets = []) (sec : Nat) :
    s.reportDamaged sec = s.bump .dirCrc 0 := by
  simp [State.reportDamaged, h]

/-! ### ROUTE OPEN -/

/-- What each byte of a slot says of its judgement (R40). -/
theorem judgeDir_cases {bs : List Byte} (hlen : bs.length = 32) :
    ((∀ b ∈ bs, b = 0xFF#8) → judgeDir bs = .erased) ∧
    (¬ (∀ b ∈ bs, b = 0xFF#8) → beNat (bs.drop 30) = (crcK1 (bs.take 30)).toNat →
      judgeDir bs = .valid (routeRecordOf bs)) ∧
    (¬ (∀ b ∈ bs, b = 0xFF#8) → beNat (bs.drop 30) ≠ (crcK1 (bs.take 30)).toNat → judgeDir bs = .damaged) := by
  rw [← erasedBytes_iff, Bool.not_eq_true, ← crcAgrees_iff hlen, ne_eq, ← crcAgrees_iff hlen, Bool.not_eq_true]
  exact ⟨judgeDir_erased, judgeDir_valid, judgeDir_damaged⟩

theorem Memory.routeRecords_eq {m : Memory} (h : m.wf) : m.routeRecords =
    (List.range 32768).filterMap fun i => match m.judgedSlot i with | .valid r => some r | _ => none :=
  Memory.directory_filterMap h _ fun _ => rfl

theorem Memory.damagedBuckets_eq {m : Memory} (h : m.wf) : m.damagedBuckets =
    (List.range 32768).filterMap fun i => match m.judgedSlot i with | .damaged => some (i / 8) | _ => none :=
  Memory.directory_filterMap h _ fun _ => rfl

/-- The next sector of a read of the directory (log 7). -/
theorem dirRead_pred {n : Nat} (h : 1 < n) (h' : n ≤ 16) : dirRead (n - 1) = .read ((19 - n) * 65536) 65536 := by
  have hsector : 2 + 16 - (n - 1) = 19 - n := by omega
  simp only [dirRead, leftSector, dirSector, dirSectors, sectorSize, hsector]

/-- The end of a read of the directory in the middle of ROUTE OPEN. -/
theorem State.afterLongOp_openRead {n a len : Nat} (hn : 1 < n) (hport : s.inPort .longOp (.read a len)) :
    s.afterLongOp (.openRead n) (.read a len) =
      some ((({ s with port := s.port.freed }.reportDamaged (leftSector dirSector dirSectors n)).setWork
        (.openRead (n - 1))).request .longOp (dirRead (n - 1))) := by
  rw [← hport.endOp_read]
  exact if_pos hn

/-- A report leaves the work of the long operation. -/
theorem State.reportDamaged_longOp (sec : Nat) (s : State) : (s.reportDamaged sec).tl.longOp = s.tl.longOp := by
  rw [State.reportDamaged_eq]
  rfl

theorem State.openDirRead_refused (h : ({ s with port := s.port.freed }.reportDamaged 17).directoryWhole = false) :
    ({ s with port := s.port.freed } : State).openDirRead = ({ s with port := s.port.freed }.reportDamaged 17).unbuild.endLong
      .badState (beBytes 2 ({ s with port := s.port.freed }.reportDamaged 17).store.damagedBuckets.length) :=
  if_neg (by rw [Bool.not_eq_true]; exact h)

/-- Settles O26: the judgement of a slot, the directory of a canonical store slot by slot, and ROUTE OPEN read by read,
with the tables of a whole directory (`statusTable_entry`, `segmentTable_fresh`). -/
theorem routeOpenBuildsTheTables : Obligations.RouteOpenBuildsTheTables := by
  refine ⟨fun bs hlen => judgeDir_cases hlen, fun m hwf => ⟨Memory.routeRecords_eq hwf, Memory.damagedBuckets_eq hwf,
    Memory.digest_eq hwf⟩, fun tag s => ?_⟩
  intro reported
  have hreported (sec : Nat) : reported sec = ({ s with port := s.port.freed } : State).reportDamaged sec := rfl
  refine ⟨fun haccepts => ?start, fun n a len hn hn' hwork hport hpending => ?next, fun a len hwork hport => ?done,
    fun n hwork hfailed => ?failed⟩
  case start =>
    have hruns : exec (.routeOpen tag []) s = .next _ := haccepts.runs rfl
    rw [hruns, State.takeFrame_rm]
    split <;> rfl
  case next =>
    rw [hport.step_longOp hwork.1 hpending hwork.2 (State.afterLongOp_openRead hn hport), dirRead_pred hn hn']
    have hsector : leftSector dirSector dirSectors n = 18 - n := rfl
    have hlong : (reported (18 - n)).tl.longOp = some ⟨0x34#8, tag, .openRead n, none⟩ :=
      (State.reportDamaged_longOp _ _).trans hwork.2
    rw [hsector, ← hreported, State.setWork_eq hlong]
    rfl
  case done =>
    intro records damaged t
    have hsettled : s.settled = s := hport.settled_longOp hwork.2 rfl
    have hrun : exec .routeOpenReadDone s = .next ({ s with port := s.port.freed } : State).openDirRead.pump := by
      show execRouteOpenReadDone s = _
      simp only [execRouteOpenReadDone, hsettled, hwork.work, live_powered hwork.1, hport.longFailed, hport.longInFlight,
        hport.endOp_read]
      rfl
    have hlong : t.tl.longOp = some ⟨0x34#8, tag, .openRead 1, none⟩ := (State.reportDamaged_longOp _ _).trans hwork.2
    have hstore : t.store = s.store := by
      show (reported 17).store = _
      rw [hreported, State.reportDamaged_eq]
    have hrm : t.rm = s.rm := by
      show (reported 17).rm = _
      rw [hreported, State.reportDamaged_eq]
    have hwhole : t.directoryWhole = true ↔ damaged = [] ∧ records.length = s.rm.meterCount
        ∧ ∀ i, i < s.rm.meterCount → ∃ r ∈ records, r.index = i := by
      rw [State.directoryWhole_iff, hstore, hrm]
    refine ⟨fun hbad => ?refused, fun hdamaged hlen hall => ?whole⟩
    case refused =>
      have hnot : t.directoryWhole = false := by
        rw [← Bool.not_eq_true, hwhole]
        exact hbad
      rw [hrun, State.openDirRead_refused hnot]
      show Host.Outcome.next (t.unbuild.endLong .badState (beBytes 2 t.store.damagedBuckets.length)).pump = _
      have hcount : t.store.damagedBuckets.length = damaged.length := by rw [hstore]
      rw [State.endLong_eq (s := t.unbuild) hlong, hcount]
      simp only [State.unbuild, hrm]
      rfl
    case whole =>
      intro day
      have hbuilt : ({ s with port := s.port.freed } : State).openDirRead =
          (t.buildTables.setWork (.openHeader t.journal.nextSerial t.tb.openDay)).request .longOp
            (t.buildTables.headerOp (t.buildTables.workHeader (.openHeader t.journal.nextSerial t.tb.openDay))) :=
        if_pos (hwhole.mpr ⟨hdamaged, hlen, hall⟩)
      have ht : t = ({ s with port := s.port.freed } : State).bump .dirCrc 0 :=
        (hreported 17).trans (State.reportDamaged_none (s := { s with port := s.port.freed }) hdamaged 17)
      rw [hrun, hbuilt, State.setWork_eq (s := t.buildTables) hlong]
      refine ⟨statusTable s.cl.utilities s.rm.meterCount records,
        segmentTable (statusTable s.cl.utilities s.rm.meterCount records), ?_, statusTable_length _ _ _,
        fun r hr => statusTable_entry hlen hall hr, segmentTable_fresh (statusTable_fresh _ _ _)⟩
      rw [ht]
      rfl
  case failed =>
    have hrun : exec .routeOpenReadDone s = .next ((s.failLong []).unbuild).pump := by
      show execRouteOpenReadDone s = _
      simp only [execRouteOpenReadDone, hfailed.settled, hwork.work, live_powered hwork.1, hfailed.longFailed, if_true]
    rw [hrun, State.failLong, State.endLong_eq (s := s.takeFailed .longOp) hwork.2]
    rfl

end Sys2Proof.Machine
end

section
/-! SUPPORT. The slots of the route header sector (R42), and the rows that write a header. -/

namespace Sys2Proof.Machine

variable {s : State} {m : Memory} {tag : Byte}

/-! ### The header sector -/

/-- The bytes of header slot `i`. -/
def Memory.headerBytesAt (m : Memory) (i : Nat) : List Byte := m.bytes (65536 + 32 * i) 32

/-- The header slots that are not erased, in ascending order. -/
def Memory.headerSlots (m : Memory) : List Nat := (List.range 2048).filter fun i => !erasedBytes (m.headerBytesAt i)

theorem Memory.occupied_header (h : m.wf) : m.occupied (headerSector * sectorSize) sectorSlots = m.headerSlots := by
  have haddr (i : Nat) : 1 * 65536 + i * 32 = 65536 + 32 * i := by omega
  rw [Memory.occupied_eq h]
  simp only [headerSector, sectorSize, sectorSlots, haddr]
  rfl

theorem Memory.slot_header (m : Memory) (i : Nat) : m.slot headerSector i = m.headerBytesAt i := by
  have haddr : 1 * 65536 + i * 32 = 65536 + 32 * i := by omega
  simp only [Memory.slot, slotAddr, headerSector, sectorSize, slotSize, haddr, Memory.headerBytesAt]

theorem Memory.mem_headerSlots {i : Nat} : i ∈ m.headerSlots ↔ i < 2048 ∧ erasedBytes (m.headerBytesAt i) = false := by
  simp [Memory.headerSlots]

theorem Memory.headerSlots_pairwise (m : Memory) : m.headerSlots.Pairwise (· < ·) := List.pairwise_lt_range.filter _

/-- The last number of a rising list. -/
theorem getLast?_of_rising {l : List Nat} (h : l.Pairwise (· < ·)) {i : Nat} (hi : i ∈ l) (hlast : ∀ j ∈ l, j ≤ i) :
    l.getLast? = some i := by
  obtain ⟨pre, post, rfl⟩ := List.append_of_mem hi
  cases post with
  | nil => simp
  | cons j post =>
    have hlt : i < j := (List.pairwise_cons.mp (List.pairwise_append.mp h).2.1).1 j (by simp)
    have hle := hlast j (by simp)
    omega

/-- What is found in a rising list from its end. -/
theorem findSome?_reverse_of_rising {α : Type} {l : List Nat} (h : l.Pairwise (· < ·)) {f : Nat → Option α} {i : Nat} {x : α}
    (hi : i ∈ l) (hx : f i = some x) (hlast : ∀ j ∈ l, i < j → f j = none) : l.reverse.findSome? f = some x := by
  obtain ⟨pre, post, rfl⟩ := List.append_of_mem hi
  rw [List.findSome?_eq_some_iff]
  refine ⟨post.reverse, i, pre.reverse, by simp, hx, fun j hj => ?_⟩
  have hmem : j ∈ post := List.mem_reverse.mp hj
  exact hlast j (by simp [hmem]) ((List.pairwise_cons.mp (List.pairwise_append.mp h).2.1).1 j hmem)

theorem headerOf?_erased {bs : List Byte} (h : erasedBytes bs = true) : headerOf? bs = none := by
  have hfirst : natAt bs 0 = 0 ∨ natAt bs 0 = 255 := by
    cases bs with
    | nil => exact .inl rfl
    | cons b bs =>
      right
      have hb : b = 0xFF#8 := (erasedBytes_iff _).mp h b (by simp)
      rw [hb]
      rfl
  unfold headerOf?
  rcases hfirst with h0 | h0 <;> simp [h0]

theorem Memory.latestHeader_some (hwf : m.wf) {i : Nat} {h : RouteHeader} (hi : i < 2048)
    (hvalid : headerOf? (m.headerBytesAt i) = some h)
    (hlast : ∀ j, i < j → j < 2048 → headerOf? (m.headerBytesAt j) = none) : m.latestHeader = some h := by
  rw [Memory.latestHeader, Memory.occupied_header hwf]
  simp only [Memory.slot_header]
  refine findSome?_reverse_of_rising m.headerSlots_pairwise (Memory.mem_headerSlots.mpr ⟨hi, ?_⟩) hvalid
    fun j hj hij => hlast j hij (Memory.mem_headerSlots.mp hj).1
  rw [← Bool.not_eq_true]
  intro herased
  rw [headerOf?_erased herased] at hvalid
  cases hvalid

theorem Memory.latestHeader_none (hwf : m.wf) (h : ∀ i, i < 2048 → headerOf? (m.headerBytesAt i) = none) :
    m.latestHeader = none := by
  rw [Memory.latestHeader, Memory.occupied_header hwf]
  simp only [Memory.slot_header, List.findSome?_eq_none_iff, List.mem_reverse]
  exact fun i hi => h i (Memory.mem_headerSlots.mp hi).1

theorem Memory.headerSlot_empty (hwf : m.wf) (h : ∀ i, i < 2048 → erasedBytes (m.headerBytesAt i) = true) :
    m.headerSlot = some 0 := by
  have hnone : m.headerSlots = [] := by
    rw [List.eq_nil_iff_forall_not_mem]
    intro i hi
    obtain ⟨hlt, herased⟩ := Memory.mem_headerSlots.mp hi
    rw [h i hlt] at herased
    cases herased
  rw [Memory.headerSlot, Memory.occupied_header hwf, hnone]
  rfl

theorem Memory.headerSlot_after (hwf : m.wf) {i : Nat} (hi : i < 2048) (hused : erasedBytes (m.headerBytesAt i) = false)
    (hlast : ∀ j, i < j → j < 2048 → erasedBytes (m.headerBytesAt j) = true) :
    m.headerSlot = if i = 2047 then none else some (i + 1) := by
  have hle (j : Nat) (hj : j ∈ m.headerSlots) : j ≤ i := by
    obtain ⟨hlt, hnot⟩ := Memory.mem_headerSlots.mp hj
    by_contra hij
    rw [hlast j (by omega) hlt] at hnot
    cases hnot
  have hget := getLast?_of_rising m.headerSlots_pairwise (Memory.mem_headerSlots.mpr ⟨hi, hused⟩) hle
  rw [Memory.headerSlot, Memory.occupied_header hwf, hget]
  show (if i + 1 < 2048 then some (i + 1) else none) = _
  split
  · rw [if_neg (by omega)]
  · rw [if_pos (by omega)]

/-- An erased sector takes the header in its first slot. -/
theorem Memory.headerSlot_clear (m : Memory) : (m.clear 65536 65536).headerSlot = some 0 := by
  have hnone : (m.clear 65536 65536).occupied (headerSector * sectorSize) sectorSlots = [] := by
    have hout : (m.clear 65536 65536).filterMap (fun c => if headerSector * sectorSize ≤ c.1
        ∧ c.1 < headerSector * sectorSize + sectorSlots * slotSize
        then some ((c.1 - headerSector * sectorSize) / slotSize) else none) = [] := by
      rw [List.filterMap_eq_nil_iff]
      intro c hc
      rw [if_neg]
      simp only [Memory.clear, List.mem_append, List.mem_filter, decide_eq_true_eq] at hc
      simp only [headerSector, sectorSize, sectorSlots, slotSize]
      omega
    rw [Memory.occupied, hout]
    rfl
  rw [Memory.headerSlot, hnone]
  rfl

theorem State.headerOp_of_slot {i : Nat} (h : s.store.headerSlot = some i) (hd : RouteHeader) :
    s.headerOp hd = .program (65536 + 32 * i) (headerBytes hd) := by
  have haddr : 1 * 65536 + i * 32 = 65536 + 32 * i := by omega
  simp only [State.headerOp, h, slotAddr, headerSector, sectorSize, slotSize, haddr]

theorem State.headerOp_full (h : s.store.headerSlot = none) (hd : RouteHeader) : s.headerOp hd = .erase 1 := by
  simp only [State.headerOp, h]
  rfl

/-- The header program after the erase of a full sector. -/
theorem State.headerOp_cleared (h : s.store = m.clear 65536 65536) (hd : RouteHeader) :
    s.headerOp hd = .program 65536 (headerBytes hd) :=
  State.headerOp_of_slot (h ▸ m.headerSlot_clear) hd

/-! ### The rows -/

/-- With no resume writing its CLOSED header, the row is the command's. -/
theorem exec_routeHeaderWriteDone {t : State} (hpow : s.powered = true) (hsettled : s.settled = s)
    (hstart : s.startup ≠ .resumeClose) (h : s.commandHeader = some t) :
    exec .routeHeaderWriteDone s = .next t.pump := by
  have hresume : s.resumeHeader = none := if_neg hstart
  show execRouteHeaderWriteDone s = _
  simp only [execRouteHeaderWriteDone, hsettled, hresume, h, live_powered hpow]

/-- The header program of a command has ended. -/
theorem State.commandHeader_written {code : Byte} {w : Work} {a : Nat} {bs : List Byte} (hwork : s.working code tag w)
    (hport : s.inPort .longOp (.program a bs)) : s.commandHeader =
      ({ s with store := (StoreOp.program a bs).apply s.store, port := s.port.freed } : State).headerWritten w := by
  rw [← hport.endOp]
  simp only [State.commandHeader, hwork.work, hport.longFailed, hport.longInFlight, hport.programInFlight]
  rfl

theorem State.commandHeader_failed {code : Byte} {w : Work} (hwork : s.working code tag w) (h : s.unanswered .longOp) :
    s.commandHeader = s.headerFailed w := by
  simp only [State.commandHeader, hwork.work, h.longFailed, if_true]

/-- The erase of a full header sector has ended: the header is programmed into its first slot. -/
theorem State.step_headerErased {code : Byte} {w : Work} {h : RouteHeader} (hwork : s.working code tag w)
    (hport : s.inPort .longOp (.erase 1)) (hpending : s.pending = [])
    (hafter : s.afterLongOp w (.erase 1) = some (s.endOp.request .longOp (s.endOp.headerOp (s.endOp.workHeader w))))
    (hheader : s.workHeader w = h) :
    step s = .next (({ s with store := s.store.clear 65536 65536, port := s.port.freed } : State).request .longOp
      (.program 65536 (headerBytes h))).pump := by
  have hended : s.endOp = { s with store := s.store.clear 65536 65536, port := s.port.freed } := hport.endOp
  have hsame : s.endOp.workHeader w = h := by
    rw [hended, ← hheader]
    rfl
  rw [hport.step_longOp hwork.1 hpending hwork.2 hafter, hsame, State.headerOp_cleared (s := s.endOp) (m := s.store)
    (by rw [hended]), hended]

/-- Settles O27: the header sector slot by slot, and the end of each write by the work that makes it. -/
theorem headerWritesMoveTheRouteState : Obligations.HeaderWritesMoveTheRouteState := by
  intro tag s hstart
  refine ⟨fun hstore => ⟨fun i h => Memory.latestHeader_some hstore, Memory.latestHeader_none hstore,
    fun h => ⟨fun hempty => ?empty, fun i hi hused hlast => ?after⟩⟩, fun hport hpending => ?erased,
    fun a bs hport => ?written, fun hfailed => ?failed⟩
  case empty => exact State.headerOp_of_slot (Memory.headerSlot_empty hstore hempty) h
  case after =>
    have hslot := Memory.headerSlot_after hstore hi hused hlast
    split at hslot
    next heq => rw [if_pos heq, State.headerOp_full hslot]
    next hne => rw [if_neg hne, State.headerOp_of_slot hslot]
  case erased =>
    intro t written r
    exact ⟨fun segments hwork => State.step_headerErased hwork hport hpending rfl rfl,
      fun serial day hwork => State.step_headerErased hwork hport hpending rfl rfl,
      fun hwork => State.step_headerErased hwork hport hpending rfl rfl⟩
  case written =>
    intro t
    have hrow {code : Byte} {w : Work} {u : State} (hwork : s.working code tag w)
        (hsettled : s.afterLongOp w (.program a bs) = none) (h : t.headerWritten w = some u) :
        exec .routeHeaderWriteDone s = .next u.pump :=
      exec_routeHeaderWriteDone hwork.1 (hport.settled_longOp hwork.2 hsettled) hstart
        ((State.commandHeader_written hwork hport).trans h)
    refine ⟨fun segments hwork => hrow hwork rfl ?_, fun serial day hwork => hrow hwork rfl ?_,
      fun hwork => hrow hwork rfl ?_⟩
    · exact congrArg some (State.endLong_eq (s := t.setRoute _) hwork.2 _ _)
    · exact congrArg some (State.endLong_eq (s := t.setRoute _) hwork.2 _ _)
    · exact congrArg some (State.setWork_eq (s := t.routeTo .closed) hwork.2 _)
  case failed =>
    have hrow {code : Byte} {w : Work} {u : State} (hwork : s.working code tag w) (h : s.headerFailed w = some u) :
        exec .routeHeaderWriteDone s = .next u.pump :=
      exec_routeHeaderWriteDone hwork.1 hfailed.settled hstart ((State.commandHeader_failed hwork hfailed).trans h)
    have hended {code : Byte} {w : Work} (hwork : s.working code tag w) :
        s.failLong [] = { s with port := s.port.told .longOp, tl := s.tl.ended code tag .storeFault [] } :=
      State.endLong_eq (s := s.takeFailed .longOp) hwork.2 _ _
    refine ⟨fun segments hwork => hrow hwork ?_, fun serial day hwork => hrow hwork ?_, fun hwork => hrow hwork ?_⟩
    · rw [State.headerFailed, hended hwork]
      rfl
    · rw [State.headerFailed, hended hwork]
      rfl
    · exact congrArg some (State.setWork_eq (s := s.takeFailed .longOp) hwork.2 _)

end Sys2Proof.Machine
end

section
/-! SUPPORT. The start-up path from the route header on (R43, R57 to R59). -/

namespace Sys2Proof.Machine

variable {s : State}

/-! ### The replay's slots -/

/-- The status entry that a journal record fits (R58). -/
def State.FitsEntry (s : State) (bs : List Byte) (e : StatusEntry) : Prop :=
  s.rm.status[recIndex bs]? = some e ∧ recIndex bs < s.rm.meterCount ∧ e.meterId = recMeter bs ∧ e.status ≠ .excluded

/-- The status entry once a record is replayed into it (R58). -/
def StatusEntry.replayed (e : StatusEntry) (bs : List Byte) : StatusEntry :=
  { e with
    status := if recFlags bs &&& 0x003F#16 ≠ 0#16 ∨ e.status = .flagged then .flagged else .read,
    lastValue := some (recValue bs), lastCommit := none }

section
variable {sec slot rep skip : Nat} {bs : List Byte}

theorem State.replaySlot_other (h : ∀ bs, judgeJournal (s.store.slot sec slot) ≠ .valid bs) :
    s.replaySlot sec slot rep skip = (s, rep, skip) := by
  unfold State.replaySlot
  split
  next bs hbs => exact absurd hbs (h bs)
  next => rfl

theorem State.replaySlot_passed (h : judgeJournal (s.store.slot sec slot) = .valid bs)
    (hpass : recSerial bs < s.rm.firstSerial ∨ recIndex bs = 65535) : s.replaySlot sec slot rep skip = (s, rep, skip) := by
  simp only [State.replaySlot, h]
  exact if_pos hpass

theorem State.replaySlot_fits {e : StatusEntry} (h : judgeJournal (s.store.slot sec slot) = .valid bs)
    (hserial : s.rm.firstSerial ≤ recSerial bs) (hindex : recIndex bs ≠ 65535) (hfit : s.FitsEntry bs e) :
    s.replaySlot sec slot rep skip =
      ({ s with rm := { s.rm with status := s.rm.status.set (recIndex bs) (e.replayed bs) } }, rep + 1, skip) := by
  obtain ⟨hentry, hcount, hmeter, hin⟩ := hfit
  have hgo : ¬ (recSerial bs < s.rm.firstSerial ∨ recIndex bs = none16) := by
    rintro (hlt | hnone)
    · omega
    · exact hindex hnone
  have hfits : recIndex bs < s.rm.meterCount ∧ e.meterId = recMeter bs ∧ e.status ≠ .excluded := ⟨hcount, hmeter, hin⟩
  have hstatus : (if alarmBits (recFlags bs) || e.status == .flagged then MeterStatus.flagged else .read)
      = (e.replayed bs).status := by
    refine if_congr ?_ rfl rfl
    rw [Bool.or_eq_true, alarmBits_iff, beq_iff_eq]
  simp only [State.replaySlot, h, if_neg hgo, hentry, if_pos hfits, hstatus]
  rfl

theorem State.replaySlot_skips (h : judgeJournal (s.store.slot sec slot) = .valid bs)
    (hserial : s.rm.firstSerial ≤ recSerial bs) (hindex : recIndex bs ≠ 65535) (hfit : ∀ e, ¬ s.FitsEntry bs e) :
    s.replaySlot sec slot rep skip = (s.bump .replaySkip, rep + 1, skip + 1) := by
  have hgo : ¬ (recSerial bs < s.rm.firstSerial ∨ recIndex bs = none16) := by
    rintro (hlt | hnone)
    · omega
    · exact hindex hnone
  simp only [State.replaySlot, h, if_neg hgo]
  split
  next e he => exact if_neg fun hc => hfit e ⟨he, hc⟩
  next => rfl

end

theorem Memory.slot_bytes (m : Memory) (sec slot : Nat) : m.slot sec slot = m.bytes (sec * 65536 + slot * 32) 32 := rfl

/-! ### The ends without a row -/

theorem State.afterStartup_rebuild {n a len : Nat} (hstart : s.startup = .rebuild n) (hn : 1 < n) :
    s.afterStartup (.read a len) =
      some ({ s.endOp.reportDamaged (leftSector dirSector dirSectors n) with startup := .rebuild (n - 1) }.request .startup
        (dirRead (n - 1))) := by
  unfold State.afterStartup
  rw [hstart]
  exact if_pos hn

theorem State.afterStartup_replay {sec slot rep skip a len : Nat} (hstart : s.startup = .replay sec slot rep skip) :
    s.afterStartup (.read a len) =
      some ((s.endOp.replaySlot sec slot rep skip).1.replayNext
        ((s.endOp.replaySlot sec slot rep skip).1.journal.after sec slot).1
        ((s.endOp.replaySlot sec slot rep skip).1.journal.after sec slot).2
        (s.endOp.replaySlot sec slot rep skip).2.1 (s.endOp.replaySlot sec slot rep skip).2.2) := by
  unfold State.afterStartup
  rw [hstart]

theorem State.afterStartup_resumeErase {sec : Nat} (hstart : s.startup = .resumeClose) :
    s.afterStartup (.erase sec) = some (s.endOp.request .startup (s.endOp.headerOp (s.endOp.rm.header .closed))) := by
  unfold State.afterStartup
  rw [hstart]

/-- The end of a replay's read. -/
theorem State.step_replay {sec slot rep skip a len rep' skip' : Nat} {t : State} (hstart : s.startsAt (.replay sec slot rep skip))
    (hport : s.inPort .startup (.read a len)) (hpending : s.pending = [])
    (hslot : ({ s with port := s.port.freed } : State).replaySlot sec slot rep skip = (t, rep', skip'))
    (hjournal : t.journal = s.journal) :
    step s = .next (t.replayNext (s.journal.after sec slot).1 (s.journal.after sec slot).2 rep' skip').pump := by
  rw [hport.step_startup hstart.1 hpending (State.afterStartup_replay hstart.2), hport.endOp_read, hslot, hjournal]

/-! ### The tables of a resume -/

theorem State.resumeClosed_eq (s : State) : s.resumeClosed = { s with startup := .over, rm := { s.rm with
    state := .closed, built := false, status := [], segments := Vector.replicate 256 .empty, routeDone := false } } := rfl

theorem State.startsAt_settled {ph : StartPhase} (h : s.settled.startsAt ph) : s.powered = true :=
  s.settled_powered.symm.trans h.1

/-! ### The rows -/

theorem exec_routeHeaderReadDone {op : StoreOp} (hstart : s.startsAt .headerRead) (hport : s.inPort .startup op) :
    exec .routeHeaderReadDone s = .next s.endOp.headerRead.pump := by
  have hsettled : s.settled = s := hport.settled_startup (by simp [State.afterStartup, hstart.2])
  show execRouteHeaderReadDone s = _
  simp only [execRouteHeaderReadDone, hsettled, hstart.2, if_true, hport.startFailed, hport.startInFlight,
    live_powered hstart.1]
  rfl

theorem State.headerRead_none (h : s.store.latestHeader = none) : s.headerRead = s.routeEmpty := by
  simp only [State.headerRead, h]

theorem State.headerRead_some {h : RouteHeader} (hlatest : s.store.latestHeader = some h) : s.headerRead =
    if h.state = .opened then
      { s.setRoute (s.rm.takeHeader h) with startup := .rebuild 16 }.request .startup (dirRead 16)
    else (s.setRoute (s.rm.takeHeader h)).startupOver h.state := by
  simp only [State.headerRead, hlatest]

theorem exec_resumeRebuildDone {op : StoreOp} (hstart : s.startsAt (.rebuild 1)) (hport : s.inPort .startup op)
    (hread : s.afterStartup op = none) : exec .resumeRebuildDone s = .next s.endOp.rebuilt.pump := by
  show execResumeRebuildDone s = _
  simp only [execResumeRebuildDone, hport.settled_startup hread, hstart.2, hport.startFailed, hport.startInFlight,
    live_powered hstart.1]
  rfl

/-- The row at the end of the replay, once the port is settled. -/
theorem exec_journalReplayDone {sec slot replayed skipped : Nat} (h : s.settled.startsAt (.replay sec slot replayed skipped)) :
    exec .journalReplayDone s = .next (if s.settled.startFailed then (s.settled.takeFailed .startup).resumeClosed.pump
      else if s.settled.port.outstanding .startup then s else (s.settled.resumed replayed skipped).pump) := by
  have hpow := State.startsAt_settled h
  show execJournalReplayDone s = _
  unfold execJournalReplayDone
  rw [live_powered hpow, h.2]

theorem exec_routeHeaderWriteDone_resume {t : State} (hpow : s.powered = true) (hsettled : s.settled = s)
    (h : s.resumeHeader = some t) : exec .routeHeaderWriteDone s = .next t.pump := by
  show execRouteHeaderWriteDone s = _
  simp only [execRouteHeaderWriteDone, hsettled, h, live_powered hpow]

/-- Settles O33: the header taken, the rebuild sector by sector, the replay slot by slot, and the CLOSED header of a resume
that cannot go on. -/
theorem startUpTakesTheRouteHeader : Obligations.StartUpTakesTheRouteHeader := by
  intro s freed told closed reported shut
  have hreported (sec : Nat) : reported sec = freed.reportDamaged sec := rfl
  have hclosed (t : State) : closed t = t.resumeClosed := rfl
  refine ⟨fun hstart => ?header, fun n hstart hfailed => ?rebuildFailed,
    fun n a len hn hn' hstart hport hpending => ?rebuildNext, fun hstart a len hport => ?rebuilt,
    fun sec slot replayed skipped => ?replayNext, fun sec slot replayed skipped a len hstart hport hpending => ?replay,
    State.ownRow.settled, ?replayDone, fun hstart => ?closing⟩
  case header =>
    intro empty
    refine ⟨fun hfailed => ?_, fun a len hport => ?_⟩
    · show execRouteHeaderReadDone s = _
      simp only [execRouteHeaderReadDone, hfailed.settled, hstart.2, if_true, hfailed.startFailed, live_powered hstart.1]
      rfl
    · rw [exec_routeHeaderReadDone hstart hport, hport.endOp_read]
      refine ⟨fun hnone => ?_, fun h hlatest => ?_⟩
      · rw [State.headerRead_none (s := { s with port := s.port.freed }) hnone]
        rfl
      · intro rm
        rw [State.headerRead_some (s := { s with port := s.port.freed }) hlatest]
        split <;> rfl
  case rebuildFailed =>
    show execResumeRebuildDone s = _
    simp only [execResumeRebuildDone, hfailed.settled, hstart.2, hfailed.startFailed, if_true, live_powered hstart.1]
    rfl
  case rebuildNext =>
    have hsector : leftSector dirSector dirSectors n = 18 - n := rfl
    rw [← dirRead_pred hn hn', hreported]
    rw [hport.step_startup hstart.1 hpending (State.afterStartup_rebuild hstart.2 hn), hport.endOp_read, hsector]
  case rebuilt =>
    intro t
    rw [exec_resumeRebuildDone hstart hport (by simp [State.afterStartup, hstart.2]), hport.endOp_read]
    have hshut : t.rm.header .closed = shut := by
      show (freed.reportDamaged 17).rm.header .closed = shut
      rw [State.reportDamaged_eq]
      rfl
    rw [← hshut]
    show Host.Outcome.next (if t.directoryWhole then _ else _ : State).pump = _
    split <;> rfl
  case replayNext => rfl
  case replay =>
    intro on read
    refine ⟨fun hother => ?_, fun bs hvalid => ⟨fun hpass => ?_, fun hserial hindex => ?_⟩⟩
    · exact State.step_replay hstart hport hpending (State.replaySlot_other (s := freed) hother) rfl
    · exact State.step_replay hstart hport hpending (State.replaySlot_passed (s := freed) hvalid hpass) rfl
    · intro fits
      refine ⟨fun e hfit => ?_, fun hno => ?_⟩
      · exact State.step_replay hstart hport hpending (State.replaySlot_fits (s := freed) hvalid hserial hindex hfit) rfl
      · exact State.step_replay hstart hport hpending (State.replaySlot_skips (s := freed) hvalid hserial hindex hno) rfl
  case replayDone =>
    intro v sec slot replayed skipped hstart failed
    have hrun : exec .journalReplayDone s = .next (if v.startFailed then (v.takeFailed .startup).resumeClosed.pump
      else if v.port.outstanding .startup then s else (v.resumed replayed skipped).pump) := exec_journalReplayDone hstart
    rw [hrun]
    clear_value v
    refine ⟨fun hfail => ?_, fun hok hout => ?_, fun hok hfree => ?_⟩
    · rw [if_pos (show v.startFailed = true from decide_eq_true hfail)]
      rfl
    · rw [if_neg (show ¬ v.startFailed = true by simpa [State.startFailed] using hok), if_pos hout]
    · rw [if_neg (show ¬ v.startFailed = true by simpa [State.startFailed] using hok), if_neg (by simp [hfree])]
      have hget := segmentTable_get v.rm.status
      unfold State.resumed RouteManager.allDone
      refine ⟨segmentTable v.rm.status, ?_, hget⟩
      generalize segmentTable v.rm.status = segments
      rfl
  case closing =>
    refine ⟨fun hfailed => ?_, fun hport hpending => ?_, fun a bs hport => ?_⟩
    · refine exec_routeHeaderWriteDone_resume hstart.1 hfailed.settled ?_
      simp only [State.resumeHeader, hstart.2, if_true, hfailed.startFailed]
      rfl
    · have hended : s.endOp = { freed with store := s.store.clear 65536 65536 } := hport.endOp
      rw [hport.step_startup hstart.1 hpending (State.afterStartup_resumeErase hstart.2), hended,
        State.headerOp_cleared (s := { freed with store := s.store.clear 65536 65536 }) rfl]
      rfl
    · refine exec_routeHeaderWriteDone_resume hstart.1
        (hport.settled_startup (by simp [State.afterStartup, hstart.2])) ?_
      simp only [State.resumeHeader, hstart.2, if_true, hport.startFailed, hport.startInFlight, hport.programInFlight,
        hport.endOp]
      rfl

end Sys2Proof.Machine
end

section
/-! SUPPORT. The other commands of the route manager (R44 to R48, R60): each row of a long operation's work, from the end
of its operation in the port. -/

namespace Sys2Proof.Machine

variable {s : State} {tag : Byte}

/-! ### ROUTE CLEAR -/

theorem State.afterLongOp_clear {n sec : Nat} (hn : 1 < n) : s.afterLongOp (.clear n) (.erase sec) =
    some ((s.endOp.setWork (.clear (n - 1))).request .longOp (clearErase (n - 1))) := if_pos hn

/-- Settles O22: one erase for each sector, and the ends of the last. -/
theorem routeClearErasesTheDirectory : Obligations.RouteClearErasesTheDirectory := by
  intro tag s
  refine ⟨fun haccepts => ?start, fun n hn hn' hwork hport hpending => ?next, fun hwork hport => ?done,
    fun n hwork hfailed => ?failed⟩
  case start =>
    have hruns : exec (.routeClear tag []) s = .next _ := haccepts.runs rfl
    rw [hruns, State.takeFrame_rm]
    split <;> rfl
  case next =>
    have hsector : 1 + 17 - (n - 1) = 19 - n := by omega
    rw [hport.step_longOp hwork.1 hpending hwork.2 (State.afterLongOp_clear hn), hport.endOp,
      State.setWork_eq (s := { s with store := _, port := s.port.freed }) hwork.2]
    simp only [clearErase, leftSector, headerSector, hsector]
    rfl
  case done =>
    have hrun : exec .routeClearDone s = .next ((s.endOp.endLong .ok []).routeTo .loading).pump := by
      show execRouteClearDone s = _
      simp only [execRouteClearDone, hport.settled_longOp hwork.2 rfl, hwork.work, live_powered hwork.1, hport.longFailed,
        hport.longInFlight]
      rfl
    rw [hrun, hport.endOp, State.endLong_eq (s := { s with store := _, port := s.port.freed }) hwork.2]
    rfl
  case failed =>
    have hrun : exec .routeClearDone s = .next ((s.failLong []).routeTo .empty).pump := by
      show execRouteClearDone s = _
      simp only [execRouteClearDone, hfailed.settled, hwork.work, live_powered hwork.1, hfailed.longFailed, if_true]
    rw [hrun, State.failLong, State.endLong_eq (s := s.takeFailed .longOp) hwork.2]
    rfl

/-! ### ROUTE FINISH and ROUTE DIGEST -/

theorem State.afterLongOp_finishRead {n a len : Nat} (hn : 1 < n) : s.afterLongOp (.finishRead n) (.read a len) =
    some ((s.endOp.setWork (.finishRead (n - 1))).request .longOp (dirRead (n - 1))) := if_pos hn

theorem State.afterLongOp_digest {n a len : Nat} (hn : 1 < n) : s.afterLongOp (.digest n) (.read a len) =
    some ((s.endOp.setWork (.digest (n - 1))).request .longOp (dirRead (n - 1))) := if_pos hn

theorem State.finishRead_refused (h : ¬ (s.rm.meterCount ≠ 0 ∧ s.directoryWhole = true)) :
    s.finishRead = s.endLong .badState s.store.finishCounts := by
  have hcond : s.rm.meterCount = 0 ∨ s.directoryWhole = false := by
    rw [not_and_or, not_not, Bool.not_eq_true] at h
    exact h
  exact if_pos hcond

theorem State.finishRead_whole (hcount : s.rm.meterCount ≠ 0) (hwhole : s.directoryWhole = true) :
    s.finishRead =
      ((s.setRoute { s.rm with digest := s.store.digest }).setWork
        (.finishHeader (segmentsUsed s.store.routeRecords))).request .longOp
        ((s.setRoute { s.rm with digest := s.store.digest }).headerOp
          ⟨.ready, s.rm.meterCount, s.store.digest, 0, 65535⟩) :=
  if_neg (by simp [hcount, hwhole])

/-- Settles O25: the directory read sector by sector, and what its last read finds. -/
theorem finishAndDigestReadTheDirectory : Obligations.FinishAndDigestReadTheDirectory := by
  intro tag s
  refine ⟨fun haccepts => ?finish, fun haccepts => ?digest, fun n a len hn hn' hport hpending => ?next,
    fun a len hwork hport => ?finished, fun a len hwork hport => ?digested, fun n hwork hfailed => ?finishFailed,
    fun n hwork hfailed => ?digestFailed⟩
  case finish =>
    have hruns : exec (.routeFinish tag []) s = .next _ := haccepts.runs rfl
    rw [hruns, State.takeFrame_rm]
    split <;> rfl
  case digest =>
    have hruns : exec (.routeDigest tag []) s = .next _ := haccepts.runs rfl
    rw [hruns, State.takeFrame_rm]
    split <;> rfl
  case next =>
    intro next
    have hnext : dirRead (n - 1) = next := dirRead_pred hn hn'
    refine ⟨fun hwork => ?_, fun hwork => ?_⟩
    · rw [hport.step_longOp hwork.1 hpending hwork.2 (State.afterLongOp_finishRead hn), hport.endOp_read, hnext,
        State.setWork_eq (s := { s with port := s.port.freed }) hwork.2]
      rfl
    · rw [hport.step_longOp hwork.1 hpending hwork.2 (State.afterLongOp_digest hn), hport.endOp_read, hnext,
        State.setWork_eq (s := { s with port := s.port.freed }) hwork.2]
      rfl
  case finished =>
    intro records damaged t w sealing whole
    have hrun : exec .routeFinishReadDone s = .next t.finishRead.pump := by
      show execRouteFinishReadDone s = _
      simp only [execRouteFinishReadDone, hport.settled_longOp hwork.2 rfl, hwork.work, live_powered hwork.1,
        hport.longFailed, hport.longInFlight, hport.endOp_read]
      rfl
    have hwhole : whole ↔ t.rm.meterCount ≠ 0 ∧ t.directoryWhole = true := by
      rw [State.directoryWhole_iff]
    rw [hrun]
    refine ⟨fun hbad => ?_, fun hgood => ?_⟩
    · rw [State.finishRead_refused (mt hwhole.mpr hbad), State.endLong_eq (s := t) hwork.2]
      rfl
    · obtain ⟨hcount, hdir⟩ := hwhole.mp hgood
      rw [State.finishRead_whole hcount hdir, State.setWork_eq (s := t.setRoute _) hwork.2]
      rfl
  case digested =>
    have hrun : exec .routeDigestDone s = .next (({ s with port := s.port.freed } : State).endLong .ok
        (beBytes 4 s.store.digest.toNat ++ beBytes 4 s.rm.digest.toNat)).pump := by
      show execRouteDigestDone s = _
      simp only [execRouteDigestDone, hport.settled_longOp hwork.2 rfl, hwork.work, live_powered hwork.1,
        hport.longFailed, hport.longInFlight, hport.endOp_read]
      rfl
    rw [hrun, State.endLong_eq (s := { s with port := s.port.freed }) hwork.2]
  case finishFailed =>
    have hrun : exec .routeFinishReadDone s = .next (s.failLong []).pump := by
      show execRouteFinishReadDone s = _
      simp only [execRouteFinishReadDone, hfailed.settled, hwork.work, live_powered hwork.1, hfailed.longFailed, if_true]
    rw [hrun, State.failLong, State.endLong_eq (s := s.takeFailed .longOp) hwork.2]
    rfl
  case digestFailed =>
    have hrun : exec .routeDigestDone s = .next (s.failLong (beBytes 4 s.rm.digest.toNat)).pump := by
      show execRouteDigestDone s = _
      simp only [execRouteDigestDone, hfailed.settled, hwork.work, live_powered hwork.1, hfailed.longFailed, if_true]
    rw [hrun, State.failLong, State.endLong_eq (s := s.takeFailed .longOp) hwork.2]
    rfl

/-! ### ROUTE LOAD -/

theorem recordFieldsOk_iff (r : List Byte) : recordFieldsOk r = true ↔ natAt r 4 ≤ 7 ∧ natAt r 5 ≤ 15 ∧ natAt r 7 ≤ 3
    ∧ natAt r 8 ≤ 15 ∧ 4 ≤ natAt r 9 ∧ natAt r 9 ≤ 9 ∧ numAt r 10 4 < 10 ^ natAt r 9 := by
  simp only [recordFieldsOk, Bool.and_eq_true, decide_eq_true_eq, and_assoc]

theorem probeBucket_one (id : Word) : probeBucket id 1 = homeBucket id := by
  have hhome : homeBucket id < 4096 := by
    unfold homeBucket
    omega
  simp [probeBucket, Nat.mod_eq_of_lt hhome]

/-- The bucket of a probe read, examined: its damaged slots are counted. -/
theorem State.examineBucket_silent (id : Word) (b : Nat) (s : State) :
    s.examineBucket id b false = ((s.store.examine id b 8).1, s.bump .dirCrc (s.store.examine id b 8).2) := rfl

section
variable {r : List Byte} {rest : List (List Byte)} {written position n : Nat}

/-- The meter ID of a record's bytes. -/
def recordId (r : List Byte) : Word := BitVec.ofNat 32 (numAt r 0 4)

/-- The state once the damaged slots of a probe's bucket are counted. -/
def State.probed (r : List Byte) (n : Nat) (s : State) : State :=
  s.bump .dirCrc (s.store.examine (recordId r) (probeBucket (recordId r) n) 8).2

theorem State.loadProbed_found {q : RouteRecord}
    (h : (s.store.examine (recordId r) (probeBucket (recordId r) n) 8).1 = some (.found q)) :
    s.loadProbed (r :: rest) written position n = (s.probed r n).endLoad .duplicate written (some position) := by
  have hid : (routeRecordOf ((r :: rest).headD [])).meterId = recordId r := rfl
  simp only [State.loadProbed, hid, State.examineBucket_silent, h]
  rfl

theorem State.loadProbed_absent {slot : Nat}
    (h : (s.store.examine (recordId r) (probeBucket (recordId r) n) 8).1 = some (.absent slot)) :
    s.loadProbed (r :: rest) written position n = (s.probed r n).request .longOp
      (.program (bucketAddr (probeBucket (recordId r) n) + slot * 32)
        (routeRecordBytes { routeRecordOf r with index := s.rm.meterCount })) := by
  have hid : (routeRecordOf ((r :: rest).headD [])).meterId = recordId r := rfl
  simp only [State.loadProbed, hid, State.examineBucket_silent, h]
  rfl

theorem State.loadProbed_next (h : (s.store.examine (recordId r) (probeBucket (recordId r) n) 8).1 = none) (hn : n < 4) :
    s.loadProbed (r :: rest) written position n =
      ((s.probed r n).setWork (.load (r :: rest) written position (n + 1))).request .longOp
        (.read (bucketAddr (probeBucket (recordId r) (n + 1))) 256) := by
  have hid : (routeRecordOf ((r :: rest).headD [])).meterId = recordId r := rfl
  simp only [State.loadProbed, hid, State.examineBucket_silent, h, if_pos hn]
  rfl

theorem State.loadProbed_full (h : (s.store.examine (recordId r) (probeBucket (recordId r) n) 8).1 = none) (hn : ¬ n < 4) :
    s.loadProbed (r :: rest) written position n = (s.probed r n).endLoad .dirFull written (some position) := by
  have hid : (routeRecordOf ((r :: rest).headD [])).meterId = recordId r := rfl
  simp only [State.loadProbed, hid, State.examineBucket_silent, h, if_neg hn]
  rfl

end

theorem exec_routeLoadStoreOpDone {rest : List (List Byte)} {written position n : Nat} {op : StoreOp}
    (hwork : s.working 0x31#8 tag (.load rest written position n)) (hport : s.inPort .longOp op)
    (hrow : s.afterLongOp (.load rest written position n) op = none) : exec .routeLoadStoreOpDone s = .next
      (if op.isProgram then
        (s.endOp.setRoute { s.rm with meterCount := s.rm.meterCount + 1 }).loadNext rest.tail (written + 1) (position + 1)
      else s.endOp.loadProbed rest written position n).pump := by
  show execRouteLoadStoreOpDone s = _
  simp only [execRouteLoadStoreOpDone, hport.settled_longOp hwork.2 hrow, hwork.work, live_powered hwork.1,
    hport.longFailed, hport.longInFlight, hport.programInFlight]
  rfl

/-- The end of a load with a code and the position of the failing record. -/
theorem State.endLoad_eq {w : Work} (h : s.tl.longOp = some ⟨0x31#8, tag, w, none⟩) (rc : ReplyCode)
    (written position : Nat) : s.endLoad rc written (some position) = { s with
      tl := s.tl.ended 0x31#8 tag rc (byteOf written :: beBytes 2 s.rm.meterCount ++ [byteOf position]) } :=
  State.endLong_eq h _ _

/-- Settles O23: the next record's checks, the command, and the ends of a probe and of a program. -/
theorem routeLoadTakesRecordsInOrder : Obligations.RouteLoadTakesRecordsInOrder := by
  intro tag s
  refine ⟨fun rest written position w hwork => ?next, fun args hlen hlow hhigh haccepts => ?start,
    fun r rest written position n hwork => ⟨fun a bs hport => ?program, fun a len hport => ?probe,
      fun hfailed => ?failed⟩⟩
  case next =>
    intro counts failed
    cases rest with
    | nil =>
      refine (State.endLong_eq hwork.2 _ _).trans ?_
      simp only [Option.toList_none, List.map_nil, List.append_nil]
      rfl
    | cons r rest =>
      rw [State.loadNext]
      by_cases hok : recordFieldsOk r = true
      · rw [if_neg (by simp [hok])]
        dsimp only
        rw [if_neg (not_not.mpr ((recordFieldsOk_iff r).mp hok))]
        by_cases hfull : 16384 ≤ s.rm.meterCount
        · rw [if_pos (show maxMeters ≤ s.rm.meterCount from hfull), if_pos hfull]
          exact State.endLoad_eq hwork.2 _ _ _
        · rw [if_neg (show ¬ maxMeters ≤ s.rm.meterCount from hfull), if_neg hfull, State.setWork_eq hwork.2,
            probeBucket_one]
          rfl
      · rw [if_pos (by simp [hok])]
        dsimp only
        rw [if_pos (mt (recordFieldsOk_iff r).mpr hok)]
        exact State.endLoad_eq hwork.2 _ _ _
  case start =>
    intro rest
    have hok : (args.length == 1 + slotSize * natAt args 0 && 1 ≤ natAt args 0 && natAt args 0 ≤ 30) = true := by
      simp only [Bool.and_eq_true, beq_iff_eq, decide_eq_true_eq]
      exact ⟨⟨hlen, hlow⟩, hhigh⟩
    have hruns : exec (.routeLoad tag args) s = .next _ := haccepts.runs hok
    rw [hruns, State.takeFrame_rm]
    split <;> rfl
  case program =>
    rw [exec_routeLoadStoreOpDone hwork hport rfl, hport.endOp]
    rfl
  case probe =>
    intro id b x t failed
    have hrun : exec .routeLoadStoreOpDone s =
        .next (({ s with port := s.port.freed } : State).loadProbed (r :: rest) written position n).pump := by
      rw [exec_routeLoadStoreOpDone hwork hport rfl, hport.endOp_read]
      rfl
    have hlong : t.tl.longOp = some ⟨0x31#8, tag, .load (r :: rest) written position n, none⟩ := hwork.2
    rw [hrun]
    refine congrArg (fun u : State => Host.Outcome.next u.pump) ?_
    cases hx : x.1 with
    | some e =>
      cases e with
      | found q => exact (State.loadProbed_found (s := { s with port := s.port.freed }) hx).trans (State.endLoad_eq hlong _ _ _)
      | absent slot => exact State.loadProbed_absent (s := { s with port := s.port.freed }) hx
    | none =>
      by_cases hn : n < 4
      · refine (State.loadProbed_next (s := { s with port := s.port.freed }) hx hn).trans ?_
        rw [State.setWork_eq (s := State.probed r n { s with port := s.port.freed }) hlong]
        exact (if_pos hn).symm
      · refine (State.loadProbed_full (s := { s with port := s.port.freed }) hx hn).trans ((State.endLoad_eq hlong _ _ _).trans ?_)
        exact (if_neg hn).symm
  case failed =>
    have hrun : exec .routeLoadStoreOpDone s = .next (s.failLong (byteOf written :: beBytes 2 s.rm.meterCount)).pump := by
      show execRouteLoadStoreOpDone s = _
      simp only [execRouteLoadStoreOpDone, hfailed.settled, hwork.work, live_powered hwork.1, hfailed.longFailed, if_true]
    rw [hrun, State.failLong, State.endLong_eq (s := s.takeFailed .longOp) hwork.2]
    rfl

/-! ### ROUTE QUERY -/

/-- The state once the damaged slots of a query's bucket are counted and reported. -/
def State.queried (id : Word) (n : Nat) (s : State) : State :=
  s.countDamaged (probeBucket id n) (s.store.examine id (probeBucket id n) 8).2 true

theorem State.countDamaged_event (b n : Nat) (s : State) : s.countDamaged b n true =
    if 0 < n then (s.bump .dirCrc n).raise .dirCrc (BitVec.ofNat 32 b) else s.bump .dirCrc n := by
  unfold State.countDamaged
  simp only [Bool.true_and, decide_eq_true_eq]

theorem State.countDamaged_longOp (b n : Nat) (event : Bool) (s : State) :
    (s.countDamaged b n event).tl.longOp = s.tl.longOp := by
  unfold State.countDamaged
  dsimp only
  split
  · exact (State.SameWork.raise _ _ _).longOp
  · rfl

section
variable {id : Word} {n : Nat}

theorem State.queryRead_found {r : RouteRecord} (h : (s.store.examine id (probeBucket id n) 8).1 = some (.found r)) :
    s.queryRead id n = (s.queried id n).endLong .ok ((s.queried id n).queryReport r) := by
  simp only [State.queryRead, State.examineBucket, h]
  rfl

theorem State.queryRead_absent {slot : Nat}
    (h : (s.store.examine id (probeBucket id n) 8).1 = some (.absent slot)) :
    s.queryRead id n = (s.queried id n).endLong .unknown [] := by
  simp only [State.queryRead, State.examineBucket, h]
  rfl

theorem State.queryRead_next (h : (s.store.examine id (probeBucket id n) 8).1 = none) (hn : n < 4) :
    s.queryRead id n = ((s.queried id n).setWork (.query id (n + 1))).request .query
      (.read (bucketAddr (probeBucket id (n + 1))) 256) := by
  simp only [State.queryRead, State.examineBucket, h, if_pos hn]
  rfl

theorem State.queryRead_unknown (h : (s.store.examine id (probeBucket id n) 8).1 = none) (hn : ¬ n < 4) :
    s.queryRead id n = (s.queried id n).endLong .unknown [] := by
  simp only [State.queryRead, State.examineBucket, h, if_neg hn]
  rfl

end

/-- What a query reports of a record: its attributes, and its status entry or that of a meter not read (log 29). -/
theorem State.queryReport_eq (r : RouteRecord) (s : State) : s.queryReport r =
    beBytes 2 r.index ++ attrBytes r.attrs
      ++ statusBytes ((s.rm.status[r.index]?).getD ⟨r.meterId, r.attrs.segment, .unread, none, none⟩) := by
  unfold State.queryReport
  cases s.rm.status[r.index]? <;> rfl

/-- Settles O29: the query's bucket read examined, and its failed answer. -/
theorem routeQueryProbesAndReports : Obligations.RouteQueryProbesAndReports := by
  intro tag s
  refine ⟨fun args hlen haccepts => ?start, fun id n a len hwork hport => ?read, fun id n hwork hfailed => ?failed⟩
  case start =>
    intro id
    have hruns : exec (.routeQuery tag args) s = .next _ := haccepts.runs (by simp [hlen])
    have hreadable : s.takeFrame.progressReadable = true ↔ s.rm.state = .opened ∨ (s.rm.state = .closed ∧ s.rm.built = true) :=
      State.progressReadable_iff s.takeFrame
    rw [hruns]
    dsimp only
    by_cases hread : s.takeFrame.progressReadable = true
    · rw [if_pos hread, if_pos (hreadable.mp hread), probeBucket_one]
      rfl
    · rw [if_neg hread, if_neg (mt hreadable.mpr hread)]
      rfl
  case read =>
    intro b x u t done orNone
    have hsettled : s.settled = s := hport.settled nofun nofun nofun
    have ht : t = ({ s with port := s.port.freed } : State).queried id n := (State.countDamaged_event _ _ _).symm
    have hrun : exec .routeQueryReadDone s = .next (({ s with port := s.port.freed } : State).queryRead id n).pump := by
      show execRouteQueryReadDone s = _
      simp only [execRouteQueryReadDone, hsettled, hwork.work, live_powered hwork.1, if_neg hport.notMem, hport.inFlight,
        if_true, hport.endOp_read]
    have hlong : t.tl.longOp = some ⟨0x36#8, tag, .query id n, none⟩ := by
      rw [ht]
      exact (State.countDamaged_longOp _ _ _ _).trans hwork.2
    have hrm : t.rm = s.rm := by
      rw [ht]
      exact State.countDamaged_rm _ _ _ _
    rw [hrun]
    refine congrArg (fun u : State => Host.Outcome.next u.pump) ?_
    cases hx : x.1 with
    | some e =>
      cases e with
      | found r =>
        have hopt (v : Option Nat) : optBytes 4 v = orNone v := by cases v <;> rfl
        have hreport : t.queryReport r =
            let a := r.attrs
            let e : StatusEntry := (s.rm.status[r.index]?).getD ⟨r.meterId, a.segment, .unread, none, none⟩
            beBytes 2 r.index
              ++ [byteOf a.family, byteOf a.utility, byteOf a.segment.val, byteOf a.cls.code, byteOf a.rule, byteOf a.digits]
              ++ beBytes 4 a.prior ++ beBytes 2 a.priorDay
              ++ [byteOf e.status.code] ++ orNone e.lastValue ++ orNone (e.lastCommit.map (fun w : Word => w.toNat)) := by
          rw [State.queryReport_eq, hrm]
          simp only [statusBytes, attrBytes, hopt, List.append_assoc, List.cons_append, List.nil_append]
        rw [State.queryRead_found (s := { s with port := s.port.freed }) hx, ← ht, State.endLong_eq hlong, hreport]
      | absent slot =>
        rw [State.queryRead_absent (s := { s with port := s.port.freed }) hx, ← ht, State.endLong_eq hlong]
    | none =>
      by_cases hn : n < 4
      · rw [State.queryRead_next (s := { s with port := s.port.freed }) hx hn, ← ht, State.setWork_eq hlong]
        exact (if_pos hn).symm
      · rw [State.queryRead_unknown (s := { s with port := s.port.freed }) hx hn, ← ht, State.endLong_eq hlong]
        exact (if_neg hn).symm
  case failed =>
    have hrun : exec .routeQueryReadDone s = .next ((s.takeFailed .query).endLong .storeFault []).pump := by
      show execRouteQueryReadDone s = _
      simp only [execRouteQueryReadDone, hfailed.settled, hwork.work, live_powered hwork.1, if_pos hfailed.mem]
    rw [hrun, State.endLong_eq (s := s.takeFailed .query) hwork.2]
    rfl

end Sys2Proof.Machine
end

section
/-! SUPPORT. The rise of an event case by case (R182), and what the failure of the store leaves (R132, R133). -/

namespace Sys2Proof.Machine

variable {s : State}

/-! ### Events -/

/-- The state with an event's flag set. -/
def State.flagged (e : Event) (s : State) : State :=
  { s with tl := { s.tl with flags := s.tl.flags ||| (1#16 <<< e.number) } }

theorem State.raise_again {e : Event} (h : s.tl.flags.getLsbD e.number = true) (d : Word) : s.raise e d = s := if_pos h

theorem State.raise_masked {e : Event} (h : s.tl.flags.getLsbD e.number = false)
    (hmask : s.tl.mask.getLsbD e.number = false) (d : Word) : s.raise e d = s.flagged e := by
  simp only [State.raise, h, hmask, Bool.false_eq_true, if_false, State.flagged]

theorem State.raise_notice {e : Event} (h : s.tl.flags.getLsbD e.number = false)
    (hmask : s.tl.mask.getLsbD e.number = true) (d : Word) :
    s.raise e d = (s.flagged e).queueNotice (.event e.number d (s.flagged e).tl.flags s.tb.runClock) := by
  simp only [State.raise, h, hmask, Bool.false_eq_true, if_false, if_true, State.flagged]

theorem State.queueNotice_room (h : s.tl.notices.length < 16) (n : Notice) :
    s.queueNotice n = { s with tl := { s.tl with notices := s.tl.notices ++ [n] } } := if_pos h

theorem State.queueNotice_full (h : 16 ≤ s.tl.notices.length) (n : Notice) :
    s.queueNotice n = ({ s with tl := { s.tl with overrun := true } }).bump .noticeDrop := if_neg (Nat.not_lt.mpr h)

/-- A notice leaves the notices before it in their places. -/
theorem State.queueNotice_appends (n : Notice) (s : State) :
    ∃ rest, (s.queueNotice n).tl.notices = s.tl.notices ++ rest := by
  unfold State.queueNotice
  split
  · exact ⟨[n], rfl⟩
  · exact ⟨[], (List.append_nil _).symm⟩

theorem State.raise_appends (e : Event) (d : Word) (s : State) :
    ∃ rest, (s.raise e d).tl.notices = s.tl.notices ++ rest := by
  unfold State.raise
  dsimp only
  split
  · exact ⟨[], (List.append_nil _).symm⟩
  · split
    · exact State.queueNotice_appends _ _
    · exact ⟨[], (List.append_nil _).symm⟩

/-- No event clears another's flag. -/
theorem State.raise_keeps_flag {i : Nat} (h : s.tl.flags.getLsbD i = true) (e : Event) (d : Word) :
    (s.raise e d).tl.flags.getLsbD i = true := by
  have hq : ∀ (n : Notice) (t : State), (t.queueNotice n).tl.flags = t.tl.flags := by
    intro n t; unfold State.queueNotice; split <;> rfl
  have hor : (s.tl.flags ||| (1#16 <<< e.number)).getLsbD i = true := by simp [h]
  unfold State.raise
  dsimp only
  split
  · exact h
  · split
    · rw [hq]; exact hor
    · exact hor

/-! ### Operations cut short -/

/-- A cut leaves every byte the operation does not touch. -/
theorem State.cutOp_untouched {op : StoreOp} {a : Nat} (h : ¬ op.touches a) (lost : Bool) (s : State) :
    (s.cutOp lost op).store.read a = s.store.read a := by
  refine State.cutOp_outside lost op s a ?_
  cases op with
  | read => trivial
  | program b bs => simp only [StoreOp.touches] at h; dsimp only; omega
  | erase sec => simp only [StoreOp.touches] at h; simp only [sectorSize]; omega

theorem State.cutOps_untouched {a : Nat} (lost : Bool) (ops : List StoreOp) (s : State) (h : ∀ op ∈ ops, ¬ op.touches a) :
    (s.cutOps lost ops).store.read a = s.store.read a := by
  induction ops generalizing s with
  | nil => rfl
  | cons op ops ih =>
    have hrest := ih (s.cutOp lost op) (fun o ho => h o (List.mem_cons_of_mem _ ho))
    exact hrest.trans (State.cutOp_untouched (h op List.mem_cons_self) lost s)

/-- Bytes just replaced are read back. -/
theorem Memory.bytes_put {m : Memory} (hm : m.wf) (a : Nat) (bs : List Byte) :
    (m.put a bs).bytes a bs.length = bs := by
  rw [Memory.bytes_eq _ _ _ (Memory.wf_put m a bs hm)]
  refine List.ext_getElem (by simp) (fun i hi hi' => ?_)
  rw [List.getElem_map, List.getElem_range, Memory.read_put_inside _ _ _ _ hi']

/-- What a program cut short leaves at its bytes. -/
theorem StoreOp.damage_program_bytes {m : Memory} (hm : m.wf) (idx : Nat) {r : CutRule}
    (hr : r ≠ .noHeaders ∧ ∀ b, r ≠ .sector b) (a : Nat) (bs : List Byte) :
    ((StoreOp.program a bs).damage idx r m).bytes a bs.length = r.limit m a ((StoreOp.program a bs).freeBytes idx) := by
  have hlen : (r.limit m a ((StoreOp.program a bs).freeBytes idx)).length = bs.length := by
    rw [CutRule.limit_length _ _ _ _ (.inr hr), StoreOp.freeBytes_program_length]
  have hbytes := Memory.bytes_put hm a (r.limit m a ((StoreOp.program a bs).freeBytes idx))
  rwa [hlen] at hbytes

/-! ### The walks -/

/-- A walk told of the failure. -/
def Walk.failed (k : Walk) : Walk := if k.outcome.isNone then { k with outcome := some .failed } else k

theorem State.failWalk_eq (w : Fin 4) (s : State) : s.failWalk w =
    { s with cl := { s.cl with walks := s.cl.walks.set w (s.cl.walks[w].map Walk.failed) } } := by
  have hself : ∀ x, s.cl.walks[w] = x → s = { s with cl := { s.cl with walks := s.cl.walks.set w x } } := by
    rintro x rfl
    simp
  unfold State.failWalk
  split
  next k hk =>
    split
    · next hnone => simp only [hk, Option.map_some, Walk.failed, hnone, if_true]
    · next hsome =>
      refine hself _ ?_
      simp only [hk, Option.map_some, Walk.failed, hsome, Bool.false_eq_true, if_false]
  next hk => exact hself _ (by simp only [hk, Option.map_none])

theorem State.failWalk_walks (w v : Fin 4) (s : State) : (s.failWalk w).cl.walks[v]
    = if w = v then s.cl.walks[v].map Walk.failed else s.cl.walks[v] := by
  rw [State.failWalk_eq]
  split
  next h => subst h; simp
  next h => simp [Vector.getElem_set_ne, Fin.val_ne_of_ne h]

/-- The four walks told of the failure. -/
def State.failWalks (s : State) : State := ([0, 1, 2, 3] : List (Fin 4)).foldl (fun t w => t.failWalk w) s

theorem State.failWalks_eq (s : State) : s.failWalks = { s with cl := s.failWalks.cl } := by
  have hone : ∀ (w : Fin 4) (t : State), t = { s with cl := t.cl } → t.failWalk w = { s with cl := (t.failWalk w).cl } := by
    intro w t ht
    rw [State.failWalk_eq, ht]
  exact hone 3 _ (hone 2 _ (hone 1 _ (hone 0 s rfl)))

theorem State.failWalks_walks (v : Fin 4) (s : State) : s.failWalks.cl.walks[v] = s.cl.walks[v].map Walk.failed := by
  show ((((s.failWalk 0).failWalk 1).failWalk 2).failWalk 3).cl.walks[v] = _
  simp only [State.failWalk_walks]
  fin_cases v <;> rfl

/-! ### The discard of the append queue -/

theorem State.discardQueue_none (h : s.journal.queue = []) : s.discardQueue = s := by
  unfold State.discardQueue
  split
  · rfl
  · next hq => rw [h] at hq; cases hq

/-- The range of serials discarded, with those of a queue added to it (R142). -/
def Journal.rangeWith (j : Journal) : Option (Nat × Nat) :=
  match j.queue with
  | [] => j.discardedRange
  | q :: qs => some ((j.discardedRange.map Prod.fst).getD q.reading.serial,
      ((q :: qs).getLast (List.cons_ne_nil q qs)).reading.serial)

/-- The journal with its queue discarded. -/
def Journal.emptied (j : Journal) : Journal :=
  { j with queue := [], discarded := j.discarded + j.queue.length, discardedRange := j.rangeWith }

theorem Journal.emptied_of_nil {j : Journal} (h : j.queue = []) : j.emptied = j := by
  cases j
  dsimp only at h
  subst h
  rfl

theorem State.discardQueue_journal (s : State) : s.discardQueue.journal = s.journal.emptied := by
  unfold State.discardQueue
  split
  next h => exact (Journal.emptied_of_nil h).symm
  next q qs h => simp only [Journal.emptied, Journal.rangeWith, h, State.bump_journal, List.length_cons]

theorem State.discardQueue_appendDiscard (s : State) : s.discardQueue.count .appendDiscard =
    if s.journal.queue = [] then s.count .appendDiscard
    else min 4294967295 (s.count .appendDiscard + s.journal.queue.length) := by
  unfold State.discardQueue
  split
  next h => rw [if_pos h]
  next q qs h =>
    rw [if_neg (by simp [h]), h, List.length_cons]
    exact (State.bump_count_same .appendDiscard _ _).trans rfl

/-! ### The failure -/

/-- The operations a failure cuts. -/
def StorePort.cutOps (p : StorePort) : List StoreOp := (p.active.toList ++ p.suspended.toList).map (·.op)

/-- The requesters a failure tells, at their next row (log 19). -/
def StorePort.owed (p : StorePort) : List Client :=
  ((p.active.toList ++ p.suspended.toList).map (·.client) ++ p.waiting.map (·.client)).filter Client.awaits

theorem StorePort.mem_owed {p : StorePort} {c : Client} (hc : c.awaits = true) :
    c ∈ p.owed ↔ p.outstanding c = true := by
  obtain ⟨waiting, active, suspended, failed, finishing⟩ := p
  cases active <;> cases suspended <;>
    simp only [StorePort.owed, StorePort.outstanding, List.mem_filter, hc, and_true, List.mem_append, List.mem_map,
      Option.toList_some, Option.toList_none, List.map_append, List.map_cons, List.map_nil, List.mem_singleton,
      List.not_mem_nil, false_or, or_false, Bool.or_eq_true, List.any_eq_true, beq_iff_eq, Bool.false_eq_true,
      eq_comm (a := c)] <;> grind

/-- The state of a failure when the event has risen and the operations are cut. -/
def State.cutShort (d : Word) (s : State) : State := (s.raise .storeFault d).cutOps false s.port.cutOps

theorem State.cutShort_eq (d : Word) (s : State) : s.cutShort d =
    { s.raise .storeFault d with store := (s.cutShort d).store, freeIndex := (s.cutShort d).freeIndex } :=
  State.cutOps_eq _ _ _

/-- The state of a failure before the walks, the upload and the append queue learn of it. -/
def State.broken (d : Word) (s : State) : State :=
  { s.cutShort d with
    storeFailed := true, journal := { (s.cutShort d).journal with state := .fault },
    port := ⟨[], none, none, (s.cutShort d).port.failed ++ s.port.owed, []⟩ }

theorem State.failStore_eq (d : Word) (s : State) : s.failStore d =
    (if s.port.outstanding .upload then (s.broken d).failWalks.failUploadRead
      else (s.broken d).failWalks).discardQueue := rfl

@[simp] theorem State.broken_journal (d : Word) (s : State) : (s.broken d).journal = { s.journal with state := .fault } := by
  rw [State.broken, State.cutShort_eq]
  simp

@[simp] theorem State.broken_port (d : Word) (s : State) :
    (s.broken d).port = ⟨[], none, none, s.port.failed ++ s.port.owed, []⟩ := by
  rw [State.broken, State.cutShort_eq]
  simp

@[simp] theorem State.broken_cl (d : Word) (s : State) : (s.broken d).cl = s.cl := by
  rw [State.broken, State.cutShort_eq]
  simp

@[simp] theorem State.broken_count (d : Word) (s : State) : (s.broken d).count .appendDiscard = s.count .appendDiscard := by
  rw [State.broken, State.cutShort_eq]
  exact State.raise_count (by decide) _ _ _

/-- The end of an upload read as failed makes nothing of an empty port. -/
theorem State.failUploadRead_port (hwait : s.port.waiting = []) (hact : s.port.active = none) :
    s.failUploadRead.port = s.port := by
  unfold State.failUploadRead State.stallUpload State.rewindUpload
  rw [State.raise_port, State.setUpload_port, State.rewindPointer_eq]
  show s.putBack.dropUploadRead.port = _
  rw [State.putBack_eq]
  show ({ s.port with waiting := s.port.waiting.filter _, active := s.port.active.map _ } : StorePort) = s.port
  rw [hwait, hact]
  cases hport : s.port
  simp_all

section
variable (d : Word) (s : State)

/-- The failure before the discard of the append queue. -/
theorem State.failStore_upTo (P : State → Prop) (hstays : P (s.broken d).failWalks)
    (hfails : P (s.broken d).failWalks.failUploadRead) : P (if s.port.outstanding .upload then
      (s.broken d).failWalks.failUploadRead else (s.broken d).failWalks) := by
  split
  · exact hfails
  · exact hstays

theorem State.failStore_storeFailed : (s.failStore d).storeFailed = true := by
  rw [State.failStore_eq, State.discardQueue_storeFailed]
  refine State.failStore_upTo d s (fun t => t.storeFailed = true) ?_ ?_
  · rw [State.failWalks_eq]; rfl
  · rw [State.failUploadRead_storeFailed, State.failWalks_eq]; rfl

theorem State.failStore_journal : (s.failStore d).journal = { s.journal with state := .fault }.emptied := by
  rw [State.failStore_eq, State.discardQueue_journal]
  congr 1
  refine State.failStore_upTo d s (fun t => t.journal = _) ?_ ?_
  · rw [State.failWalks_eq]; exact State.broken_journal d s
  · rw [State.failUploadRead_journal, State.failWalks_eq]; exact State.broken_journal d s

theorem State.failStore_port :
    (s.failStore d).port = ⟨[], none, none, s.port.failed ++ s.port.owed, []⟩ := by
  rw [State.failStore_eq, State.discardQueue_port]
  have hwalks : (s.broken d).failWalks.port = ⟨[], none, none, s.port.failed ++ s.port.owed, []⟩ := by
    rw [State.failWalks_eq]; exact State.broken_port d s
  refine State.failStore_upTo d s (fun t => t.port = _) hwalks ?_
  rw [State.failUploadRead_port (by rw [hwalks]) (by rw [hwalks]), hwalks]

theorem State.failStore_store : (s.failStore d).store = (s.cutShort d).store := by
  rw [State.failStore_eq, State.discardQueue_store]
  refine State.failStore_upTo d s (fun t => t.store = _) ?_ ?_
  · rw [State.failWalks_eq]; rfl
  · rw [State.failUploadRead_store, State.failWalks_eq]; rfl

theorem State.failStore_walks (w : Fin 4) :
    (s.failStore d).cl.walks[w] = s.cl.walks[w].map Walk.failed := by
  rw [State.failStore_eq, State.discardQueue_cl]
  have hwalks : (s.broken d).failWalks.cl.walks[w] = s.cl.walks[w].map Walk.failed := by
    rw [State.failWalks_walks, State.broken_cl]
  refine State.failStore_upTo d s (fun t => t.cl.walks[w] = _) hwalks ?_
  rw [State.failUploadRead_cl, hwalks]

theorem State.failStore_appendDiscard : (s.failStore d).count .appendDiscard =
    if s.journal.queue = [] then s.count .appendDiscard
    else min 4294967295 (s.count .appendDiscard + s.journal.queue.length) := by
  have hcount : (s.broken d).failWalks.count .appendDiscard = s.count .appendDiscard := by
    rw [State.failWalks_eq]; exact State.broken_count d s
  have hqueue : (s.broken d).failWalks.journal.queue = s.journal.queue := by
    rw [State.failWalks_eq]; exact (congrArg Journal.queue (State.broken_journal d s) :)
  rw [State.failStore_eq, State.discardQueue_appendDiscard]
  refine State.failStore_upTo d s (fun t => (if t.journal.queue = [] then t.count .appendDiscard
    else min 4294967295 (t.count .appendDiscard + t.journal.queue.length)) = _) ?_ ?_
  · rw [hqueue, hcount]
  · rw [State.failUploadRead_journal, State.failUploadRead_count (by decide), hqueue, hcount]

end

/-! ### What the failure leaves of the store -/

theorem State.failStore_untouched {c : Client} {op : StoreOp} {since : Word} {spent a : Nat}
    (hact : s.port.active = some ⟨c, op, since, spent⟩) (hop : ¬ op.touches a)
    (hsus : ∀ e : ActiveOp, s.port.suspended = some e → ¬ e.op.touches a) (d : Word) :
    (s.failStore d).store.read a = s.store.read a := by
  have hops : ∀ o ∈ s.port.cutOps, ¬ o.touches a := by
    intro o ho
    simp only [StorePort.cutOps, hact, Option.toList_some, List.map_cons, List.cons_append,
      List.nil_append, List.mem_cons, List.mem_map, Option.mem_toList] at ho
    obtain rfl | ⟨e, he, rfl⟩ := ho
    · exact hop
    · exact hsus e he
  rw [State.failStore_store, State.cutShort, State.cutOps_untouched _ _ _ hops, State.raise_store]

/-- The rule for a record's program given up by the controller (log 8). -/
theorem State.cutRule_slot {sec slot : Nat} (hslot : slot < 2048) {bs : List Byte} (hbs : bs.length = 32)
    (hsec : sec = 1 ∨ 18 ≤ sec ∧ 1 ≤ slot) (s : State) :
    s.cutRule false (.program (sec * 65536 + slot * 32) bs) = if sec = 1 then .unsealed else .damaged 29 := by
  have hdiv : (sec * 65536 + slot * 32) / 65536 = sec := by omega
  have hmod : (sec * 65536 + slot * 32) % 65536 = slot * 32 := by omega
  have hrecord : ¬ (sec * 65536 + slot * 32 < 65536) := by omega
  simp only [State.cutRule, sectorSize, hrecord, hbs, hdiv, hmod, headerSector, journalFirst, slotSize, if_false,
    Bool.false_eq_true, OfNat.ofNat_ne_one]
  split
  · rfl
  · rw [if_neg (by omega), if_neg (by omega)]

/-- The bytes of a slot whose program was the one operation cut. -/
theorem State.failStore_slot {c : Client} {since : Word} {spent sec slot : Nat} {bs : List Byte} (hwf : s.store.wf)
    (hbs : bs.length = 32) (hact : s.port.active = some ⟨c, .program (sec * 65536 + slot * 32) bs, since, spent⟩)
    (hsus : s.port.suspended = none) (hslot : slot < 2048) (hsec : sec = 1 ∨ 18 ≤ sec ∧ 1 ≤ slot) (d : Word) :
    ∃ left : List Byte, left.length = 32 ∧
      (s.failStore d).store.slot sec slot = if sec = 1 then unsealed 30 left else damagedSlot 29 left := by
  have hops : s.port.cutOps = [.program (sec * 65536 + slot * 32) bs] := by simp [StorePort.cutOps, hact, hsus]
  refine ⟨(StoreOp.program (sec * 65536 + slot * 32) bs).freeBytes (s.raise .storeFault d).freeIndex,
    (StoreOp.freeBytes_program_length _ _ _).trans hbs, ?_⟩
  have hrule := State.cutRule_slot hslot hbs hsec (s.raise .storeFault d)
  have hbytes := StoreOp.damage_program_bytes (s.raise_store .storeFault d ▸ hwf) (s.raise .storeFault d).freeIndex
    (r := (s.raise .storeFault d).cutRule false (.program (sec * 65536 + slot * 32) bs))
    (by rw [hrule]; split <;> exact ⟨by simp, by simp⟩) (sec * 65536 + slot * 32) bs
  rw [hbs] at hbytes
  rw [State.failStore_store, State.cutShort, hops]
  refine hbytes.trans ?_
  rw [hrule]
  split <;> rfl

/-- Settles O54: the two timeouts lead to the one failure. -/
theorem timeoutsFailTheStore : Obligations.TimeoutsFailTheStore := by
  intro s c op since spent hpow hact used failed
  have hfailed : ∀ d, failed (s.failStore d) d := by
    intro d
    have hjournal := State.failStore_journal d s
    have hport := State.failStore_port d s
    obtain ⟨hstays, hstalls⟩ := State.failStore_upload d s
    have hrises : (s.raise .storeFault d).tl.flags.getLsbD 6 = true := State.raise_flag .storeFault d s
    have hrewound := congrArg Trunk.flags (s.raise .storeFault d).rewindUpload_tl
    have hnotices := congrArg Trunk.notices (s.raise .storeFault d).rewindUpload_tl
    refine ⟨State.failStore_storeFailed d s, by rw [hjournal]; rfl, by rw [hjournal]; rfl, by rw [hjournal]; rfl,
      by rw [hjournal]; rfl, State.failStore_appendDiscard d s, by rw [hjournal]; rfl, by rw [hjournal]; rfl,
      by rw [hport], by rw [hport], by rw [hport], fun r hr => ?told, fun w k hk hnone => ?walk, ?flag,
      fun hclear hmask hroom => ?notice, hstays, fun hreads => ⟨(hstalls hreads).1, (hstalls hreads).2, ?stalled⟩,
      fun a hop hsus => State.failStore_untouched hact hop hsus d⟩
    case told =>
      have hawaits : r.awaits = true := by obtain rfl | rfl | rfl := hr <;> rfl
      rw [hport, List.mem_append, StorePort.mem_owed hawaits]
    case walk =>
      rw [State.failStore_walks, hk, Option.map_some, Walk.failed, hnone, if_pos Option.isNone_none]
    case flag =>
      cases hreads : s.port.outstanding .upload with
      | false => rw [(hstays hreads).2]; exact hrises
      | true => rw [(hstalls hreads).2]; exact State.raise_keeps_flag (by rw [hrewound]; exact hrises) _ _
    case notice =>
      have hfirst : (s.raise .storeFault d).tl.notices
          = s.tl.notices ++ [.event 6 d (s.tl.flags ||| 0x0040#16) s.tb.runClock] := by
        rw [State.raise_notice hclear hmask, State.queueNotice_room (s := s.flagged .storeFault) hroom]
        rfl
      cases hreads : s.port.outstanding .upload with
      | false => exact ⟨[], by rw [(hstays hreads).2, hfirst]⟩
      | true =>
        obtain ⟨rest, hrest⟩ := State.raise_appends .uploadStalled 1#32 (s.raise .storeFault d).rewindUpload
        refine ⟨rest, ?_⟩
        rw [(hstalls hreads).2, hrest, hnotices]
        simp [hfirst]
    case stalled => rw [(hstalls hreads).2]; exact State.raise_flag .uploadStalled 1#32 _
  have hover : ∀ erase limit, s.overtime erase limit
      = ((if erase then op.isErase else op.isProgram) && decide (limit ≤ used)) := by
    intro erase limit
    simp only [State.overtime, hact]
    rfl
  have hprogram : exec .programTimeout s = .next (if s.overtime false 10 then (s.failStore 0#32).pump else s) :=
    live_powered hpow _
  have herase : exec .eraseTimeout s = .next (if s.overtime true 3000 then (s.failStore 1#32).pump else s) :=
    live_powered hpow _
  refine ⟨fun hno => ?early, fun hop hused => ⟨s.failStore 0#32, ?late, hfailed _, fun hok hsus sec slot bs hslot hbs heq =>
    ⟨fun hsec => ?header, fun hsec hone => ?torn⟩⟩, fun hno => ?earlyErase, fun hop hused => ⟨s.failStore 1#32, ?lateErase,
    hfailed _⟩⟩
  case early =>
    rw [hprogram, hover, if_neg (by simp only [Bool.and_eq_true, decide_eq_true_eq]; rintro ⟨h, h'⟩; simp_all; omega)]
  case late => rw [hprogram, hover, if_pos (by simp [hop, hused])]
  case header =>
    obtain ⟨left, hleft, hslotBytes⟩ := State.failStore_slot hok hbs (heq ▸ hact) hsus hslot (.inl hsec) 0#32
    rw [hslotBytes, if_pos hsec, headerOf?, if_neg (by simp [unsealed_not_valid 30 left (by decide) hleft])]
  case torn =>
    obtain ⟨left, hleft, hslotBytes⟩ := State.failStore_slot hok hbs (heq ▸ hact) hsus hslot (.inr ⟨hsec, hone⟩) 0#32
    obtain ⟨hcrc, herased⟩ := damagedSlot_damaged 29 left (.inl rfl) hleft
    rw [hslotBytes, if_neg (by omega), judgeJournal, herased, hcrc]
    rfl
  case earlyErase =>
    rw [herase, hover, if_neg (by simp only [Bool.and_eq_true, decide_eq_true_eq]; rintro ⟨h, h'⟩; simp_all; omega)]
  case lateErase => rw [herase, hover, if_pos (by simp [hop, hused])]

end Sys2Proof.Machine
end

section
/-! SUPPORT. What is written to the store is read back from it (R129, R134, R137, R40, R42; section 9.8). -/

namespace Sys2Proof.Machine

/-! ### The store -/

theorem StoreOp.read_program_all {m : Memory} (hm : m.wf) (a x : Nat) (bs : List Byte) :
    ((StoreOp.program a bs).apply m).read x
      = if a ≤ x ∧ x < a + bs.length then m.read x &&& bs.getD (x - a) 0#8 else m.read x := by
  split
  next h =>
    obtain ⟨i, rfl⟩ : ∃ i, x = a + i := ⟨x - a, by omega⟩
    have hi : i < bs.length := by omega
    rw [StoreOp.read_program _ _ _ _ hm hi, Nat.add_sub_cancel_left, List.getD_eq_getElem _ _ hi]
  next h =>
    have hlen : (List.zipWith (· &&& ·) (m.bytes a bs.length) bs).length = bs.length := by
      rw [List.length_zipWith, Memory.bytes_length _ _ _ hm, Nat.min_self]
    exact Memory.read_put_outside _ _ _ _ (by omega)

theorem Memory.read_clear (m : Memory) (a n x : Nat) :
    (m.clear a n).read x = if a ≤ x ∧ x < a + n then 0xFF#8 else m.read x := by
  split
  next h => exact Memory.read_clear_inside _ _ _ _ h.1 h.2
  next h => exact Memory.read_clear_outside _ _ _ _ (by omega)

/-- What is programmed into erased bytes is read back. -/
theorem StoreOp.program_erased {m : Memory} (hm : m.wf) {a : Nat} {bs : List Byte}
    (h : erasedBytes (m.bytes a bs.length) = true) : ((StoreOp.program a bs).apply m).bytes a bs.length = bs := by
  rw [Memory.bytes_eq _ _ _ (StoreOp.wf_apply _ _ hm)]
  refine List.ext_getElem (by simp) (fun i hi hi' => ?_)
  have hff : m.read (a + i) = 0xFF#8 := by
    simp only [erasedBytes, Memory.bytes_eq _ _ _ hm, List.all_map, List.all_eq_true, List.mem_range, Function.comp,
      beq_iff_eq] at h
    exact h i hi'
  have hones : ∀ b : Byte, 0xFF#8 &&& b = b := fun b => BitVec.allOnes_and
  rw [List.getElem_map, List.getElem_range, StoreOp.read_program _ _ _ _ hm hi', hff, hones]

/-! ### Records closed by their CRC -/

@[simp] theorem crcBytes_length (c : BitVec 16) : (crcBytes c).length = 2 := rfl

theorem slice_append_right (bs l : List Byte) (n k : Nat) (hbs : bs.length = n) (hl : l.length = k) :
    slice (bs ++ l) n k = l := by
  have h := slice_append_add bs l n k 0 hbs
  rw [Nat.add_zero] at h
  rw [h, slice, List.drop_zero, ← hl, List.take_length]

/-- A record's own CRC agrees. -/
theorem crcAgrees_append {bs : List Byte} (k : Nat) (rest : List Byte) (hbs : bs.length = k)
    (hrest : (bs ++ rest).length = 30) : crcAgrees (bs ++ rest ++ crcBytes (crcK1 bs)) k = true := by
  rw [crcAgrees, slice_append_right _ _ 30 2 hrest rfl, List.append_assoc, List.take_left' hbs, beq_self_eq_true]

theorem crcAgrees_sealed {bs : List Byte} (hbs : bs.length = 30) : crcAgrees (sealed bs) 30 = true := by
  have h := crcAgrees_append 30 [] hbs (by simpa using hbs)
  rwa [List.append_nil] at h

/-- Bytes with one that is not FFH are not erased. -/
theorem erasedBytes_false {bs : List Byte} {b : Byte} (hmem : b ∈ bs) (hb : b ≠ 0xFF#8) : erasedBytes bs = false := by
  rw [erasedBytes, List.all_eq_false]
  exact ⟨b, hmem, by simpa using hb⟩

/-! ### What is read back of a record -/

theorem routeRecordOf_bytes (r : RouteRecord) (hindex : r.index < 65536) (hfamily : r.attrs.family < 256)
    (hutility : r.attrs.utility < 256) (hrule : r.attrs.rule < 256) (hdigits : r.attrs.digits < 256)
    (hprior : r.attrs.prior < 2 ^ 32) (hday : r.attrs.priorDay < 65536) : routeRecordOf (routeRecordBytes r) = r := by
  obtain ⟨id, index, family, utility, segment, cls, rule, digits, prior, day⟩ := r
  generalize hB : routeRecordBytes _ = B
  have e0 : BitVec.ofNat 32 (numAt B 0 4) = id := by subst hB; exact beNat_beBytes_word id
  have e4 : natAt B 4 = family := by subst hB; exact byteOf_toNat _ hfamily
  have e5 : natAt B 5 = utility := by subst hB; exact byteOf_toNat _ hutility
  have e6 : (B.getD 6 0#8).toFin = segment := by
    subst hB
    exact Fin.ext (byteOf_toNat _ segment.isLt)
  have e7 : (RoutingClass.ofCode? (natAt B 7)).getD .drop = cls := by subst hB; cases cls <;> rfl
  have e8 : natAt B 8 = rule := by subst hB; exact byteOf_toNat _ hrule
  have e9 : natAt B 9 = digits := by subst hB; exact byteOf_toNat _ hdigits
  have e10 : numAt B 10 4 = prior := by subst hB; exact beNat_beBytes4 _ hprior
  have e14 : numAt B 14 2 = day := by subst hB; exact beNat_beBytes2 _ hday
  have e16 : numAt B 16 2 = index := by subst hB; exact beNat_beBytes2 _ hindex
  simp only [routeRecordOf, e0, e4, e5, e6, e7, e8, e9, e10, e14, e16]

theorem routeRecord_length (r : RouteRecord) : (routeRecordBytes r).length = 32 := by
  simp [routeRecordBytes, sealed, attrBytes, beBytes_length, zeros]

theorem judgeDir_routeRecord (r : RouteRecord) : judgeDir (routeRecordBytes r) = .valid (routeRecordOf (routeRecordBytes r)) := by
  have hcrc : crcAgrees (routeRecordBytes r) 30 = true :=
    crcAgrees_sealed (by simp [attrBytes, beBytes_length, zeros])
  have hzero : (0#8 : Byte) ∈ routeRecordBytes r := by simp [routeRecordBytes, sealed, zeros]
  rw [judgeDir, erasedBytes_false hzero (by decide), hcrc]
  rfl

theorem headerOf?_headerBytes (h : RouteHeader) (hstate : h.state = .ready ∨ h.state = .opened ∨ h.state = .closed)
    (hcount : h.meterCount < 65536) (hfirst : h.firstSerial < 2 ^ 32) (hday : h.openDay < 65536) :
    headerOf? (headerBytes h) = some h := by
  obtain ⟨st, count, digest, first, day⟩ := h
  have hcrc : crcAgrees (headerBytes ⟨st, count, digest, first, day⟩) 30 = true :=
    crcAgrees_sealed (by simp [beBytes_length, zeros])
  generalize hB : headerBytes _ = B at hcrc ⊢
  have e1 : numAt B 1 2 = count := by subst hB; exact beNat_beBytes2 _ hcount
  have e3 : BitVec.ofNat 32 (numAt B 3 4) = digest := by subst hB; exact beNat_beBytes_word digest
  have e7 : numAt B 7 4 = first := by subst hB; exact beNat_beBytes4 _ hfirst
  have e11 : numAt B 11 2 = day := by subst hB; exact beNat_beBytes2 _ hday
  simp only [headerOf?, hcrc, if_true, e1, e3, e7, e11]
  obtain rfl | rfl | rfl := hstate
  all_goals subst hB; rfl

theorem judgeHeader_sectorHeader (sequence serial : Nat) (hseq : sequence < 2 ^ 32) (hserial : serial < 2 ^ 32) :
    judgeHeader (sectorHeaderBytes sequence serial) = .valid sequence serial := by
  have hcrc : crcAgrees (sectorHeaderBytes sequence serial) 30 = true :=
    crcAgrees_sealed (by simp [beBytes_length, zeros])
  have hzero : (0#8 : Byte) ∈ sectorHeaderBytes sequence serial := by simp [sectorHeaderBytes, sealed, zeros]
  have e0 : numAt (sectorHeaderBytes sequence serial) 0 4 = sequence := beNat_beBytes4 _ hseq
  have e4 : numAt (sectorHeaderBytes sequence serial) 4 4 = serial := beNat_beBytes4 _ hserial
  rw [judgeHeader, erasedBytes_false hzero (by decide), hcrc, e0, e4]
  rfl

theorem readingBytes_length (r : Reading) : (readingBytes r).length = 29 := by
  simp [readingBytes, beBytes_length]

theorem judgeJournal_recordBytes (r : Reading) (mark : Byte) (hsource : r.source < 16) :
    judgeJournal (recordBytes r mark) = .valid (recordBytes r mark) := by
  have hcrc : crcAgrees (recordBytes r mark) 29 = true :=
    crcAgrees_append 29 [mark] (readingBytes_length r) (by simp [readingBytes_length])
  have hmem : byteOf (r.kind.code * 16 + r.source) ∈ recordBytes r mark := by simp [recordBytes, readingBytes]
  have hkind : byteOf (r.kind.code * 16 + r.source) ≠ 0xFF#8 := by
    intro heq
    have hvalue := congrArg BitVec.toNat heq
    have hcode : r.kind.code ≤ 3 := by cases r.kind <;> decide
    rw [byteOf_toNat _ (by omega)] at hvalue
    have hff : (0xFF#8 : Byte).toNat = 255 := rfl
    omega
  rw [judgeJournal, erasedBytes_false hmem hkind, hcrc]
  rfl

/-! ### The configuration image -/

theorem goodImage_iff (bs : List Byte) : goodImage bs = true ↔
    numAt bs 0 2 = 418 ∧ numAt bs 2 2 = 379 ∧ numAt bs 375 4 = (crc32 (bs.take 375)).toNat := by
  simp only [goodImage, Bool.and_eq_true, beq_iff_eq, and_assoc]
  rfl

/-- Sixteen bits in two bytes are read back. -/
theorem beNat_beBytes_half (w : BitVec 16) : BitVec.ofNat 16 (beNat (beBytes 2 w.toNat)) = w := by
  rw [beNat_beBytes2 _ w.isLt]; simp

/-- A table read entry by entry. -/
theorem map_range_eq {α : Type} {n : Nat} (v : Vector α n) (g : Nat → α) (hg : ∀ i : Fin n, g i.val = v[i]) :
    (List.range n).map g = v.toList :=
  List.ext_getElem (by simp) (fun i hi hi' => by simpa using hg ⟨i, by simpa using hi⟩)

theorem slice_part {pre part : List Byte} {n k : Nat} (hpre : pre.length = n) (hpart : part.length = k) (rest : List Byte) :
    slice (pre ++ (part ++ rest)) n k = part := by
  have h := slice_append_add pre (part ++ rest) n k 0 hpre
  rw [Nat.add_zero] at h
  rw [h, slice, List.drop_zero, List.take_left' hpart]

/-- An entry of a table within the image. -/
theorem slice_table {α : Type} {l : List α} {g : α → List Byte} {k : Nat} (hg : ∀ x, (g x).length = k) {pre : List Byte}
    {n : Nat} (hpre : pre.length = n) (rest : List Byte) {i : Nat} (hi : i < l.length) :
    slice (pre ++ (l.flatMap g ++ rest)) (n + k * i) k = g l[i] := by
  rw [slice_append_add _ _ _ _ _ hpre]
  exact flatMap_slice l g k i (fun x _ => hg x) hi rest

section
variable (s : State)

/-- The parts of the image, each where section 9.8 has it. -/
theorem image_parts : (imageBytes s.settings).length = 379 ∧
    (∀ p : Fin 8, slice (imageBytes s.settings) (4 + 7 * p.val) 7 = portBytes s.ports[p].settings) ∧
    (∀ c : Fin 8, slice (imageBytes s.settings) (60 + 3 * c.val) 3
      = channelBytes ⟨s.channels[c].source, s.channels[c].mask, s.channels[c].threshold⟩) ∧
    (∀ f : Fin 8, slice (imageBytes s.settings) (84 + 16 * f.val) 16 = familyBytes s.families[f]) ∧
    slice (imageBytes s.settings) 212 2 = [byteOf s.tb.mode.code, byteOf s.tb.window] ∧
    (∀ n : Fin 8, slice (imageBytes s.settings) (214 + 11 * n.val) 11 = rangeBytes s.cl.ranges[n]) ∧
    (∀ n : Fin 16, slice (imageBytes s.settings) (302 + 4 * n.val) 4 = ruleBytes s.rules[n]) ∧
    slice (imageBytes s.settings) 366 9 = [byteOf s.cl.policy.code] ++ beBytes 2 s.mc.hold ++ beBytes 2 s.mc.quiet
      ++ beBytes 2 s.cl.utilities.toNat ++ beBytes 2 s.tl.mask.toNat := by
  obtain ⟨ports, channels, families, ranges, rules, crc, himage, rfl, rfl, rfl, rfl, rfl, hports, hchannels, hfamilies,
    hranges, hrules, hcrc⟩ := imageBytes_eq s
  have h60 := himage.trans (List.append_assoc _ _ _).symm
  have h84 := h60.trans (List.append_assoc _ _ _).symm
  have h212 := h84.trans (List.append_assoc _ _ _).symm
  have h214 := h212.trans (List.append_assoc _ _ _).symm
  have h302 := h214.trans (List.append_assoc _ _ _).symm
  have h366 := h302.trans (List.append_assoc _ _ _).symm
  have hcrcLen : crc.length = 4 := by rw [hcrc, beBytes_length]
  refine ⟨?_, fun p => ?_, fun c => ?_, fun f => ?_, ?_, fun n => ?_, fun n => ?_, ?_⟩
  · simp [himage, hports, hchannels, hfamilies, hranges, hrules, hcrcLen, beBytes_length]
  · rw [himage, slice_table portBytes_length (n := 4) (by simp [beBytes_length]) _ (i := p.val) (by simp [State.settings])]
    simp [State.settings]
  · rw [h60, slice_table channelBytes_length (n := 60) (by simp [hports, beBytes_length]) _ (i := c.val) (by simp [State.settings])]
    simp [State.settings]
  · rw [h84, slice_table familyBytes_length (n := 84) (by simp [hports, hchannels, beBytes_length]) _ (i := f.val) (by simp [State.settings])]
    simp [State.settings]
  · exact (congrArg (slice · 212 2) h212).trans (slice_part (by simp [hports, hchannels, hfamilies, beBytes_length]) rfl _)
  · rw [h214, slice_table rangeBytes_length (n := 214) (by simp [hports, hchannels, hfamilies, beBytes_length]) _ (i := n.val) (by simp [State.settings])]
    simp [State.settings]
  · rw [h302, slice_table ruleBytes_length (n := 302) (by simp [hports, hchannels, hfamilies, hranges, beBytes_length]) _ (i := n.val) (by simp [State.settings])]
    simp [State.settings]
  · exact (congrArg (slice · 366 9) h366).trans (slice_part
      (by simp [hports, hchannels, hfamilies, hranges, hrules, beBytes_length]) (by simp [beBytes_length]) _)

theorem goodImage_imageBytes : goodImage (imageBytes s.settings) = true := by
  obtain ⟨hlen, -⟩ := image_parts s
  have hbody : (imageBody s.settings).length = 375 := by
    rw [imageBytes, List.length_append, beBytes_length] at hlen
    omega
  have hcrc : (crc32 (imageBody s.settings)).toNat < 2 ^ 32 := (crc32 _).isLt
  refine (goodImage_iff _).mpr ⟨rfl, rfl, ?_⟩
  rw [imageBytes, List.take_left' hbody, numAt, slice_append_right _ _ 375 4 hbody (beBytes_length _ _), beNat_beBytes4 _ hcrc]

/-- Settings in their widths are read back from their image. -/
theorem settingsOf_imageBytes (h : s.settingsOk) : settingsOf (imageBytes s.settings) = s.settings := by
  obtain ⟨-, hports, hchannels, hfamilies, hpulse, hranges, hrules, htail⟩ := image_parts s
  obtain ⟨hrate, hthreshold, hfamily, hwindow, hrange, hrule, hhold, hquiet⟩ := h
  generalize imageBytes s.settings = image at *
  have e366 : natAt image (366 + 0) = natAt (slice image 366 9) 0 := natAt_add_slice _ _ _ _ (by decide)
  have tailAt (j : Nat) (hj : j + 2 ≤ 9) : numAt image (366 + j) 2 = numAt (slice image 366 9) j 2 :=
    numAt_add_slice _ _ _ _ _ hj
  have e212 : natAt image (212 + 0) = natAt (slice image 212 2) 0 := natAt_add_slice _ _ _ _ (by decide)
  have e213 : natAt image (212 + 1) = natAt (slice image 212 2) 1 := natAt_add_slice _ _ _ _ (by decide)
  have e367 := tailAt 1 (by decide)
  have e369 := tailAt 3 (by decide)
  have e371 := tailAt 5 (by decide)
  have e373 := tailAt 7 (by decide)
  rw [hpulse] at e212 e213
  rw [htail] at e366 e367 e369 e371 e373
  have ports : (List.range 8).map (fun n => portOf image (4 + 7 * n)) = s.ports.toList.map (·.settings) := by
    rw [← Vector.toList_map]
    refine map_range_eq _ _ (fun p => ?_)
    rw [portOf_slice, hports, portOf_portBytes _ (hrate p)]
    simp
  have channels : (List.range 8).map (fun n => channelOf image (60 + 3 * n))
      = s.channels.toList.map (fun c => ⟨c.source, c.mask, c.threshold⟩) := by
    rw [← Vector.toList_map]
    refine map_range_eq _ _ (fun c => ?_)
    rw [channelOf_slice, hchannels, channelOf_channelBytes _ (hthreshold c)]
    simp
  have families : (List.range 8).map (fun n => familyOf image (84 + 16 * n)) = s.families.toList :=
    map_range_eq _ _ (fun f => by rw [familyOf_slice, hfamilies, familyOf_familyBytes _ (hfamily f)])
  have ranges : (List.range 8).map (fun n => rangeOf image (214 + 11 * n)) = s.cl.ranges.toList :=
    map_range_eq _ _ (fun n => by rw [rangeOf_slice, hranges, rangeOf_rangeBytes _ (hrange n)])
  have rules : (List.range 16).map (fun n => ruleOf image (302 + 4 * n)) = s.rules.toList :=
    map_range_eq _ _ (fun n => by rw [ruleOf_slice, hrules, ruleOf_ruleBytes _ (hrule n)])
  have pulse : (PulseMode.ofCode? (natAt image 212)).getD .off = s.tb.mode := by rw [e212]; cases s.tb.mode <;> rfl
  have window : natAt image 213 = s.tb.window := e213.trans (byteOf_toNat _ hwindow)
  have policy : (ForeignPolicy.ofCode? (natAt image 366)).getD .drop = s.cl.policy := by
    rw [e366]; cases s.cl.policy <;> rfl
  have hold : numAt image 367 2 = s.mc.hold := e367.trans (beNat_beBytes2 s.mc.hold hhold)
  have quiet : numAt image 369 2 = s.mc.quiet := e369.trans (beNat_beBytes2 s.mc.quiet hquiet)
  have utilities : BitVec.ofNat 16 (numAt image 371 2) = s.cl.utilities :=
    (congrArg _ e371).trans (beNat_beBytes_half s.cl.utilities)
  have mask : BitVec.ofNat 16 (numAt image 373 2) = s.tl.mask := (congrArg _ e373).trans (beNat_beBytes_half s.tl.mask)
  rw [settingsOf, ports, channels, families, pulse, window, ranges, rules, policy, hold, quiet, utilities, mask]
  rfl

end

/-- Settles O51, part by part. -/
theorem recordsReadBackAsWritten : Obligations.RecordsReadBackAsWritten := by
  refine ⟨fun m hm => ⟨fun a n => Memory.bytes_eq m a n hm, fun _ _ => rfl, fun a x bs => StoreOp.read_program_all hm a x bs,
      fun sec x => ⟨rfl, Memory.read_clear m _ _ x⟩, fun a bs herased => StoreOp.program_erased hm herased⟩,
    ⟨fun r => ?route, fun _ => rfl, fun _ _ => rfl, fun _ _ => rfl⟩, goodImage_iff, fun s => ?image,
    fun r hindex hfamily hutility hrule hdigits hprior hday => ⟨routeRecord_length r, ?record⟩,
    fun h hstate hcount hfirst hday => ⟨?headerLength, headerOf?_headerBytes h hstate hcount hfirst hday⟩,
    fun sequence serial hseq hserial => ⟨?sectorLength, judgeHeader_sectorHeader sequence serial hseq hserial⟩,
    fun r mark hserial hindex hvalue hsource => ⟨?journalLength, judgeJournal_recordBytes r mark hsource, ?fields⟩⟩
  case route => simp only [routeRecordBytes, attrBytes, sealed, crcBytes, zeros, List.append_assoc]
  case image =>
    obtain ⟨hlen, hports, hchannels, hfamilies, hpulse, hranges, hrules, htail⟩ := image_parts s
    refine ⟨hlen, goodImage_imageBytes s, settingsOf_imageBytes s, hports, fun c => ?_, hfamilies, hpulse, fun n => ?_,
      hrules, htail⟩
    · rw [hchannels]; rfl
    · exact hranges n
  case record => rw [judgeDir_routeRecord, routeRecordOf_bytes r hindex hfamily hutility hrule hdigits hprior hday]
  case headerLength => simp [headerBytes, sealed, beBytes_length, zeros]
  case sectorLength => simp [sectorHeaderBytes, sealed, beBytes_length, zeros]
  case journalLength => simp [recordBytes, readingBytes_length]
  case fields =>
    exact ⟨beNat_beBytes4 r.serial hserial, beNat_beBytes_word r.meterId, beNat_beBytes2 r.routeIndex hindex,
      beNat_beBytes4 r.value hvalue, beNat_beBytes_half r.flags, rfl⟩

end Sys2Proof.Machine
end

section
/-! SUPPORT. The journal scan (R150 to R152): the span and its slots, the records among them, and what the scan sets. -/

namespace Sys2Proof.Machine

variable {s : State} {m : Memory}

/-! ### Headers -/

theorem judgeHeader_valid_of_mem {sec q f : Nat} (h : (sec, q, f) ∈ m.validHeaders) :
    18 ≤ sec ∧ sec ≤ 511 ∧ judgeHeader (m.slot sec 0) = .valid q f := by
  rw [Memory.validHeaders, List.mem_filterMap] at h
  obtain ⟨sec', hsec, hvalid⟩ := h
  split at hvalid
  next q' f' hjudge =>
    obtain ⟨rfl, rfl, rfl⟩ : sec' = sec ∧ q' = q ∧ f' = f := by simpa using hvalid
    rw [Memory.headerSectors, mem_dedupRising, List.mem_filterMap] at hsec
    obtain ⟨c, -, hc⟩ := hsec
    simp only [Option.ite_none_right_eq_some, Option.some.injEq] at hc
    obtain ⟨⟨hlow, hhigh, -⟩, rfl⟩ := hc
    exact ⟨hlow, hhigh, hjudge⟩
  next => cases hvalid

/-- The better of two sequence numbers. -/
def betterSequence (lowest : Bool) (a b : Nat) : Prop := if lowest then a ≤ b else b ≤ a

theorem bestHeader_eq_none_iff (lowest : Bool) (l : List (Nat × Nat × Nat)) : bestHeader lowest l = none ↔ l = [] := by
  cases l with
  | nil => simp [bestHeader]
  | cons h hs =>
    simp only [bestHeader, reduceCtorEq, iff_false]
    intro hnone
    split at hnone
    · cases hnone
    · split_ifs at hnone

/-- The header chosen is one of the list, and none is better. -/
theorem bestHeader_spec {lowest : Bool} {l : List (Nat × Nat × Nat)} {h : Nat × Nat × Nat} (hbest : bestHeader lowest l = some h) :
    h ∈ l ∧ ∀ g ∈ l, betterSequence lowest h.2.1 g.2.1 := by
  induction l generalizing h with
  | nil => cases hbest
  | cons a l ih =>
    rw [bestHeader] at hbest
    split at hbest
    next hnone =>
      obtain rfl := Option.some.inj hbest
      obtain rfl := (bestHeader_eq_none_iff _ _).mp hnone
      simp [betterSequence]
    next g hg =>
      obtain ⟨hmem, hall⟩ := ih hg
      by_cases hlt : if lowest = true then g.2.1 < a.2.1 else a.2.1 < g.2.1
      · rw [if_pos hlt] at hbest
        obtain rfl := Option.some.inj hbest
        refine ⟨List.mem_cons_of_mem _ hmem, fun x hx => ?_⟩
        obtain rfl | hx := List.mem_cons.mp hx
        · cases lowest <;> simp [betterSequence] at hlt ⊢ <;> omega
        · exact hall x hx
      · rw [if_neg hlt] at hbest
        obtain rfl := Option.some.inj hbest
        refine ⟨List.mem_cons_self, fun x hx => ?_⟩
        obtain rfl | hx := List.mem_cons.mp hx
        · cases lowest <;> simp [betterSequence]
        · have := hall x hx
          cases lowest <;> simp [betterSequence] at hlt this ⊢ <;> omega

/-! ### The slots of a sector -/

theorem judgeJournal_erased_iff (bs : List Byte) : judgeJournal bs = .erased ↔ erasedBytes bs = true := by
  unfold judgeJournal
  split
  next h => simp [h]
  next h => split <;> simp [h]

theorem Memory.occupied_sector (h : m.wf) (sec : Nat) : m.occupied (sec * sectorSize) sectorSlots
    = (List.range 2048).filter fun i => !erasedBytes (m.slot sec i) := Memory.occupied_eq h _ _

theorem Memory.mem_usedSlots (h : m.wf) {sec i : Nat} :
    i ∈ m.usedSlots sec ↔ (1 ≤ i ∧ i ≤ 2047) ∧ judgeJournal (m.slot sec i) ≠ .erased := by
  rw [Memory.usedSlots, Memory.occupied_sector h, List.mem_filter, List.mem_filter, List.mem_range, Ne,
    judgeJournal_erased_iff, decide_eq_true_eq, Bool.not_eq_true', Bool.not_eq_true]
  constructor
  · rintro ⟨⟨hlt, herased⟩, hone⟩
    exact ⟨⟨hone, by omega⟩, herased⟩
  · rintro ⟨⟨hone, hlt⟩, herased⟩
    exact ⟨⟨by omega, herased⟩, hone⟩

theorem Memory.usedSlots_pairwise (h : m.wf) (sec : Nat) : (m.usedSlots sec).Pairwise (· < ·) := by
  rw [Memory.usedSlots, Memory.occupied_sector h]
  exact (List.pairwise_lt_range.filter _).filter _

/-- The slot after the last one of a sector that is not erased (R151). -/
def Memory.nextSlot (m : Memory) (sec : Nat) : Nat := ((m.usedSlots sec).getLast?.map (· + 1)).getD 1

theorem Memory.nextSlot_spec (h : m.wf) (sec : Nat) :
    1 ≤ m.nextSlot sec ∧ m.nextSlot sec ≤ 2048 ∧
    (∀ slot, m.nextSlot sec ≤ slot → slot < 2048 → judgeJournal (m.slot sec slot) = .erased) ∧
    (1 < m.nextSlot sec → judgeJournal (m.slot sec (m.nextSlot sec - 1)) ≠ .erased) := by
  have hmem (i : Nat) := Memory.mem_usedSlots h (sec := sec) (i := i)
  have hrising := Memory.usedSlots_pairwise h sec
  unfold Memory.nextSlot
  generalize m.usedSlots sec = used at *
  rcases List.eq_nil_or_concat used with rfl | ⟨pre, i, rfl⟩
  · refine ⟨Nat.le_refl _, by simp, fun slot hle hlt => ?_, fun hlt => absurd hlt (by simp)⟩
    by_contra hused
    have hle : 1 ≤ slot := hle
    exact absurd ((hmem slot).mpr ⟨⟨hle, by omega⟩, hused⟩) (by simp)
  · obtain ⟨hrange, hused⟩ := (hmem i).mp (by simp)
    have hnext : ((pre.concat i).getLast?.map (· + 1)).getD 1 = i + 1 := by simp
    rw [hnext]
    refine ⟨by omega, by omega, fun slot hle hlt => ?_, fun _ => hused⟩
    by_contra hlate
    have hslot := (hmem slot).mpr ⟨⟨by omega, by omega⟩, hlate⟩
    rw [List.concat_eq_append, List.mem_append, List.mem_singleton] at hslot
    rw [List.concat_eq_append, List.pairwise_append] at hrising
    rcases hslot with hslot | rfl
    · have := hrising.2.2 slot hslot i (by simp)
      omega
    · omega

/-! ### The span -/

theorem Journal.mem_span {j : Journal} (htail : 18 ≤ j.tail ∧ j.tail ≤ 511) {sec : Nat} :
    sec ∈ j.span ↔ j.inSpan sec = true := by
  have hlen : j.spanLength ≤ 494 := by
    have : ringOffset j.tail j.head < 494 := Nat.mod_lt _ (by decide)
    simp only [Journal.spanLength]
    omega
  simp only [Journal.span, Journal.inSpan, List.mem_map, List.mem_range, Bool.and_eq_true, decide_eq_true_eq]
  simp only [ringOffset, journalFirst, journalLast, journalSectors]
  constructor
  · rintro ⟨i, hi, rfl⟩
    omega
  · rintro ⟨⟨hlow, hhigh⟩, hin⟩
    exact ⟨(sec + 494 - j.tail) % 494, hin, by omega⟩

theorem Journal.span_nodup (j : Journal) : j.span.Nodup := by
  have hlen : j.spanLength ≤ 494 := by
    have : ringOffset j.tail j.head < 494 := Nat.mod_lt _ (by decide)
    simp only [Journal.spanLength]
    omega
  refine List.Nodup.map_on (fun a ha b hb hab => ?_) List.nodup_range
  rw [List.mem_range] at ha hb
  simp only [journalSectors, journalFirst] at hab
  omega

/-! ### The slots of the journal -/

/-- A slot of the journal: of a sector of the span that is no hole, and no header slot. -/
def State.UsedSlot (s : State) (sec slot : Nat) : Prop :=
  s.journal.inSpan sec = true ∧ s.isHole sec = false ∧ 1 ≤ slot ∧ slot ≤ 2047

theorem State.mem_journalSlots (hwf : s.store.wf) (htail : 18 ≤ s.journal.tail ∧ s.journal.tail ≤ 511)
    {sec slot : Nat} {x : JournalSlot} : (sec, slot, x) ∈ s.journalSlots ↔
      s.UsedSlot sec slot ∧ judgeJournal (s.store.slot sec slot) = x ∧ x ≠ .erased := by
  simp only [State.journalSlots, List.mem_flatMap, List.mem_filter, Journal.mem_span htail, List.mem_map,
    Memory.mem_usedSlots hwf, Bool.not_eq_true', Prod.mk.injEq, State.UsedSlot]
  constructor
  · rintro ⟨sec', ⟨hspan, hhole⟩, slot', ⟨hrange, hused⟩, rfl, rfl, rfl⟩
    exact ⟨⟨hspan, hhole, hrange⟩, rfl, hused⟩
  · rintro ⟨⟨hspan, hhole, hrange⟩, rfl, hused⟩
    exact ⟨sec, ⟨hspan, hhole⟩, slot, ⟨hrange, hused⟩, rfl, rfl, rfl⟩

/-- No slot of the journal is listed twice. -/
theorem State.journalSlots_pairwise (hwf : s.store.wf) :
    s.journalSlots.Pairwise (fun x y => (x.1, x.2.1) ≠ (y.1, y.2.1)) := by
  rw [State.journalSlots, List.pairwise_flatMap]
  refine ⟨fun sec _ => ?_, ((Journal.span_nodup _).filter _).imp fun {a b} hne x hx y hy => ?_⟩
  · rw [List.pairwise_map]
    exact (Memory.usedSlots_pairwise hwf sec).imp fun hlt heq => absurd (Prod.mk.inj heq).2 (Nat.ne_of_lt hlt)
  · obtain ⟨i, -, rfl⟩ := List.mem_map.mp hx
    obtain ⟨k, -, rfl⟩ := List.mem_map.mp hy
    exact fun heq => hne (Prod.mk.inj heq).1

/-! ### The records among the slots -/

theorem mem_validRecords {l : List (Nat × Nat × JournalSlot)} {sec slot : Nat} {bs : List Byte} :
    (sec, slot, bs) ∈ validRecords l ↔ (sec, slot, .valid bs) ∈ l := by
  rw [validRecords, List.mem_filterMap]
  constructor
  · rintro ⟨⟨sec', slot', x⟩, hmem, hx⟩
    cases x with
    | valid bs' =>
      obtain ⟨rfl, rfl, rfl⟩ : sec' = sec ∧ slot' = slot ∧ bs' = bs := by simpa using hx
      exact hmem
    | erased => cases hx
    | torn => cases hx
  · intro hmem
    exact ⟨_, hmem, rfl⟩

theorem validRecords_pairwise {l : List (Nat × Nat × JournalSlot)}
    (h : l.Pairwise (fun x y => (x.1, x.2.1) ≠ (y.1, y.2.1))) :
    (validRecords l).Pairwise (fun x y => (x.1, x.2.1) ≠ (y.1, y.2.1)) := by
  refine List.Pairwise.filterMap _ (fun x y hxy a ha b hb => ?_) h
  obtain ⟨sec, slot, x⟩ := x
  obtain ⟨sec', slot', y⟩ := y
  cases x with
  | erased => cases ha
  | torn => cases ha
  | valid =>
    cases y with
    | erased => cases hb
    | torn => cases hb
    | valid =>
      obtain rfl := Option.some.inj ha
      obtain rfl := Option.some.inj hb
      exact hxy

/-- The slots that are not erased are records or torn. -/
theorem length_validRecords {l : List (Nat × Nat × JournalSlot)} (h : ∀ p ∈ l, p.2.2 ≠ .erased) :
    l.length = (validRecords l).length + (l.filter (fun p => p.2.2 == .torn)).length := by
  induction l with
  | nil => rfl
  | cons p l ih =>
    obtain ⟨sec, slot, x⟩ := p
    have hrest := ih (fun q hq => h q (List.mem_cons_of_mem _ hq))
    have hp := h (sec, slot, x) List.mem_cons_self
    cases x with
    | erased => exact absurd rfl hp
    | valid bs => simp [validRecords] at hrest ⊢; omega
    | torn => simp [validRecords] at hrest ⊢; omega

theorem firstUnmarked_none {l : List (Nat × Nat × List Byte)} : firstUnmarked l = none ↔ ∀ r ∈ l, uploaded r.2.2 = true := by
  induction l with
  | nil => simp [firstUnmarked]
  | cons r l ih =>
    rw [firstUnmarked, List.forall_mem_cons, ← ih]
    cases firstUnmarked l with
    | none => simp
    | some q =>
      dsimp only
      split <;> simp

/-- The record chosen is the one of lowest serial not uploaded. -/
theorem firstUnmarked_some {l : List (Nat × Nat × List Byte)} {r : Nat × Nat × List Byte} (h : firstUnmarked l = some r) :
    r ∈ l ∧ uploaded r.2.2 = false ∧ ∀ q ∈ l, uploaded q.2.2 = false → recSerial r.2.2 ≤ recSerial q.2.2 := by
  induction l generalizing r with
  | nil => cases h
  | cons a l ih =>
    rw [firstUnmarked] at h
    split at h
    next hnone =>
      have hall := firstUnmarked_none.mp hnone
      split at h
      · cases h
      next ha =>
        obtain rfl := Option.some.inj h
        refine ⟨List.mem_cons_self, by simpa using ha, fun q hq hu => ?_⟩
        obtain rfl | hq := List.mem_cons.mp hq
        · exact Nat.le_refl _
        · rw [hall q hq] at hu
          cases hu
    next q hq =>
      obtain ⟨hmem, hun, hleast⟩ := ih hq
      split at h
      next hc =>
        obtain rfl := Option.some.inj h
        refine ⟨List.mem_cons_of_mem _ hmem, hun, fun x hx hu => ?_⟩
        obtain rfl | hx := List.mem_cons.mp hx
        · rcases hc with hc | hc
          · rw [hc] at hu
            cases hu
          · omega
        · exact hleast x hx hu
      next hc =>
        obtain rfl := Option.some.inj h
        obtain ⟨ha, hle⟩ := not_or.mp hc
        refine ⟨List.mem_cons_self, by simpa using ha, fun x hx hu => ?_⟩
        obtain rfl | hx := List.mem_cons.mp hx
        · exact Nat.le_refl _
        · have := hleast x hx hu
          omega

/-- The next serial is at least the head's first serial, above every record, and one of these. -/
theorem scanNext_spec (records : List (Nat × Nat × List Byte)) (first : Nat) :
    first ≤ scanNext records first ∧ (∀ r ∈ records, recSerial r.2.2 < scanNext records first) ∧
    (scanNext records first = first ∨ ∃ r ∈ records, scanNext records first = recSerial r.2.2 + 1) := by
  induction records generalizing first with
  | nil => simp [scanNext]
  | cons r l ih =>
    obtain ⟨hfirst, hall, hone⟩ := ih (max first (recSerial r.2.2 + 1))
    have hcons : scanNext (r :: l) first = scanNext l (max first (recSerial r.2.2 + 1)) := rfl
    rw [hcons]
    refine ⟨by omega, fun x hx => ?_, ?_⟩
    · obtain rfl | hx := List.mem_cons.mp hx
      · omega
      · exact hall x hx
    · rcases hone with hone | ⟨x, hx, hone⟩
      · rcases Nat.le_total (recSerial r.2.2 + 1) first with hle | hle
        · exact .inl (by rw [hone]; omega)
        · exact .inr ⟨r, List.mem_cons_self, by rw [hone]; omega⟩
      · exact .inr ⟨x, List.mem_cons_of_mem _ hx, hone⟩

end Sys2Proof.Machine
end

section
/-! SUPPORT. JOURNAL_SCAN_DONE (R149 to R152). -/

namespace Sys2Proof.Machine

variable {s : State}

/-! ### What the scan sets -/

/-- The slots the scan judges, with the tail and head it has found (R151). -/
def State.scanSlots (tail head : Nat) (s : State) : List (Nat × Nat × JournalSlot) :=
  (s.setJournal (s.journal.placed tail head)).journalSlots

/-- The journal as the scan leaves it, but for the marks (R151). -/
def State.scannedAt (tail head first done : Nat) (cursor : Nat × Nat) (s : State) : Journal :=
  let slots := s.scanSlots tail head
  let j := s.journal.placed tail head
  { j with
    state := if s.store.nextSlot head = 2048 ∧ j.ahead = 0 then .full else .ready
    headNext := s.store.nextSlot head, nextSerial := scanNext (validRecords slots) first
    markTarget := done, markDone := done, marking := none, cursorSector := cursor.1, cursorSlot := cursor.2
    torn := slots.length - (validRecords slots).length
    uncertain := (validRecords slots).countP (fun r => uncertainMark r.2.2) }

/-- The marks of the scan: the record of lowest serial not uploaded, or none (R152). -/
theorem State.scanJournal_eq (tail head first : Nat) (s : State) : ∃ (done : Nat) (cursor : Nat × Nat),
    s.scanJournal tail head first = s.setJournal (s.scannedAt tail head first done cursor) ∧
    ((firstUnmarked (validRecords (s.scanSlots tail head)) = none
        ∧ done = scanNext (validRecords (s.scanSlots tail head)) first - 1 ∧ cursor = (head, s.store.nextSlot head))
      ∨ ∃ r, firstUnmarked (validRecords (s.scanSlots tail head)) = some r
        ∧ done = recSerial r.2.2 - 1 ∧ cursor = (r.1, r.2.1)) := by
  have hslots : (s.setJournal (s.journal.placed tail head)).journalSlots = s.scanSlots tail head := rfl
  unfold State.scanJournal
  simp only [hslots]
  cases h : firstUnmarked (validRecords (s.scanSlots tail head)) with
  | none => exact ⟨_, _, rfl, .inl ⟨rfl, rfl, rfl⟩⟩
  | some r => exact ⟨_, _, rfl, .inr ⟨r, rfl, rfl, rfl⟩⟩

/-- The tests that close the scan, of a tail that is no hole (R146, R148, R152). -/
theorem State.scanTests_eq (h : s.isHole s.journal.tail = false) : s.scanTests =
    let reclaiming := s.testReclaim
    let low := if s.journal.ahead ≤ 2 ∧ s.journal.cursorSector = s.journal.tail
      then reclaiming.raise .journalLow (BitVec.ofNat 32 s.journal.ahead) else reclaiming
    if s.journal.state = .full then low.raise .journalFull (BitVec.ofNat 32 s.journal.head) else low := by
  have hhole : s.testReclaim.isHole s.journal.tail = false := by
    rw [State.isHole, State.testReclaim_journal, State.testReclaim_store]
    exact h
  have hmarked : s.testReclaim.tailMarked = false ↔ s.journal.cursorSector = s.journal.tail := by
    rw [State.tailMarked, State.testReclaim_journal, hhole, Bool.or_false, bne_eq_false_iff_eq]
  have hlow : s.testReclaim.testLow = if s.journal.ahead ≤ 2 ∧ s.journal.cursorSector = s.journal.tail
      then s.testReclaim.raise .journalLow (BitVec.ofNat 32 s.journal.ahead) else s.testReclaim := by
    rw [State.testLow, State.testReclaim_journal]
    exact if_congr (and_congr_right' hmarked) rfl rfl
  have hjournal : s.testReclaim.testLow.journal = s.journal := by simp
  unfold State.scanTests
  dsimp only
  rw [hjournal, hlow]

/-! ### The row -/

theorem State.afterStartup_scanEmpty {len : Nat} (hstart : s.startup = .scan) (hnone : s.store.validHeaders = []) :
    s.afterStartup (.read 1179648 len) = some (s.endOp.request .startup
      (if s.endOp.store.blank 1179648 65536 then scanProgram else .erase 18)) := by
  unfold State.afterStartup
  rw [hstart]
  exact if_pos ⟨rfl, hnone⟩

theorem State.afterStartup_scanErase {sec : Nat} (hstart : s.startup = .scan) :
    s.afterStartup (.erase sec) = some (s.endOp.request .startup scanProgram) := by
  unfold State.afterStartup
  rw [hstart]

/-- The scan of a journal with a valid header has a row. -/
theorem State.afterStartup_scan {op : StoreOp} (hstart : s.startup = .scan) (herase : op.isErase = false)
    (hsome : (op.apply s.store).validHeaders ≠ []) : s.afterStartup op = none := by
  cases op with
  | read a len =>
    unfold State.afterStartup
    rw [hstart]
    exact if_neg fun h => hsome h.2
  | program => simp only [State.afterStartup, hstart]
  | erase => cases herase

theorem exec_journalScanDone {op : StoreOp} (hstart : s.startsAt .scan) (hport : s.inPort .startup op)
    (hrow : s.afterStartup op = none) : exec .journalScanDone s = .next s.endOp.scanned.beginHeaderRead.pump := by
  show execJournalScanDone s = _
  simp only [execJournalScanDone, hport.settled_startup hrow, hstart.2, if_true, hport.startFailed, hport.startInFlight,
    live_powered hstart.1]
  rfl

/-- The slots counted by the scan, of the kind that `p` names. -/
theorem State.slots_counted {α : Type} {l : List (Nat × Nat × α)} (hl : l.Pairwise (fun x y => (x.1, x.2.1) ≠ (y.1, y.2.1)))
    (p : Nat × Nat × α → Bool) : ((l.filter p).map (fun x => (x.1, x.2.1))).Nodup ∧
    ∀ sec slot, (sec, slot) ∈ (l.filter p).map (fun x => (x.1, x.2.1)) ↔ ∃ x, (sec, slot, x) ∈ l ∧ p (sec, slot, x) = true := by
  refine ⟨List.pairwise_map.mpr (hl.filter p), fun sec slot => ?_⟩
  rw [List.mem_map]
  constructor
  · rintro ⟨⟨sec', slot', x⟩, hx, heq⟩
    obtain ⟨rfl, rfl⟩ := Prod.mk.inj heq
    exact ⟨x, List.mem_filter.mp hx⟩
  · rintro ⟨x, hx⟩
    exact ⟨(sec, slot, x), List.mem_filter.mpr hx, rfl⟩

/-- The slots of the journal that `p` names are counted by a list without repeats. -/
def Counts (n : Nat) (p : Nat → Nat → Prop) : Prop :=
  ∃ l : List (Nat × Nat), l.Nodup ∧ (∀ sec slot : Nat, (sec, slot) ∈ l ↔ p sec slot) ∧ n = l.length

section
variable (hwf : s.store.wf) (htail : 18 ≤ s.journal.tail ∧ s.journal.tail ≤ 511)
include hwf htail

/-- A record of the journal (R137). -/
def State.JournalRecord (s : State) (sec slot : Nat) (bs : List Byte) : Prop :=
  s.UsedSlot sec slot ∧ judgeJournal (s.store.slot sec slot) = .valid bs

theorem State.mem_records {sec slot : Nat} {bs : List Byte} :
    (sec, slot, bs) ∈ validRecords s.journalSlots ↔ s.JournalRecord sec slot bs := by
  rw [mem_validRecords, State.mem_journalSlots hwf htail]
  exact and_congr_right' (and_iff_left (by simp))

theorem State.torn_counted : Counts (s.journalSlots.length - (validRecords s.journalSlots).length)
    (fun sec slot => s.UsedSlot sec slot ∧ judgeJournal (s.store.slot sec slot) = .torn) := by
  obtain ⟨hnodup, hmem⟩ := State.slots_counted (State.journalSlots_pairwise hwf) (fun p => p.2.2 == .torn)
  have hlen := length_validRecords (l := s.journalSlots)
    (fun p hp => ((State.mem_journalSlots hwf htail (sec := p.1) (slot := p.2.1)).mp hp).2.2)
  refine ⟨_, hnodup, fun sec slot => (hmem sec slot).trans ?_, by rw [List.length_map]; omega⟩
  simp only [State.mem_journalSlots hwf htail, beq_iff_eq]
  constructor
  · rintro ⟨x, ⟨hused, hx, -⟩, rfl⟩
    exact ⟨hused, hx⟩
  · rintro ⟨hused, hx⟩
    exact ⟨_, ⟨hused, hx, by simp⟩, rfl⟩

theorem State.uncertain_counted : Counts ((validRecords s.journalSlots).countP (fun r => uncertainMark r.2.2))
    (fun sec slot => ∃ bs, s.JournalRecord sec slot bs ∧ recMark bs ≠ 0#8 ∧ recMark bs ≠ 0xFF#8) := by
  obtain ⟨hnodup, hmem⟩ := State.slots_counted (validRecords_pairwise (State.journalSlots_pairwise hwf))
    (fun r => uncertainMark r.2.2)
  refine ⟨_, hnodup, fun sec slot => (hmem sec slot).trans ?_, by rw [List.length_map, List.countP_eq_length_filter]⟩
  simp only [State.mem_records hwf htail, uncertainMark, Bool.and_eq_true, bne_iff_ne]

end

theorem bestHeader_of_ne_nil {l : List (Nat × Nat × Nat)} (lowest : Bool) (h : l ≠ []) : ∃ sec q f : Nat,
    bestHeader lowest l = some (sec, q, f) ∧ (sec, q, f) ∈ l ∧ ∀ g ∈ l, betterSequence lowest q g.2.1 := by
  cases hbest : bestHeader lowest l with
  | none => exact absurd ((bestHeader_eq_none_iff _ _).mp hbest) h
  | some g => exact ⟨_, _, _, rfl, bestHeader_spec hbest⟩

/-- What the scan finds, and the journal it sets (R150 to R152). -/
theorem State.scanned_spec (hsome : s.store.validHeaders ≠ []) :
    ∃ (tail head tq hq tf hf done : Nat) (cursor : Nat × Nat),
      s.scanned = (s.setJournal (s.scannedAt tail head hf done cursor)).scanUpload.scanTests ∧
      ((tail, tq, tf) ∈ s.store.validHeaders ∧ ∀ h ∈ s.store.validHeaders, tq ≤ h.2.1) ∧
      ((head, hq, hf) ∈ s.store.validHeaders ∧ ∀ h ∈ s.store.validHeaders, h.2.1 ≤ hq) ∧
      ((firstUnmarked (validRecords (s.scanSlots tail head)) = none
          ∧ done = scanNext (validRecords (s.scanSlots tail head)) hf - 1 ∧ cursor = (head, s.store.nextSlot head))
        ∨ ∃ r, firstUnmarked (validRecords (s.scanSlots tail head)) = some r
          ∧ done = recSerial r.2.2 - 1 ∧ cursor = (r.1, r.2.1)) := by
  obtain ⟨tail, tq, tf, hbestTail, htail, hlowest⟩ := bestHeader_of_ne_nil true hsome
  obtain ⟨head, hq, hf, hbestHead, hhead, hhighest⟩ := bestHeader_of_ne_nil false hsome
  obtain ⟨done, cursor, hscan, hmarks⟩ := State.scanJournal_eq tail head hf s
  refine ⟨tail, head, tq, hq, tf, hf, done, cursor, ?_, ⟨htail, fun h hh => by simpa [betterSequence] using hlowest h hh⟩,
    ⟨hhead, fun h hh => by simpa [betterSequence] using hhighest h hh⟩, hmarks⟩
  unfold State.scanned
  simp only [hbestTail, hbestHead, hscan]

/-- Settles O49: the judgement of the journal's slots gives every figure. -/
theorem scanSetsThePointers : Obligations.ScanSetsThePointers := by
  intro s hstart heading
  refine ⟨fun hfailed => ?failed, fun hpending => ⟨fun len hport hnone => ?empty, fun hport => ?erased⟩,
    ?scanned⟩
  case failed =>
    show execJournalScanDone s = _
    simp only [execJournalScanDone, hfailed.settled, hstart.2, if_true, hfailed.startFailed, live_powered hstart.1]
    rfl
  case empty =>
    rw [hport.step_startup hstart.1 hpending (State.afterStartup_scanEmpty hstart.2 hnone), hport.endOp_read]
    rfl
  case erased =>
    rw [hport.step_startup hstart.1 hpending (State.afterStartup_scanErase hstart.2), hport.endOp]
    rfl
  case scanned =>
    intro op hport herase hok m hsome
    have hwf : m.wf := StoreOp.wf_apply op _ hok
    have hrun := exec_journalScanDone hstart hport (State.afterStartup_scan hstart.2 herase hsome)
    obtain ⟨tail, head, tq, hq, tf, hf, done, cursor, hscanned, htail, hhead, hmarks⟩ :=
      State.scanned_spec (s := { s with store := m, port := s.port.freed }) hsome
    rw [hport.endOp, hscanned] at hrun
    obtain ⟨hlow, hhigh, hvalid⟩ := judgeHeader_valid_of_mem htail.1
    have hspan : 18 ≤ tail ∧ tail ≤ 511 := ⟨hlow, hhigh⟩
    have hrecords {sec slot : Nat} {bs : List Byte} := State.mem_records (sec := sec) (slot := slot) (bs := bs)
      (s := ({ s with store := m, port := s.port.freed } : State).setJournal (s.journal.placed tail head)) hwf hspan
    have htorn := State.torn_counted
      (s := ({ s with store := m, port := s.port.freed } : State).setJournal (s.journal.placed tail head)) hwf hspan
    have huncertain := State.uncertain_counted
      (s := ({ s with store := m, port := s.port.freed } : State).setJournal (s.journal.placed tail head)) hwf hspan
    obtain ⟨hfirst, hbelow, hnext⟩ := scanNext_spec
      (validRecords (({ s with store := m, port := s.port.freed } : State).scanSlots tail head)) hf
    obtain ⟨hone, hmax, hlater, hlast⟩ := Memory.nextSlot_spec hwf head
    have hring : ringOffset tail head < 494 := Nat.mod_lt _ (by decide)
    refine ⟨({ s with store := m, port := s.port.freed } : State).scannedAt tail head hf done cursor, ?run,
      ⟨tq, tf, htail⟩, ⟨hq, hf, hhead.1, hhead.2, hfirst, ?next⟩, ?ahead, hone, hmax, hlater, hlast, rfl,
      fun sec slot bs hr => hbelow _ (hrecords.mpr hr), fun sec slot bs hr hun hpos => ?done, ?marks, rfl, htorn, huncertain,
      rfl, rfl, rfl⟩
    case run =>
      have hhole : (({ s with store := m, port := s.port.freed } : State).setJournal
          (({ s with store := m, port := s.port.freed } : State).scannedAt tail head hf done cursor)).scanUpload.isHole tail
          = false := by
        rw [State.isHole, Bool.and_eq_false_iff]
        right
        show (match judgeHeader (m.slot tail 0) with | .valid _ _ => false | _ => true) = false
        rw [hvalid]
      rw [hrun, State.scanTests_eq hhole]
      rfl
    case next =>
      rcases hnext with hnext | ⟨⟨sec, slot, bs⟩, hr, hnext⟩
      · exact .inl hnext
      · exact .inr ⟨sec, slot, bs, hrecords.mp hr, hnext⟩
    case ahead =>
      show 494 - (ringOffset tail head + 1) + (ringOffset tail head + 1) = 494
      omega
    case done =>
      show done < recSerial bs
      rcases hmarks with ⟨hnone, -, -⟩ | ⟨r, hr', hdone, -⟩
      · have := firstUnmarked_none.mp hnone _ (hrecords.mpr hr)
        rw [hun] at this
        cases this
      · have := (firstUnmarked_some hr').2.2 _ (hrecords.mpr hr) hun
        dsimp only at this
        omega
    case marks =>
      rcases hmarks with ⟨hnone, hdone, hcursor⟩ | ⟨r, hr', hdone, hcursor⟩
      · exact .inl ⟨fun sec slot bs hr => firstUnmarked_none.mp hnone _ (hrecords.mpr hr), hdone, congrArg Prod.fst hcursor,
          congrArg Prod.snd hcursor⟩
      · obtain ⟨hmem, hun, -⟩ := firstUnmarked_some hr'
        rw [hcursor]
        exact .inr ⟨r.2.2, hrecords.mp hmem, hun, hdone⟩

end Sys2Proof.Machine
end

section
/-! SUPPORT. The items of a port, and what a framer makes of them (R2 to R4, R14 to R17). -/

namespace Sys2Proof.Machine

variable {s : State}

/-! ### The port -/

theorem Port.open?_eq_false {x : Port} : x.open? = false ↔ x.settings.carrierQualify = true ∧ x.carrier = false := by
  simp [Port.open?]

theorem Port.item_closed {x : Port} (h : x.open? = false) (smp : Sample) : x.item smp = none := by
  simp [Port.item, h]

theorem Port.item_nrz {x : Port} (h : x.open? = true) (hmode : x.settings.mode = .nrz) (smp : Sample) :
    x.item smp = some (.bit (smp.first ^^ x.settings.invert), none) := by
  simp [Port.item, h, hmode]

theorem Port.item_man {x : Port} (h : x.open? = true) (hmode : x.settings.mode = .man) (smp : Sample) :
    x.item smp = if x.heldHalf.getD (smp.first ^^ x.settings.invert) = (smp.second ^^ x.settings.invert)
      then some (.violation, some (smp.second ^^ x.settings.invert))
      else some (.bit (x.heldHalf.getD (smp.first ^^ x.settings.invert)), none) := by
  simp [Port.item, h, hmode]

theorem Port.item_silent {x : Port} (hmode : x.settings.mode = .off ∨ x.settings.mode = .check) (smp : Sample) :
    x.item smp = none := by
  rcases hmode with hmode | hmode <;> simp [Port.item, hmode]

theorem State.sample_none {p : Fin 8} {smp : Sample} (h : s.ports[p].item smp = none) : s.sample p smp = s := by
  simp only [State.sample, h]

theorem State.sample_some {p : Fin 8} {smp : Sample} {it : Item} {held : Option Bool}
    (h : s.ports[p].item smp = some (it, held)) :
    s.sample p smp = (s.setPort p { s.ports[p] with heldHalf := held }).deliver p it := by
  simp only [State.sample, h]

/-- Settles O10, by the port's mode. -/
theorem sampledItemsFollowThePortMode : Obligations.SampledItemsFollowThePortMode := by
  intro p smp s hpow x first second holding
  have hrun : exec (.itemDelivered p smp) s = .next (s.sample p smp) := live_powered hpow _
  rw [hrun]
  by_cases hopen : s.ports[p].open? = true
  case neg =>
    have hclosed : s.ports[p].open? = false := by simpa using hopen
    rw [if_pos (Port.open?_eq_false.mp hclosed), State.sample_none (Port.item_closed hclosed smp)]
  rw [if_neg (fun h => by rw [Port.open?_eq_false.mpr h] at hopen; cases hopen)]
  cases hmode : x.settings.mode with
  | off => rw [State.sample_none (Port.item_silent (.inl hmode) smp)]
  | check => rw [State.sample_none (Port.item_silent (.inr hmode) smp)]
  | nrz => rw [State.sample_some (Port.item_nrz hopen hmode smp)]; rfl
  | man =>
    have hitem := Port.item_man hopen hmode smp
    dsimp only
    by_cases heq : first = second
    · rw [if_pos heq, State.sample_some (hitem.trans (if_pos heq))]
      rfl
    · rw [if_neg heq, State.sample_some (hitem.trans (if_neg heq))]
      rfl

/-! ### Framers -/

theorem pushBit_eq (w : Word) (b : Bool) : pushBit w b = (w <<< 1) ||| (BitVec.ofBool b).zeroExtend 32 := by
  cases b <;> rfl

section
variable {c : Fin 8} {w : Word} {n m v : Nat} {f : Fin 8} {bits : List Bool}

theorem State.frameItem_off (h : s.channels[c].framer = .off) (it : Item) : s.frameItem c it = s := by
  simp only [State.frameItem, h]

theorem State.frameItem_hunt_bit (h : s.channels[c].framer = .hunt w n) (b : Bool) :
    s.frameItem c (.bit b) = s.huntBit c w n b := by simp only [State.frameItem, h]

theorem State.frameItem_hunt_other (h : s.channels[c].framer = .hunt w n) {it : Item} (hit : ∀ b, it ≠ .bit b) :
    s.frameItem c it = s.setFramer c (.hunt 0#32 0) := by
  cases it with
  | bit b => exact absurd rfl (hit b)
  | violation => simp only [State.frameItem, h]
  | loss => simp only [State.frameItem, h]

theorem State.frameItem_body_bit (h : s.channels[c].framer = .body f m bits v) (b : Bool) :
    s.frameItem c (.bit b) = s.bodyBit c f m bits v b := by simp only [State.frameItem, h]

theorem State.frameItem_body_violation (h : s.channels[c].framer = .body f m bits v) (hv : v < 7) :
    s.frameItem c .violation = s.bodyBit c f m bits (v + 1) false := by
  simp only [State.frameItem, h]
  exact if_neg (by omega)

theorem State.frameItem_body_badcode (h : s.channels[c].framer = .body f m bits v) (hv : 7 ≤ v) :
    s.frameItem c .violation = ((s.placeFramer c).bump (.badCode c)).noiseError c := by
  simp only [State.frameItem, h]
  exact if_pos (by omega)

theorem State.frameItem_body_loss (h : s.channels[c].framer = .body f m bits v) :
    s.frameItem c .loss = ((s.placeFramer c).bump (.cut c)).noiseError c := by simp only [State.frameItem, h]

theorem State.bodyBit_last (h : 8 * s.families[f].bodyLen ≤ bits.length + 1) (b : Bool) :
    s.bodyBit c f m bits v b = s.completeBody c f m v (bits ++ [b]) := if_pos h

theorem State.bodyBit_more (h : bits.length + 1 < 8 * s.families[f].bodyLen) (b : Bool) :
    s.bodyBit c f m bits v b = s.setFramer c (.body f m (bits ++ [b]) v) := if_neg (by omega)

theorem State.mem_effective : f ∈ s.effective c ↔ s.channels[c].mask.getLsbD f.val = true ∧ s.families[f].valid = true := by
  have hall : ∀ g : Fin 8, g ∈ eight := by decide
  simp [State.effective, hall, -Fin.getElem_fin]

theorem Family.syncs_iff {x : Family} {noisy : Bool} : x.syncs noisy w n = true ↔
    x.syncLen ≤ n ∧ x.mismatches w ≤ (if noisy then 0 else x.tolerance) := by
  simp [Family.syncs]

/-- The family a sync match names is the lowest-numbered of those that match (R15). -/
theorem State.syncFamily_some (hmem : f ∈ s.effective c) (hsync : s.families[f].syncs s.channels[c].noisy w n = true)
    (hleast : ∀ g ∈ s.effective c, s.families[g].syncs s.channels[c].noisy w n = true → f ≤ g) :
    s.syncFamily c w n = some f := by
  have hrising : (s.effective c).Pairwise (· < ·) := List.Pairwise.filter _ (by decide : eight.Pairwise (· < ·))
  unfold State.syncFamily
  obtain ⟨pre, post, heq⟩ := List.append_of_mem hmem
  rw [List.find?_eq_some_iff_append]
  refine ⟨hsync, pre, post, heq, fun g hg => ?_⟩
  have hlt : g < f := (List.pairwise_append.mp (heq ▸ hrising)).2.2 g hg f (by simp)
  rw [Bool.not_eq_true', ← Bool.not_eq_true]
  exact fun hmatch => absurd (hleast g (by rw [heq]; simp [hg]) hmatch) (by omega)

theorem State.syncFamily_none (h : ∀ g ∈ s.effective c, ¬ s.families[g].syncs s.channels[c].noisy w n = true) :
    s.syncFamily c w n = none := List.find?_eq_none.mpr h

end

/-- Settles O12, by the framer and the item. -/
theorem framerTakesItems : Obligations.FramerTakesItems := by
  intro c s ch framed
  refine ⟨fun hoff it => State.frameItem_off hoff it, fun w n hhunt => ⟨?_, ?_, fun b => ?_⟩,
    fun f m v bits hbody hmore => ⟨fun b => ?_, fun hv => ?_⟩⟩
  · exact State.frameItem_hunt_other hhunt (by simp)
  · exact State.frameItem_hunt_other hhunt (by simp)
  · intro w' mismatches hits
    have hmis (f : Fin 8) : mismatches f = s.families[f].mismatches w' := (Family.mismatches_eq _ _).symm
    have hhits (f : Fin 8) : hits f ↔ f ∈ s.effective c ∧ s.families[f].syncs ch.noisy w' (n + 1) = true := by
      rw [State.mem_effective, Family.syncs_iff, ← hmis, and_assoc]
    rw [State.frameItem_hunt_bit hhunt, State.huntBit, pushBit_eq]
    refine ⟨fun f hf hleast => ?_, fun hnone => ?_⟩
    · obtain ⟨hmem, hsync⟩ := (hhits f).mp hf
      have hfound : s.syncFamily c w' (n + 1) = some f := State.syncFamily_some hmem hsync fun g hg hmatch =>
        not_lt.mp fun hlt => hleast g hlt ((hhits g).mpr ⟨hg, hmatch⟩)
      rw [hfound, hmis]
      rfl
    · have hfound : s.syncFamily c w' (n + 1) = none :=
        State.syncFamily_none fun g hg hmatch => hnone g ((hhits g).mpr ⟨hg, hmatch⟩)
      rw [hfound]
      rfl
  · rw [State.frameItem_body_bit hbody, State.bodyBit_more hmore]
    rfl
  · rw [State.frameItem_body_violation hbody hv, State.bodyBit_more hmore]
    rfl

end Sys2Proof.Machine
end

section
/-! SUPPORT. What ends a frame (R17 to R24). -/

namespace Sys2Proof.Machine

variable {s : State} {c : Fin 8}

/-! ### Bits and bytes -/

/-- The bits of a number built from a list of bits, the first the most significant. -/
theorem testBit_foldl_bits (l : List Bool) (j : Nat) :
    (l.foldl (fun acc (x : Bool) => acc * 2 + x.toNat) 0).testBit j = (decide (j < l.length) && l.getD (l.length - 1 - j) false) := by
  induction l using List.reverseRecOn generalizing j with
  | nil => simp
  | append_singleton l x ih =>
    rw [List.foldl_append, List.foldl_cons, List.foldl_nil]
    cases j with
    | zero => cases x <;> simp [List.getD_eq_getElem?_getD, Nat.testBit_zero, Nat.add_mod]
    | succ j =>
      have hhalf : (l.foldl (fun acc (x : Bool) => acc * 2 + x.toNat) 0 * 2 + x.toNat) / 2
          = l.foldl (fun acc (x : Bool) => acc * 2 + x.toNat) 0 := by
        have hbit := Bool.toNat_le x
        omega
      rw [Nat.testBit_succ, hhalf, ih]
      by_cases hj : j < l.length
      · have hat : l.length + 1 - 1 - (j + 1) = l.length - 1 - j := by omega
        simp only [List.length_append, List.length_singleton, hat, hj, Nat.add_lt_add_iff_right, decide_true, Bool.true_and,
          List.getD_eq_getElem?_getD]
        rw [List.getElem?_append_left (by omega)]
      · simp [hj]

theorem byteOf_bits_getMsbD {l : List Bool} (hl : l.length = 8) {k : Nat} (hk : k < 8) :
    (byteOf (l.foldl (fun acc (x : Bool) => acc * 2 + x.toNat) 0)).getMsbD k = l.getD k false := by
  rw [BitVec.getMsbD, byteOf, BitVec.getLsbD_ofNat, testBit_foldl_bits, hl]
  have hat : 8 - 1 - (8 - 1 - k) = k := by omega
  rw [hat]
  simp [hk, show 8 - 1 - k < 8 by omega]

theorem bytesOfBits_spec (bits : List Bool) : (bytesOfBits bits).length = bits.length / 8 ∧
    ∀ i k : Nat, i < bits.length / 8 → k < 8 → ((bytesOfBits bits).getD i 0#8).getMsbD k = bits.getD (8 * i + k) false := by
  induction bits using bytesOfBits.induct with
  | case1 a b c d e f g h rest ih =>
    obtain ⟨hlen, hbits⟩ := ih
    rw [bytesOfBits]
    refine ⟨by simp only [List.length_cons, hlen]; omega, fun i k hi hk => ?_⟩
    cases i with
    | zero =>
      have hbyte := byteOf_bits_getMsbD (l := [a, b, c, d, e, f, g, h]) rfl hk
      rw [List.getD_cons_zero, hbyte, Nat.mul_zero, Nat.zero_add]
      have happ := List.getElem?_append_left (l₁ := [a, b, c, d, e, f, g, h]) (l₂ := rest) (i := k) hk
      rw [List.getD_eq_getElem?_getD, List.getD_eq_getElem?_getD, ← happ]
      rfl
    | succ i =>
      have hi : i < rest.length / 8 := by simp only [List.length_cons] at hi; omega
      rw [List.getD_cons_succ, hbits i k hi hk]
      rw [show 8 * (i + 1) + k = 8 * i + k + 8 by omega]
      rfl
  | case2 bits hshort =>
    have hlt : bits.length < 8 := by
      by_contra hle
      match bits, hshort with
      | a :: b :: c :: d :: e :: f :: g :: h :: rest, hshort => exact hshort _ _ _ _ _ _ _ _ _ rfl
      | [], _ | [_], _ | [_, _], _ | [_, _, _], _ | [_, _, _, _], _ | [_, _, _, _, _], _ | [_, _, _, _, _, _], _
      | [_, _, _, _, _, _, _], _ => exact hle (by simp)
    have hnil : bytesOfBits bits = [] := by
      unfold bytesOfBits
      split
      · next heq => exact absurd rfl (hshort _ _ _ _ _ _ _ _ _)
      · rfl
    rw [hnil]
    exact ⟨by simp; omega, fun i k hi => absurd hi (by omega)⟩

/-! ### The CRC and the value -/

/-- Two digits to the byte are one digit after the other. -/
theorem bcd_foldl (field : List Byte) (v : Nat) :
    field.foldl (fun acc b => acc * 100 + b.toNat / 16 * 10 + b.toNat % 16) v
      = (field.flatMap (fun b => [b.toNat / 16, b.toNat % 16])).foldl (fun v d => 10 * v + d) v := by
  induction field generalizing v with
  | nil => rfl
  | cons b field ih =>
    rw [List.foldl_cons, ih, List.flatMap_cons, List.foldl_append]
    congr 1
    simp only [List.foldl_cons, List.foldl_nil]
    omega

theorem Family.value?_bin {fam : Family} (h : fam.encoding = .bin) (body : List Byte) :
    fam.value? body = some (beNat (slice body fam.valueOffset fam.valueLen)) := by simp only [Family.value?, h]

theorem Family.value?_bcd {fam : Family} (h : fam.encoding = .bcd) (body : List Byte) :
    fam.value? body = bcdValue (slice body fam.valueOffset fam.valueLen) := by simp only [Family.value?, h]

theorem bcdValue_some {bs : List Byte} (h : ∀ b ∈ bs, b.toNat / 16 ≤ 9 ∧ b.toNat % 16 ≤ 9) : bcdValue bs =
    some ((bs.flatMap (fun b => [b.toNat / 16, b.toNat % 16])).foldl (fun v d => 10 * v + d) 0) := by
  rw [← bcd_foldl]
  exact if_pos (by simpa using h)

theorem bcdValue_none {bs : List Byte} (h : ∃ b ∈ bs, 9 < b.toNat / 16 ∨ 9 < b.toNat % 16) : bcdValue bs = none := by
  refine if_neg fun hall => ?_
  obtain ⟨b, hb, hdigit⟩ := h
  have hboth : b.toNat / 16 ≤ 9 ∧ b.toNat % 16 ≤ 9 := by simpa using List.all_eq_true.mp hall b hb
  omega

/-! ### Errors and records -/

/-- The channel with its framer placed afresh. -/
theorem State.placeFramer_channel (c : Fin 8) (s : State) :
    (s.placeFramer c).channels[c] = { s.channels[c] with framer := s.freshFramer c } := by
  simp [State.placeFramer, State.setFramer, State.setChannel]

theorem State.setChannel_setChannel (x y : Channel) (s : State) : (s.setChannel c x).setChannel c y = s.setChannel c y := by
  simp [State.setChannel]

/-- A framing error of the frame in BODY: the framer placed afresh, counted, and heard by the noise monitor (R24). -/
def State.frameFailed (c : Fin 8) (k : Counter) (s : State) : State :=
  let ch := s.channels[c]
  let n := min 255 (ch.windowCount + 1)
  let t := ({ s with channels := s.channels.set c { ch with
    framer := s.freshFramer c, windowCount := n, noisy := ch.noisy || decide (ch.threshold ≤ n) } }).bump k
  if ch.noisy = false ∧ ch.threshold ≤ n then t.raise .noisy (BitVec.ofNat 32 c.val) else t

theorem State.frameFailed_eq (k : Counter) (s : State) : ((s.placeFramer c).bump k).noiseError c = s.frameFailed c k := by
  have hch : ((s.placeFramer c).bump k).channels[c] = { s.channels[c] with framer := s.freshFramer c } :=
    State.placeFramer_channel c s
  have hset (x : Channel) : ((s.placeFramer c).bump k).setChannel c x = (s.setChannel c x).bump k :=
    congrArg (State.bump k) (State.setChannel_setChannel _ x s)
  have hturns : (!s.channels[c].noisy && decide (s.channels[c].threshold ≤ min 255 (s.channels[c].windowCount + 1))) = true
      ↔ s.channels[c].noisy = false ∧ s.channels[c].threshold ≤ min 255 (s.channels[c].windowCount + 1) := by
    rw [Bool.and_eq_true, Bool.not_eq_true', decide_eq_true_eq]
  unfold State.noiseError State.frameFailed
  dsimp only
  rw [hch]
  by_cases h : s.channels[c].noisy = false ∧ s.channels[c].threshold ≤ min 255 (s.channels[c].windowCount + 1)
  · have hnoisy : (s.channels[c].noisy || decide (s.channels[c].threshold ≤ min 255 (s.channels[c].windowCount + 1))) = true := by
      rw [decide_eq_true h.2, Bool.or_true]
    rw [if_pos h, hnoisy]
    exact (if_pos (hturns.mpr h)).trans (congrArg (State.raise .noisy (BitVec.ofNat 32 c.val)) (hset _))
  · have hstays : (s.channels[c].noisy || decide (s.channels[c].threshold ≤ min 255 (s.channels[c].windowCount + 1)))
        = s.channels[c].noisy := by
      cases hnoisy : s.channels[c].noisy with
      | true => rfl
      | false => exact decide_eq_false fun hle => h ⟨hnoisy, hle⟩
    rw [if_neg h, hstays]
    exact (if_neg (mt hturns.mp h)).trans (hset _)

/-- A frame completed (R17 to R23): a record in the slots, or an error. -/
def State.frameEnded (c f : Fin 8) (m : Nat) (bits : List Bool) (viol : Nat) (s : State) : State :=
  let ch := s.channels[c]
  let fam := s.families[f]
  let body := bytesOfBits bits
  if fam.crcOk body then
    match fam.value? body with
    | none => s.frameFailed c (.badValue c)
    | some value =>
      let rec_ : FrameRecord :=
        { channel := c, family := f, meterId := BitVec.ofNat 32 (beNat (slice body fam.idOffset fam.idLen)),
          value := value, indicators := body.getD fam.indOffset 0#8 &&& fam.indMask,
          quality := 16 * m + min viol 15, seconds := s.tb.todSeconds, timeValid := s.tb.timeValid }
      if ch.slots.length < 2 then
        ({ s with channels := s.channels.set c { ch with
            framer := s.freshFramer c, slots := ch.slots ++ [rec_] } }).bump (.frames c)
      else
        ((({ s with channels := s.channels.set c { ch with framer := s.freshFramer c } }).bump (.frames c)).bump
          (.slotOverflow c)).raise .slotOverflow (BitVec.ofNat 32 c.val)
  else s.frameFailed c (.crcErr c)

theorem State.putSlot_placed (r : FrameRecord) (s : State) : ((s.placeFramer c).bump (.frames c)).putSlot c r =
    if s.channels[c].slots.length < 2 then
      (s.setChannel c { s.channels[c] with framer := s.freshFramer c, slots := s.channels[c].slots ++ [r] }).bump (.frames c)
    else (((s.placeFramer c).bump (.frames c)).bump (.slotOverflow c)).raise .slotOverflow (BitVec.ofNat 32 c.val) := by
  have hch : ((s.placeFramer c).bump (.frames c)).channels[c] = { s.channels[c] with framer := s.freshFramer c } :=
    State.placeFramer_channel c s
  have hset (x : Channel) : ((s.placeFramer c).bump (.frames c)).setChannel c x = (s.setChannel c x).bump (.frames c) :=
    congrArg (State.bump (.frames c)) (State.setChannel_setChannel _ x s)
  unfold State.putSlot
  dsimp only
  rw [hch]
  exact if_congr Iff.rfl (hset _) rfl

theorem State.completeBody_eq (f : Fin 8) (m viol : Nat) (bits : List Bool) (s : State) :
    s.completeBody c f m viol bits = s.frameEnded c f m bits viol := by
  unfold State.completeBody State.frameEnded
  dsimp only
  split
  · cases hvalue : s.families[f].value? (bytesOfBits bits) with
    | none => exact State.frameFailed_eq _ s
    | some value => exact State.putSlot_placed _ s
  · exact State.frameFailed_eq _ s

/-- Settles O13: the bits, the CRC and the value of a body, and then the end of the frame. -/
theorem frameEndsInRecordOrError : Obligations.FrameEndsInRecordOrError := by
  refine ⟨bytesOfBits_spec, by decide +kernel, fun fam body => ?body, fun c f m v bits s hbody => ?frame⟩
  case body =>
    intro data given field
    refine ⟨fun hcrc => ?_, fun hcrc => ?_, fun hcrc => ?_, fun hbin => ?_, fun hbcd => ⟨fun hbad => ?_, fun hgood => ?_⟩⟩
    · simp only [Family.crcOk, hcrc]
    · simp only [Family.crcOk, Family.dataLen, hcrc]
      exact beq_iff_eq
    · simp only [Family.crcOk, Family.dataLen, hcrc]
      exact beq_iff_eq
    · rw [Family.value?_bin hbin, beNat]
      simp only [Nat.mul_comm]
      rfl
    · rw [Family.value?_bcd hbcd]
      exact bcdValue_none hbad
    · rw [Family.value?_bcd hbcd]
      exact bcdValue_some hgood
  case frame =>
    intro ch fam n failed ended
    have hfailed (k : Counter) : failed k = s.frameFailed c k := rfl
    have hended (bits : List Bool) (viol : Nat) : ended bits viol = s.frameEnded c f m bits viol := rfl
    refine ⟨fun hlast => ⟨fun b => ?_, fun hv => ?_⟩, fun hv => ?_, ?_⟩
    · rw [State.frameItem_body_bit hbody, State.bodyBit_last hlast.le, State.completeBody_eq, hended]
    · rw [State.frameItem_body_violation hbody hv, State.bodyBit_last hlast.le, State.completeBody_eq, hended]
    · rw [State.frameItem_body_badcode hbody hv, State.frameFailed_eq, hfailed]
    · rw [State.frameItem_body_loss hbody, State.frameFailed_eq, hfailed]

end Sys2Proof.Machine
end

section
/-! SUPPORT. The rows of a framer that are the item or carrier loss which brings them about (R4, R15 to R19, R24; log 4). -/

namespace Sys2Proof.Machine

variable {s : State} {c p : Fin 8} {it : Item}

/-! ### What an item does to its channel -/

/-- A fresh framer does not depend on clocks and carriers of the ports. -/
theorem State.freshFramer_setPort {x : Port} (h : x.settings = s.ports[p].settings) :
    (s.setPort p x).freshFramer c = s.freshFramer c := by
  have hsettings (q : Fin 8) : (s.setPort p x).ports[q].settings = s.ports[q].settings := by
    by_cases hq : p = q
    · subst hq
      simpa [State.setPort] using h
    · have hne : p.val ≠ q.val := fun heq => hq (Fin.ext heq)
      simp [State.setPort, hne]
  have hruns : (s.setPort p x).framerRuns c = s.framerRuns c := by
    unfold State.framerRuns
    simp only [hsettings]
    rfl
  rw [State.freshFramer, hruns, State.freshFramer]

theorem State.frameFailed_channel (k : Counter) (s : State) : (s.frameFailed c k).channels[c] =
    { s.channels[c] with
      framer := s.freshFramer c, windowCount := min 255 (s.channels[c].windowCount + 1),
      noisy := s.channels[c].noisy || decide (s.channels[c].threshold ≤ min 255 (s.channels[c].windowCount + 1)) } := by
  unfold State.frameFailed
  dsimp only
  split
  · simp
  · simp

/-- The error that makes a channel NOISY sets the event's flag (R24). -/
theorem State.frameFailed_flag (k : Counter) (hquiet : s.channels[c].noisy = false)
    (hreach : s.channels[c].threshold ≤ min 255 (s.channels[c].windowCount + 1)) :
    (s.frameFailed c k).tl.flags.getLsbD 3 = true := by
  unfold State.frameFailed
  dsimp only
  rw [if_pos ⟨hquiet, hreach⟩]
  exact State.raise_flag .noisy _ _

theorem State.frameEnded_framer (f : Fin 8) (m : Nat) (bits : List Bool) (viol : Nat) (s : State) :
    (s.frameEnded c f m bits viol).channels[c].framer = s.freshFramer c := by
  unfold State.frameEnded
  dsimp only
  split
  · split
    · rw [State.frameFailed_channel]
    · split
      · simp
      · simp
  · rw [State.frameFailed_channel]

/-- The item is a framing error of the frame that channel `c` collects: the eighth violation, or a last body bit that ends
in CRCERR or BADVALUE. -/
def State.Spoils (s : State) (it : Item) (f : Fin 8) (bits : List Bool) (v : Nat) : Prop :=
  it = .violation ∧ 7 ≤ v ∨
    ∃ b : Bool, (it = .bit b ∨ it = .violation ∧ b = false ∧ v < 7) ∧ 8 * s.families[f].bodyLen ≤ bits.length + 1
      ∧ (s.families[f].crcOk (bytesOfBits (bits ++ [b])) = false ∨ s.families[f].value? (bytesOfBits (bits ++ [b])) = none)

theorem State.frameItem_spoilt {f : Fin 8} {m v : Nat} {bits : List Bool} (hbody : s.channels[c].framer = .body f m bits v)
    (h : it = .loss ∨ s.Spoils it f bits v) : ∃ k, s.frameItem c it = s.frameFailed c k := by
  rcases h with rfl | ⟨rfl, hv⟩ | ⟨b, hit, hlast, hbad⟩
  · exact ⟨_, by rw [State.frameItem_body_loss hbody, State.frameFailed_eq]⟩
  · exact ⟨_, by rw [State.frameItem_body_badcode hbody hv, State.frameFailed_eq]⟩
  · have hended (viol : Nat) : ∃ k, s.frameEnded c f m (bits ++ [b]) viol = s.frameFailed c k := by
      unfold State.frameEnded
      dsimp only
      rcases hbad with hcrc | hvalue
      · exact ⟨_, if_neg (by rw [hcrc]; exact Bool.false_ne_true)⟩
      · rw [hvalue]
        by_cases hcrc : s.families[f].crcOk (bytesOfBits (bits ++ [b])) = true
        · exact ⟨_, if_pos hcrc⟩
        · exact ⟨_, if_neg hcrc⟩
    rcases hit with rfl | ⟨rfl, rfl, hv⟩
    · obtain ⟨k, hk⟩ := hended v
      exact ⟨k, by rw [State.frameItem_body_bit hbody, State.bodyBit_last hlast, State.completeBody_eq, hk]⟩
    · obtain ⟨k, hk⟩ := hended (v + 1)
      exact ⟨k, by rw [State.frameItem_body_violation hbody hv, State.bodyBit_last hlast, State.completeBody_eq, hk]⟩

/-! ### Flags through a delivery -/

theorem State.noiseError_keeps_flag {i : Nat} (h : s.tl.flags.getLsbD i = true) :
    (s.noiseError c).tl.flags.getLsbD i = true := by
  unfold State.noiseError
  dsimp only
  split
  · refine State.raise_keeps_flag ?_ _ _
    exact h
  · exact h

/-- No item clears an event flag. -/
theorem State.frameItem_keeps_flag {i : Nat} (h : s.tl.flags.getLsbD i = true) (c : Fin 8) (it : Item) :
    (s.frameItem c it).tl.flags.getLsbD i = true := by
  have hcomplete (f : Fin 8) (m v : Nat) (bits : List Bool) : (s.completeBody c f m v bits).tl.flags.getLsbD i = true := by
    unfold State.completeBody State.putSlot
    dsimp only
    split
    · split
      · split
        · exact h
        · refine State.raise_keeps_flag ?_ _ _
          exact h
      · refine State.noiseError_keeps_flag ?_
        exact h
    · refine State.noiseError_keeps_flag ?_
      exact h
  have hbit (f : Fin 8) (m v : Nat) (bits : List Bool) (b : Bool) :
      (s.bodyBit c f m bits v b).tl.flags.getLsbD i = true := by
    unfold State.bodyBit
    split
    · exact hcomplete _ _ _ _
    · exact h
  unfold State.frameItem State.huntBit
  split
  · exact h
  · dsimp only
    split <;> exact h
  · exact h
  · exact hbit _ _ _ _ _
  · split
    · refine State.noiseError_keeps_flag ?_
      exact h
    · exact hbit _ _ _ _ _
  · refine State.noiseError_keeps_flag ?_
    exact h

/-- A channel's part of a delivery. -/
def State.deliverTo (p : Fin 8) (it : Item) (t : State) (c : Fin 8) : State :=
  if t.channels[c].source = some p then t.frameItem c it else t

theorem State.deliver_eq_foldl (s : State) : s.deliver p it = eight.foldl (State.deliverTo p it) s := rfl

theorem State.deliverTo_keeps_flag {i : Nat} (h : s.tl.flags.getLsbD i = true) (a : Fin 8) :
    (s.deliverTo p it a).tl.flags.getLsbD i = true := by
  unfold State.deliverTo
  split
  · exact State.frameItem_keeps_flag h a it
  · exact h

theorem State.deliverAll_keeps_flag {i : Nat} (l : List (Fin 8)) (h : s.tl.flags.getLsbD i = true) :
    (l.foldl (State.deliverTo p it) s).tl.flags.getLsbD i = true := by
  induction l generalizing s with
  | nil => exact h
  | cons a l ih =>
    rw [List.foldl_cons]
    exact ih (State.deliverTo_keeps_flag h a)

theorem State.deliverTo_other {a : Fin 8} (h : a ≠ c) (s : State) :
    (s.deliverTo p it a).channels[c] = s.channels[c] ∧ (s.deliverTo p it a).families = s.families := by
  unfold State.deliverTo
  split
  · exact ⟨State.frameItem_other a c h it s, State.frameItem_families ..⟩
  · exact ⟨rfl, rfl⟩

/-- A flag that the item sets on channel `c`, whatever the other channels do, is set after the delivery. -/
theorem State.deliver_sets_flag {i : Nat} {ch : Channel} {fams : Vector Family 8} (hsource : ch.source = some p)
    (hsets : ∀ t : State, t.channels[c] = ch → t.families = fams → (t.frameItem c it).tl.flags.getLsbD i = true)
    (l : List (Fin 8)) (hc : c ∈ l) (hch : s.channels[c] = ch) (hfams : s.families = fams) :
    (l.foldl (State.deliverTo p it) s).tl.flags.getLsbD i = true := by
  induction l generalizing s with
  | nil => cases hc
  | cons a l ih =>
    rw [List.foldl_cons]
    by_cases hac : a = c
    · subst hac
      refine State.deliverAll_keeps_flag l ?_
      rw [State.deliverTo, if_pos (by rw [hch]; exact hsource)]
      exact hsets s hch hfams
    · obtain ⟨hother, hfam⟩ := State.deliverTo_other (p := p) (it := it) hac s
      exact ih ((List.mem_cons.mp hc).resolve_left (Ne.symm hac)) (hother.trans hch) (hfam.trans hfams)

/-! ### The rows -/

section
variable {smp : Sample} {held : Option Bool}

/-- The port's next item, of a channel mapped to it. -/
theorem State.channelItem_eq (hsource : s.channels[c].source = some p) (hitem : s.ports[p].item smp = some (it, held)) :
    s.channelItem c smp = some (p, it) := by
  simp only [State.channelItem, hsource, hitem, Option.map_some]

theorem State.sampleOf_eq (hsource : s.channels[c].source = some p) : s.sampleOf c smp = s.sample p smp := by
  simp only [State.sampleOf, hsource]

/-- The state in which a port's item meets the channels. -/
def State.clocked (p : Fin 8) (held : Option Bool) (s : State) : State := s.setPort p { s.ports[p] with heldHalf := held }

theorem State.sample_channel (hsource : s.channels[c].source = some p) (hitem : s.ports[p].item smp = some (it, held)) :
    (s.sample p smp).channels[c] = ((s.clocked p held).frameItem c it).channels[c] := by
  rw [State.sample_some hitem, State.deliver_channel]
  exact if_pos hsource

end

/-- Settles O14: the item meets channel `c` as its framer stands. -/
theorem framerRowsAreTheirItems : Obligations.FramerRowsAreTheirItems := by
  intro c p smp it held s hpow hsource hitem
  have hnext := State.channelItem_eq hsource hitem
  have hchannel := State.sample_channel hsource hitem
  have hrun : exec (.itemDelivered p smp) s = .next (s.sample p smp) := live_powered hpow _
  have hfresh : (s.clocked p held).freshFramer c = s.freshFramer c := State.freshFramer_setPort rfl
  refine ⟨fun w n b f hhunt hbit hsync => ⟨s.sample p smp, ?sync, hrun, ?synced⟩, fun f m v bits hbody =>
    ⟨fun hlast hviolation hloss => ⟨s.sample p smp, ?complete, hrun, ?completed⟩,
      fun hv hviolation => ⟨s.sample p smp, ?badcode, hrun, ?aborted⟩⟩⟩
  case sync =>
    have hdue : s.syncDue c smp = true := by
      simp only [State.syncDue, hhunt, hnext, hbit, hsync, Option.isSome_some]
    show execSyncMatch c smp s = _
    rw [execSyncMatch, live_powered hpow, if_pos hdue, State.sampleOf_eq hsource]
  case synced =>
    have hsync' : (s.clocked p held).syncFamily c (pushBit w b) (n + 1) = some f := hsync
    rw [hchannel, hbit, State.frameItem_hunt_bit (s := s.clocked p held) hhunt, State.huntBit]
    simp only [hsync', State.setFramer, State.setChannel, Fin.getElem_fin, Vector.getElem_set_self]
    rfl
  case complete =>
    have hdue : s.bodyDue c smp = true := by
      cases it with
      | loss => exact absurd rfl hloss
      | bit b => simp only [State.bodyDue, hbody, hnext, decide_eq_true_eq]; omega
      | violation =>
        have := hviolation rfl
        simp only [State.bodyDue, hbody, hnext, Bool.and_eq_true, decide_eq_true_eq]
        omega
    show execFrameBodyComplete c smp s = _
    rw [execFrameBodyComplete, live_powered hpow, if_pos hdue, State.sampleOf_eq hsource]
  case completed =>
    have hbody' : (s.clocked p held).channels[c].framer = .body f m bits v := hbody
    have hlast' : 8 * (s.clocked p held).families[f].bodyLen ≤ bits.length + 1 := hlast.le
    rw [hchannel, ← hfresh]
    cases it with
    | loss => exact absurd rfl hloss
    | bit b =>
      rw [State.frameItem_body_bit hbody', State.bodyBit_last hlast', State.completeBody_eq, State.frameEnded_framer]
    | violation =>
      rw [State.frameItem_body_violation hbody' (hviolation rfl), State.bodyBit_last hlast', State.completeBody_eq,
        State.frameEnded_framer]
  case badcode =>
    have hdue : s.badcodeDue c smp = true := by
      simp only [State.badcodeDue, hbody, hnext, hviolation, decide_eq_true_eq]
      omega
    show execBadcodeAbort c smp s = _
    rw [execBadcodeAbort, live_powered hpow, if_pos hdue, State.sampleOf_eq hsource]
  case aborted =>
    rw [hchannel, hviolation, State.frameItem_body_badcode (s := s.clocked p held) hbody hv, State.frameFailed_eq,
      State.frameFailed_channel]
    exact ⟨hfresh, rfl⟩

theorem Port.delivers_iff {x : PortMode} : x.delivers = true ↔ x = .nrz ∨ x = .man := by
  cases x <;> simp [PortMode.delivers]

/-- Settles O15: the carrier's rows, and the error that reaches N. -/
theorem carrierAndNoiseRows : Obligations.CarrierAndNoiseRows := by
  intro s hpow
  have hinactive (p : Fin 8) : exec (.rxcInactive p) s = .next (s.carrierLost p) := live_powered hpow _
  refine ⟨fun p => ?carrier, fun c p cause f m v bits hsource hbody hquiet hreach hcause => ?noisy⟩
  case carrier =>
    refine ⟨(hinactive p).trans (congrArg _ (if_congr ?_ rfl rfl)), (live_powered hpow _).trans ?_⟩
    · rw [Bool.and_eq_true, Bool.and_eq_true, Port.delivers_iff, and_assoc]
    · have hclock : (s.ports[p].settings.carrierQualify && !s.ports[p].carrier) = true
          ↔ s.ports[p].settings.carrierQualify = true ∧ s.ports[p].carrier = false := by simp
      simp only [hclock]
      rfl
  case noisy =>
    -- the state the error meets, the item it is, and the row of that item
    have herror (u : State) (it : Item) (hchannels : u.channels = s.channels) (hfamilies : u.families = s.families)
        (hfresh : u.freshFramer c = s.freshFramer c) (hit : it = .loss ∨ s.Spoils it f bits v) :
        (u.deliver p it).channels[c] = { s.channels[c] with
          framer := s.freshFramer c, noisy := true, windowCount := min 255 (s.channels[c].windowCount + 1) }
        ∧ (u.deliver p it).tl.flags.getLsbD 3 = true := by
      have hch : u.channels[c] = s.channels[c] := by rw [hchannels]
      have hfails (t : State) (ht : t.channels[c] = u.channels[c]) (hfam : t.families = u.families) :
          ∃ k, t.frameItem c it = t.frameFailed c k := by
        refine State.frameItem_spoilt (by rw [ht, hch]; exact hbody) ?_
        rwa [State.Spoils, hfam, hfamilies]
      constructor
      · rw [State.deliver_channel, if_pos (by rw [hch]; exact hsource)]
        obtain ⟨k, hk⟩ := hfails u rfl rfl
        rw [hk, State.frameFailed_channel, hch, hfresh, decide_eq_true hreach, Bool.or_true]
      · have hall : ∀ d : Fin 8, d ∈ eight := by decide
        rw [State.deliver_eq_foldl]
        refine State.deliver_sets_flag (ch := u.channels[c]) (fams := u.families) (by rw [hch]; exact hsource)
          (fun t ht hfam => ?_) eight (hall c) rfl rfl
        obtain ⟨k, hk⟩ := hfails t ht hfam
        rw [hk]
        exact State.frameFailed_flag k (by rw [ht, hch]; exact hquiet) (by rw [ht, hch]; exact hreach)
    have hrow (t : State) (ht : s.noiseStep c cause = t) (hnoisy : t.channels[c].noisy = true) :
        exec (.noisy c cause) s = .next t := by
      show execNoisy c cause s = _
      rw [execNoisy, ht, live_powered hpow, hquiet, hnoisy]
      rfl
    cases cause with
    | carrierLoss =>
      obtain ⟨hcarrier, hqualify, hmode⟩ := hcause
      obtain ⟨hchannel, hflag⟩ := herror (s.setPort p { s.ports[p] with carrier := false }) .loss rfl rfl
        (State.freshFramer_setPort rfl) (.inl rfl)
      have hlost : s.carrierLost p = (s.setPort p { s.ports[p] with carrier := false }).deliver p .loss :=
        if_pos (by rw [hcarrier, hqualify, Port.delivers_iff.mpr hmode]; rfl)
      refine ⟨_, hrow _ ?_ (by rw [hchannel]), (hinactive p).trans (congrArg _ hlost), hchannel, hflag⟩
      simp only [State.noiseStep, hsource, hlost]
    | item smp =>
      obtain ⟨it, held, hitem, hspoils⟩ := hcause
      obtain ⟨hchannel, hflag⟩ := herror (s.clocked p held) it rfl rfl (State.freshFramer_setPort rfl) (.inr hspoils)
      have hsample : s.sample p smp = (s.clocked p held).deliver p it := State.sample_some hitem
      refine ⟨_, hrow _ ?_ (by rw [hchannel]), (live_powered hpow _).trans (congrArg _ hsample), hchannel, hflag⟩
      rw [State.noiseStep, State.sampleOf_eq hsource, hsample]

end Sys2Proof.Machine
end

section
/-! SUPPORT. The PN9 checker (R6 to R8). -/

namespace Sys2Proof.Machine

variable {s : State} {p : Fin 8} {k : Checker} {b : Bool}

theorem pn9Push_eq (r : BitVec 9) (b : Bool) : pn9Push r b = (r <<< 1) ||| (BitVec.ofBool b).zeroExtend 9 := by
  cases b <;> rfl

/-! ### A bit in SEARCH or LOST -/

theorem Checker.bit_search (h : k.phase ≠ .locked) : k.bit b = k.searchBit b := by
  cases hphase : k.phase with
  | locked => exact absurd hphase h
  | search => simp only [Checker.bit, hphase]
  | lost => simp only [Checker.bit, hphase]

theorem Checker.searchBit_fills (h : k.filled < 9) :
    k.searchBit b = { k with register := pn9Push k.register b, filled := k.filled + 1 } := if_pos h

/-- A bit that meets the full register (R6). -/
theorem Checker.searchBit_full (h : 9 ≤ k.filled) {run : Nat}
    (hrun : (if b = pn9Next k.register then (if k.register = 0#9 then k.run else k.run + 1) else 0) = run) :
    k.searchBit b = if 32 ≤ run then { k with register := pn9Push k.register b, run := run, phase := .locked, outcomes := [] }
      else { k with register := pn9Push k.register b, run := run } := by
  subst hrun
  exact if_neg (by omega)

/-! ### A bit in LOCKED -/

theorem Checker.bit_locked (h : k.phase = .locked) : k.bit b = k.lockedBit b := by simp only [Checker.bit, h]

/-- The last comparisons once a bit is compared, newest first (R7). -/
def Checker.compared (k : Checker) (b : Bool) : List Bool := ((b != pn9Next k.register) :: k.outcomes).take 64

theorem Checker.lockedBit_stays (h : (k.compared b).count true < 16) : k.lockedBit b = { k with
    register := pn9Push k.register (pn9Next k.register),
    errors := if b != pn9Next k.register then min 16777215 (k.errors + 1) else k.errors,
    bits := min 16777215 (k.bits + 1), outcomes := k.compared b } := if_neg (Nat.not_le.mpr h)

theorem Checker.lockedBit_loses (h : 16 ≤ (k.compared b).count true) : k.lockedBit b =
    { phase := .lost, register := 0#9, filled := 0, run := 0,
      errors := if b != pn9Next k.register then min 16777215 (k.errors + 1) else k.errors,
      bits := min 16777215 (k.bits + 1), outcomes := [] } := if_pos h

/-! ### The rows -/

theorem State.checkBit_idle {level : Bool}
    (h : s.ports[p].settings.mode ≠ .check ∨ (s.ports[p].settings.carrierQualify = true ∧ s.ports[p].carrier = false)) :
    s.checkBit p level = s := by
  refine if_neg fun hchecks => ?_
  rw [Port.checks, Bool.and_eq_true, beq_iff_eq] at hchecks
  rcases h with h | h
  · exact h hchecks.1
  · rw [Port.open?_eq_false.mpr h] at hchecks
    cases hchecks.2

theorem State.checkBit_checks {level : Bool} (hmode : s.ports[p].settings.mode = .check)
    (hopen : s.ports[p].settings.carrierQualify = false ∨ s.ports[p].carrier = true) : s.checkBit p level =
      s.setPort p { s.ports[p] with checker := s.ports[p].checker.bit (level ^^ s.ports[p].settings.invert) } := by
  refine if_pos ?_
  rw [Port.checks, Bool.and_eq_true, beq_iff_eq]
  refine ⟨hmode, ?_⟩
  rcases hopen with h | h <;> simp [Port.open?, h, -Fin.getElem_fin]

theorem State.setPort_ports_self (p : Fin 8) (x : Port) (s : State) : (s.setPort p x).ports[p] = x := by
  simp [State.setPort]

theorem indexOf?_none {n : Nat} {bs : List Byte} {i : Nat} (h : n ≤ natAt bs i) : indexOf? n bs i = none :=
  dif_neg (Nat.not_lt.mpr h)

theorem indexOf?_some {n : Nat} {bs : List Byte} {i : Nat} {x : Fin n} (h : x.val = natAt bs i) : indexOf? n bs i = some x := by
  have hlt : natAt bs i < n := h ▸ x.isLt
  rw [indexOf?, dif_pos hlt]
  exact congrArg some (Fin.ext h.symm)

/-- Settles O16, by the phase and the comparison. -/
theorem checkerFollowsTheSequence : Obligations.CheckerFollowsTheSequence := by
  refine ⟨fun p level s hpow => ?bit, fun tag a s haccepts => ?read⟩
  case bit =>
    intro x k b said taken predicted with_ row
    have hrow : row = .next (s.checkBit p level) := live_powered hpow _
    refine ⟨fun hidle => by rw [hrow, State.checkBit_idle hidle], fun hmode hopen => ?_⟩
    have hbit : s.checkBit p level = with_ (k.bit b) := State.checkBit_checks hmode hopen
    have htaken : pn9Push k.register b = taken := pn9Push_eq _ _
    have hpredicted : pn9Push k.register (pn9Next k.register) = predicted := pn9Push_eq _ _
    have hkept (k' : Checker) : (with_ k').ports[p].checker = k' := congrArg Port.checker (State.setPort_ports_self p _ s)
    refine ⟨fun hphase hfill => ?fills, fun hphase hfull => ⟨fun hne => ?differs, fun heq hzero hrun => ?zero,
      fun heq hnonzero hrun => ?counts, fun heq hnonzero hrun => ?locks⟩, fun hphase => ?locked⟩
    case fills => rw [hrow, hbit, Checker.bit_search hphase, Checker.searchBit_fills hfill, htaken]
    case differs =>
      rw [hrow, hbit, Checker.bit_search hphase, Checker.searchBit_full hfull (if_neg hne), htaken]
      rfl
    case zero =>
      have hsame : (if b = pn9Next k.register then (if k.register = 0#9 then k.run else k.run + 1) else 0) = k.run :=
        (if_pos heq).trans (if_pos hzero)
      rw [hrow, hbit, Checker.bit_search hphase, Checker.searchBit_full hfull hsame, htaken, if_neg (by omega)]
    case counts =>
      have hmore : (if b = pn9Next k.register then (if k.register = 0#9 then k.run else k.run + 1) else 0) = k.run + 1 :=
        (if_pos heq).trans (if_neg hnonzero)
      rw [hrow, hbit, Checker.bit_search hphase, Checker.searchBit_full hfull hmore, htaken, if_neg (by omega)]
    case locks =>
      intro t
      have hlast : (if b = pn9Next k.register then (if k.register = 0#9 then k.run else k.run + 1) else 0) = 32 :=
        (if_pos heq).trans ((if_neg hnonzero).trans (by rw [hrun]))
      have ht : s.checkBit p level = t := by
        rw [hbit, Checker.bit_search hphase, Checker.searchBit_full hfull hlast, htaken, if_pos (Nat.le_refl _)]
      have hlocked : t.ports[p].checker.phase = .locked := by rw [hkept]
      refine ⟨by rw [hrow, ht], ?_⟩
      show execPn9Locked p level s = _
      rw [execPn9Locked, ht, live_powered hpow]
      exact congrArg _ (if_pos ⟨hphase, hlocked⟩)
    case locked =>
      intro kept errors bits
      have hwrong : decide (b ≠ said) = (b != pn9Next k.register) := by
        cases hb : b <;> cases hs : said <;> simp_all [said, pn9Next]
      have hcompared : k.compared b = kept := by rw [Checker.compared, ← hwrong]
      have herrors : (if b != pn9Next k.register then min 16777215 (k.errors + 1) else k.errors) = errors := by
        rw [← hwrong]
        exact if_congr decide_eq_true_iff rfl rfl
      refine ⟨fun hfew => ?_, fun hmany => ?_⟩
      · rw [hrow, hbit, Checker.bit_locked hphase, Checker.lockedBit_stays (hcompared ▸ hfew), hpredicted, herrors, hcompared]
      · intro t
        have ht : s.checkBit p level = t := by
          rw [hbit, Checker.bit_locked hphase, Checker.lockedBit_loses (hcompared ▸ hmany), herrors]
        have hlost : t.ports[p].checker.phase = .lost := by rw [hkept]
        refine ⟨by rw [hrow, ht], ?_⟩
        show execPn9Lost p level s = _
        rw [execPn9Lost, ht, live_powered hpow]
        exact congrArg _ (if_pos ⟨hphase, hlost⟩)
  case read =>
    refine ⟨fun hlarge => ?_, fun p hp => ?_⟩
    · refine (haccepts.runs rfl).trans ?_
      rw [indexOf?_none (by exact hlarge)]
      rfl
    · intro k
      refine (haccepts.runs rfl).trans ?_
      rw [indexOf?_some (show p.val = natAt [a] 0 from hp)]
      rfl

end Sys2Proof.Machine
end

section
/-! SUPPORT. The readers of a command's arguments (R188): which byte each accepts, and what it makes of it. -/

namespace Sys2Proof.Machine

theorem indexOf?_eq_some_iff {n : Nat} {bs : List Byte} {i : Nat} {x : Fin n} :
    indexOf? n bs i = some x ↔ x.val = natAt bs i := by
  refine ⟨fun h => ?_, indexOf?_some⟩
  unfold indexOf? at h
  split at h
  · rw [← Option.some.inj h]
  · cases h

theorem boolOf?_eq_some_iff {n : Nat} {b : Bool} : boolOf? n = some b ↔ n ≤ 1 ∧ b = (n == 1) := by
  match n with
  | 0 => cases b <;> simp [boolOf?]
  | 1 => cases b <;> simp [boolOf?]
  | n + 2 => simp [boolOf?]

theorem PortMode.code_lt (x : PortMode) : x.code < 4 := by cases x <;> decide

theorem PortMode.ofCode?_eq_some_iff {n : Nat} {x : PortMode} : PortMode.ofCode? n = some x ↔ x.code = n := by
  match n with
  | 0 => cases x <;> simp [PortMode.ofCode?, PortMode.code]
  | 1 => cases x <;> simp [PortMode.ofCode?, PortMode.code]
  | 2 => cases x <;> simp [PortMode.ofCode?, PortMode.code]
  | 3 => cases x <;> simp [PortMode.ofCode?, PortMode.code]
  | n + 4 => simpa [PortMode.ofCode?] using fun h => absurd x.code_lt (by omega)

theorem ValueEncoding.code_lt (x : ValueEncoding) : x.code < 2 := by cases x <;> decide

theorem ValueEncoding.ofCode?_eq_some_iff {n : Nat} {x : ValueEncoding} : ValueEncoding.ofCode? n = some x ↔ x.code = n := by
  match n with
  | 0 => cases x <;> simp [ValueEncoding.ofCode?, ValueEncoding.code]
  | 1 => cases x <;> simp [ValueEncoding.ofCode?, ValueEncoding.code]
  | n + 2 => simpa [ValueEncoding.ofCode?] using fun h => absurd x.code_lt (by omega)

theorem PulseMode.code_lt (x : PulseMode) : x.code < 4 := by cases x <;> decide

theorem PulseMode.ofCode?_eq_some_iff {n : Nat} {x : PulseMode} : PulseMode.ofCode? n = some x ↔ x.code = n := by
  match n with
  | 0 => cases x <;> simp [PulseMode.ofCode?, PulseMode.code]
  | 1 => cases x <;> simp [PulseMode.ofCode?, PulseMode.code]
  | 2 => cases x <;> simp [PulseMode.ofCode?, PulseMode.code]
  | 3 => cases x <;> simp [PulseMode.ofCode?, PulseMode.code]
  | n + 4 => simpa [PulseMode.ofCode?] using fun h => absurd x.code_lt (by omega)

theorem RoutingClass.code_lt (x : RoutingClass) : x.code < 4 := by cases x <;> decide

theorem RoutingClass.ofCode?_eq_some_iff {n : Nat} {x : RoutingClass} : RoutingClass.ofCode? n = some x ↔ x.code = n := by
  match n with
  | 0 => cases x <;> simp [RoutingClass.ofCode?, RoutingClass.code]
  | 1 => cases x <;> simp [RoutingClass.ofCode?, RoutingClass.code]
  | 2 => cases x <;> simp [RoutingClass.ofCode?, RoutingClass.code]
  | 3 => cases x <;> simp [RoutingClass.ofCode?, RoutingClass.code]
  | n + 4 => simpa [RoutingClass.ofCode?] using fun h => absurd x.code_lt (by omega)

theorem RangeMode.code_lt (x : RangeMode) : x.code < 2 := by cases x <;> decide

theorem RangeMode.ofCode?_eq_some_iff {n : Nat} {x : RangeMode} : RangeMode.ofCode? n = some x ↔ x.code = n := by
  match n with
  | 0 => cases x <;> simp [RangeMode.ofCode?, RangeMode.code]
  | 1 => cases x <;> simp [RangeMode.ofCode?, RangeMode.code]
  | n + 2 => simpa [RangeMode.ofCode?] using fun h => absurd x.code_lt (by omega)

theorem ForeignPolicy.code_lt (x : ForeignPolicy) : x.code < 4 := by cases x <;> decide

theorem ForeignPolicy.ofCode?_eq_some_iff {n : Nat} {x : ForeignPolicy} : ForeignPolicy.ofCode? n = some x ↔ x.code = n := by
  match n with
  | 0 => cases x <;> simp [ForeignPolicy.ofCode?, ForeignPolicy.code]
  | 1 => cases x <;> simp [ForeignPolicy.ofCode?, ForeignPolicy.code]
  | 2 => cases x <;> simp [ForeignPolicy.ofCode?, ForeignPolicy.code]
  | 3 => cases x <;> simp [ForeignPolicy.ofCode?, ForeignPolicy.code]
  | n + 4 => simpa [ForeignPolicy.ofCode?] using fun h => absurd x.code_lt (by omega)

end Sys2Proof.Machine
end

section
/-! SUPPORT. The settings of ports and channels, and how they place the framers (R9 to R14, R22, R26). -/

namespace Sys2Proof.Machine

variable {s : State} {c d p : Fin 8}

/-! ### The framers placed -/

/-- The channel collects a frame. -/
def State.InBody (s : State) (c : Fin 8) : Prop :=
  ∃ (f : Fin 8) (m v : Nat) (bits : List Bool), s.channels[c].framer = .body f m bits v

theorem State.reconf_body (h : s.InBody c) : s.reconf c = (s.placeFramer c).bump (.reconf c) := by
  obtain ⟨f, m, v, bits, h⟩ := h
  simp only [State.reconf, h]

theorem State.reconf_idle (h : ¬ s.InBody c) : s.reconf c = s.placeFramer c := by
  cases hframer : s.channels[c].framer with
  | body f m bits v => exact absurd ⟨f, m, v, bits, hframer⟩ h
  | off => simp only [State.reconf, hframer]
  | hunt w n => simp only [State.reconf, hframer]

theorem State.placeFramer_other (h : c ≠ d) (s : State) : (s.placeFramer c).channels[d] = s.channels[d] :=
  channels_set_other _ _ _ _ h

theorem State.reconf_self (c : Fin 8) (s : State) :
    (s.reconf c).channels[c] = { s.channels[c] with framer := s.freshFramer c } := by
  by_cases h : s.InBody c
  · rw [State.reconf_body h]
    exact State.placeFramer_channel c s
  · rw [State.reconf_idle h]
    exact State.placeFramer_channel c s

theorem State.reconf_other (h : c ≠ d) (s : State) : (s.reconf c).channels[d] = s.channels[d] := by
  by_cases hbody : s.InBody c
  · rw [State.reconf_body hbody]
    exact State.placeFramer_other h s
  · rw [State.reconf_idle hbody]
    exact State.placeFramer_other h s

theorem State.reconf_count_self (h : s.InBody c) : (s.reconf c).count (.reconf c) = min 4294967295 (s.count (.reconf c) + 1) := by
  rw [State.reconf_body h]
  exact State.bump_count_same (.reconf c) _ _

theorem State.reconf_count_other {k : Counter} (h : k = .reconf c → ¬ s.InBody c) : (s.reconf c).count k = s.count k := by
  by_cases hbody : s.InBody c
  · rw [State.reconf_body hbody]
    exact State.bump_count_other (fun heq => h heq.symm hbody) _ _
  · rw [State.reconf_idle hbody]
    rfl

theorem State.reconf_eq_frame (c : Fin 8) (s : State) :
    s.reconf c = { s with channels := (s.reconf c).channels, counters := (s.reconf c).counters } := by
  by_cases h : s.InBody c
  · rw [State.reconf_body h]
    rfl
  · rw [State.reconf_idle h]
    rfl

/-- A fresh framer depends on its own channel, the ports and the families alone. -/
theorem State.freshFramer_congr {t : State} (hchannel : t.channels[c] = s.channels[c]) (hports : t.ports = s.ports)
    (hfamilies : t.families = s.families) : t.freshFramer c = s.freshFramer c := by
  simp only [State.freshFramer, State.framerRuns, State.effective, hchannel, hports, hfamilies]
  rfl

/-! ### The channels of a port -/

/-- PORT SET's part of a channel: its framer placed where it is mapped to the port (R9, R14, R22). -/
def State.reconfOf (p : Fin 8) (t : State) (c : Fin 8) : State :=
  if t.channels[c].source = some p then t.reconf c else t

theorem State.reconfOf_other (h : c ≠ d) (s : State) : (s.reconfOf p c).channels[d] = s.channels[d] := by
  unfold State.reconfOf
  split
  · exact State.reconf_other h s
  · rfl

theorem State.reconfOf_eq_frame (p c : Fin 8) (s : State) : s.reconfOf p c =
    { s with channels := (s.reconfOf p c).channels, counters := (s.reconfOf p c).counters } := by
  unfold State.reconfOf
  split
  · exact State.reconf_eq_frame c s
  · rfl

theorem State.reconfOf_self (p c : Fin 8) (s : State) : (s.reconfOf p c).channels[c] =
    if s.channels[c].source = some p then { s.channels[c] with framer := s.freshFramer c } else s.channels[c] := by
  unfold State.reconfOf
  split
  · exact State.reconf_self c s
  · rfl

/-- A frame of the channel that the port's setting aborts. -/
def State.Aborted (p : Fin 8) (s : State) (c : Fin 8) : Prop := s.channels[c].source = some p ∧ s.InBody c

theorem State.reconfOf_count_self (h : s.Aborted p c) :
    (s.reconfOf p c).count (.reconf c) = min 4294967295 (s.count (.reconf c) + 1) := by
  rw [State.reconfOf, if_pos h.1]
  exact State.reconf_count_self h.2

theorem State.reconfOf_count_other {k : Counter} (h : k = .reconf c → ¬ s.Aborted p c) :
    (s.reconfOf p c).count k = s.count k := by
  unfold State.reconfOf
  split
  next hsource => exact State.reconf_count_other fun hk hbody => h hk ⟨hsource, hbody⟩
  next => rfl

/-- What placing the framers of a port's channels leaves, channel by channel and counter by counter. -/
theorem State.reconfOf_fold (p : Fin 8) (l : List (Fin 8)) (hl : l.Nodup) (s : State) :
    l.foldl (State.reconfOf p) s = { s with
      channels := (l.foldl (State.reconfOf p) s).channels, counters := (l.foldl (State.reconfOf p) s).counters } ∧
    (∀ c ∉ l, (l.foldl (State.reconfOf p) s).channels[c] = s.channels[c]) ∧
    (∀ c ∈ l, (l.foldl (State.reconfOf p) s).channels[c] =
      if s.channels[c].source = some p then { s.channels[c] with framer := s.freshFramer c } else s.channels[c]) ∧
    (∀ c ∈ l, s.Aborted p c →
      (l.foldl (State.reconfOf p) s).count (.reconf c) = min 4294967295 (s.count (.reconf c) + 1)) ∧
    ∀ k : Counter, (∀ c ∈ l, k = .reconf c → ¬ s.Aborted p c) → (l.foldl (State.reconfOf p) s).count k = s.count k := by
  induction l generalizing s with
  | nil => exact ⟨rfl, fun _ _ => rfl, nofun, nofun, fun _ _ => rfl⟩
  | cons a l ih =>
    obtain ⟨ha, hl⟩ := List.nodup_cons.mp hl
    have hframe := State.reconfOf_eq_frame p a s
    have hother (c : Fin 8) (hc : c ∈ l) : (s.reconfOf p a).channels[c] = s.channels[c] :=
      State.reconfOf_other (c := a) (d := c) (fun h => ha (h ▸ hc)) s
    have habort (c : Fin 8) (hc : c ∈ l) : (s.reconfOf p a).Aborted p c ↔ s.Aborted p c := by
      simp only [State.Aborted, State.InBody, hother c hc]
    obtain ⟨hrest, hleft, hplaced, hcounted, huncounted⟩ := ih hl (s.reconfOf p a)
    rw [List.foldl_cons]
    refine ⟨?_, fun c hc => ?_, fun c hc => ?_, fun c hc hab => ?_, fun k hk => ?_⟩
    · rw [hrest, hframe]
    · rw [List.mem_cons, not_or] at hc
      rw [hleft c hc.2, State.reconfOf_other (Ne.symm hc.1)]
    · by_cases hca : c = a
      · subst hca
        rw [hleft c ha, State.reconfOf_self]
      · have hcl := (List.mem_cons.mp hc).resolve_left hca
        have hfresh : (s.reconfOf p a).freshFramer c = s.freshFramer c :=
          State.freshFramer_congr (hother c hcl) (by rw [hframe]) (by rw [hframe])
        rw [hplaced c hcl, hother c hcl, hfresh]
    · by_cases hca : c = a
      · subst hca
        have hnone : ∀ d ∈ l, Counter.reconf c = .reconf d → ¬ (s.reconfOf p c).Aborted p d := fun d hd heq =>
          absurd (Counter.reconf.inj heq) (fun (h : c = d) => ha (h.symm ▸ hd))
        rw [huncounted _ hnone, State.reconfOf_count_self hab]
      · have hcl := (List.mem_cons.mp hc).resolve_left hca
        have hsame : (s.reconfOf p a).count (.reconf c) = s.count (.reconf c) :=
          State.reconfOf_count_other fun heq => absurd (Counter.reconf.inj heq) hca
        rw [hcounted c hcl ((habort c hcl).mpr hab), hsame]
    · rw [huncounted k fun d hd heq hab => hk d (List.mem_cons_of_mem _ hd) heq ((habort d hd).mp hab)]
      exact State.reconfOf_count_other (hk a List.mem_cons_self)

/-! ### The rows -/

/-- Placing framers has nothing to do with the frame taken. -/
theorem State.reconf_takeFrame (c : Fin 8) (s : State) : s.takeFrame.reconf c = (s.reconf c).takeFrame := by
  by_cases h : s.InBody c
  · rw [State.reconf_body h, State.reconf_body (s := s.takeFrame) h]
    rfl
  · rw [State.reconf_idle h, State.reconf_idle (s := s.takeFrame) h]
    rfl

theorem State.reconfOf_takeFrame (p : Fin 8) (l : List (Fin 8)) (s : State) :
    l.foldl (State.reconfOf p) s.takeFrame = (l.foldl (State.reconfOf p) s).takeFrame := by
  induction l generalizing s with
  | nil => rfl
  | cons a l ih =>
    have hone : s.takeFrame.reconfOf p a = (s.reconfOf p a).takeFrame := by
      unfold State.reconfOf
      rw [State.reconf_takeFrame]
      exact (apply_ite State.takeFrame _ _ _).symm
    rw [List.foldl_cons, List.foldl_cons, hone, ih]

theorem Port.startChecker_eq (x : Port) :
    x.startChecker = { x with checker := if x.settings.mode = .check then .start else x.checker } := by
  unfold Port.startChecker
  split <;> rfl

theorem sourceOf_arg (args : List Byte) :
    sourceOf (args.getD 1 0#8) = if h : natAt args 1 < 8 then some ⟨natAt args 1, h⟩ else none := rfl

theorem State.freshFramer_hunt_iff : s.freshFramer c = .hunt 0#32 0 ↔ s.framerRuns c = true := by
  unfold State.freshFramer
  split
  next h => simp [h]
  next h => simp [h]

theorem State.framerRuns_iff : s.framerRuns c = true ↔
    (∃ p : Fin 8, s.channels[c].source = some p ∧ (s.ports[p].settings.mode = .nrz ∨ s.ports[p].settings.mode = .man))
    ∧ ∃ f : Fin 8, s.channels[c].mask.getLsbD f.val = true ∧ s.families[f].valid = true := by
  have heffective : (!(s.effective c).isEmpty) = true
      ↔ ∃ f : Fin 8, s.channels[c].mask.getLsbD f.val = true ∧ s.families[f].valid = true := by
    simp only [← State.mem_effective, Bool.not_eq_true', List.isEmpty_eq_false_iff_exists_mem]
  unfold State.framerRuns
  rw [Bool.and_eq_true, heffective]
  refine and_congr_left' ?_
  cases hsource : s.channels[c].source with
  | none => simp
  | some p => simp [Port.delivers_iff]

/-- Settles O17: the three commands argument by argument, and the framers they place. -/
theorem portAndChannelSettings : Obligations.PortAndChannelSettings := by
  refine ⟨fun tag args s => ⟨fun hlen haccepts => ?port, fun hlen haccepts => ?map, fun hlen haccepts => ?channel⟩,
    fun c s => ?placed⟩
  case port =>
    intro rate
    refine ⟨fun hbad => ?_, fun p mode hp hmode hinv hcq hlow hhigh => ?_⟩
    · refine (haccepts.runs (by rw [hlen]; rfl)).trans ?_
      split
      next p mode inv cq hp hmode hinv hcq =>
        rw [indexOf?_eq_some_iff] at hp
        rw [PortMode.ofCode?_eq_some_iff] at hmode
        rw [boolOf?_eq_some_iff] at hinv hcq
        have hcode := mode.code_lt
        have hport := p.isLt
        rw [if_pos (by omega), State.takeFrame_answer]
      next => rfl
    · intro set x u
      obtain ⟨hrest, -, hplaced, hcounted, huncounted⟩ := State.reconfOf_fold p eight (by decide) u
      have hall : ∀ d : Fin 8, d ∈ eight := by decide
      refine ⟨eight.foldl (State.reconfOf p) u, ?_, hrest, fun c => hplaced c (hall c), ?_⟩
      · refine (haccepts.runs (by rw [hlen]; rfl)).trans ?_
        rw [indexOf?_some hp, PortMode.ofCode?_eq_some_iff.mpr hmode, boolOf?_eq_some_iff.mpr ⟨hinv, rfl⟩,
          boolOf?_eq_some_iff.mpr ⟨hcq, rfl⟩]
        dsimp only
        rw [if_neg (by omega), Port.startChecker_eq]
        show Host.Outcome.next ((eight.foldl (State.reconfOf p) u.takeFrame).answer _ _ _ _) = _
        rw [State.reconfOf_takeFrame, State.takeFrame_answer]
        rfl
      · intro aborted
        exact ⟨fun c hc => hcounted c (hall c) hc, fun k hk => huncounted k fun c _ => hk c⟩
  case map =>
    refine ⟨fun hbad => ?_, fun c hc harg => ?_⟩
    · refine (haccepts.runs (by rw [hlen]; rfl)).trans ?_
      split
      next => rfl
      next c hc =>
        rw [indexOf?_eq_some_iff] at hc
        have hchannel := c.isLt
        rw [if_neg (by omega), State.takeFrame_answer]
    · intro u
      refine (haccepts.runs (by rw [hlen]; rfl)).trans ?_
      rw [indexOf?_some hc]
      dsimp only
      rw [if_pos (by omega), sourceOf_arg]
      show Host.Outcome.next ((State.reconf c u.takeFrame).answer _ _ _ _) = _
      rw [State.reconf_takeFrame, State.takeFrame_answer]
  case channel =>
    refine ⟨fun hbad => ?_, fun c hc harg => ?_⟩
    · refine (haccepts.runs (by rw [hlen]; rfl)).trans ?_
      split
      next => rfl
      next c hc =>
        rw [indexOf?_eq_some_iff] at hc
        have hchannel := c.isLt
        rw [if_pos (by omega), State.takeFrame_answer]
    · intro mask u t
      refine (haccepts.runs (by rw [hlen]; rfl)).trans ?_
      rw [indexOf?_some hc]
      dsimp only
      rw [if_neg harg]
      have hself : u.channels[c] = { s.channels[c] with mask := mask, threshold := natAt args 2 } := by simp [u]
      have htaken : (if mask = s.channels[c].mask then u.takeFrame else u.takeFrame.reconf c) = t.takeFrame := by
        rw [State.reconf_takeFrame]
        exact (apply_ite State.takeFrame _ _ _).symm
      have hplaced : t.channels[c] = { u.channels[c] with framer := t.channels[c].framer } := by
        by_cases hmask : mask = s.channels[c].mask
        · rw [show t = u from if_pos hmask]
        · rw [show t = u.reconf c from if_neg hmask, State.reconf_self]
      have hanswer (v : State) (hv : v = t.takeFrame) : v.answer tag 0x13#8 .ok
          [v.channels[c].mask, byteOf v.channels[c].threshold, byteOf v.channels[c].framer.code,
            boolByte v.channels[c].noisy, byteOf v.channels[c].windowCount, byteOf v.channels[c].slots.length] =
          t.replied tag 0x13#8 .ok [mask, byteOf (natAt args 2), byteOf t.channels[c].framer.code,
            boolByte s.channels[c].noisy, byteOf s.channels[c].windowCount, byteOf s.channels[c].slots.length] := by
        have hch : v.channels[c] = { s.channels[c] with
            mask := mask, threshold := natAt args 2, framer := t.channels[c].framer } := by
          rw [hself] at hplaced
          rw [hv]
          exact hplaced
        rw [hch, hv, State.takeFrame_answer]
      exact congrArg _ (hanswer _ htaken)
  case placed =>
    intro t
    refine ⟨?_, State.freshFramer_hunt_iff.trans State.framerRuns_iff, ?_⟩
    · unfold State.reconf
      cases s.channels[c].framer <;> rfl
    · unfold State.freshFramer
      split
      · exact .inl rfl
      · exact .inr rfl

end Sys2Proof.Machine
end

section
/-! SUPPORT. FAMILY SET with a CRC kind that names none (R11). -/

namespace Sys2Proof.Machine

/-- FAMILY SET of family 0, every argument in range but its last byte, 3, which names no CRC kind (section 9.8). -/
def unnamedCrcArgs : List Byte :=
  [0#8, 1#8, 16#8, 0#8, 0#8, 0#8, 0#8, 0#8, 6#8, 0#8, 2#8, 2#8, 1#8, 0#8, 0#8, 0#8, 3#8]

/-- A powered part whose journal scan has ended, with that frame in its inbound buffer. -/
def unnamedCrcState : State :=
  { State.reset with
    powered := true, journal := { State.reset.journal with state := .ready },
    tl := { State.reset.tl with inbound := [⟨0#8, 0x12#8 :: unnamedCrcArgs⟩] } }

/-- The reply in the reply path of an answered state. -/
def replyOf : Host.Outcome State Fault Refusal → Option (List Byte)
  | .next t => t.tl.reply.map (·.body)
  | _ => none

theorem unnamedCrc_accepted : unnamedCrcState.acceptsSetting 0#8 0x12#8 unnamedCrcArgs :=
  ⟨⟨⟨rfl, by decide +kernel⟩, rfl⟩, by decide +kernel⟩

theorem unnamedCrc_answered :
    replyOf (exec (.familySet 0#8 unnamedCrcArgs) unnamedCrcState) = some [0x12#8, 0x00#8] := by decide +kernel

/-- Refutes O18: in `CrcKind.ofCode?` the name `none` is the CRC kind NONE, so that a byte above 2 reads as that kind, and a
FAMILY SET with such a byte is answered OK and not BAD_ARG. -/
theorem not_familySetReplacesTheEntry : ¬ Obligations.FamilySetReplacesTheEntry := by
  intro h
  have hbad := (h 0#8 unnamedCrcArgs unnamedCrcState rfl unnamedCrc_accepted).1 (by decide)
  have hanswer := congrArg replyOf hbad
  rw [unnamedCrc_answered] at hanswer
  exact absurd hanswer (by decide +kernel)

end Sys2Proof.Machine
end

section
/-! SUPPORT. The time base (R24, R25, R27 to R39). -/

namespace Sys2Proof.Machine

variable {s : State}

theorem TimeBase.tickDay_eq (t : TimeBase) : t.tickDay = { t with
    todMs := if 999 ≤ t.todMs then 0 else t.todMs + 1,
    todSeconds := if 999 ≤ t.todMs then t.todSeconds + 1 else t.todSeconds } := by
  unfold TimeBase.tickDay
  by_cases h : t.todMs < 999
  · rw [if_pos h, if_neg (by omega), if_neg (by omega)]
  · rw [if_neg h, if_pos (by omega), if_pos (by omega)]

/-- Settles O19: the carry of the time of day, and the second that ends the noise windows. -/
theorem millisecondMovesTheClocks : Obligations.MillisecondMovesTheClocks := by
  intro s hpow wraps tb
  have hrun : exec .runClockMillisecond s = .next s.millisecond := live_powered hpow _
  have htick : { s.tb.tickDay with runClock := s.tb.runClock + 1 } = tb := by rw [TimeBase.tickDay_eq]
  refine ⟨fun hno => ?_, fun hdue => ?_⟩
  · have hdue : s.secondDue = false := by simpa [State.secondDue] using hno
    rw [hrun, State.millisecond, hdue, htick]
    rfl
  · have hdue : s.secondDue = true := by simpa [State.secondDue] using hdue
    have hwindow : exec .noiseWindowEnd s = .next s.millisecond := (live_powered hpow _).trans (congrArg _ (if_pos hdue))
    have hsecond : s.millisecond = { s with
        tb := { tb with runSeconds := s.tb.runSeconds + 1 }, channels := tableMap Channel.endWindow s.channels } := by
      rw [State.millisecond, hdue, htick]
      rfl
    refine ⟨s.millisecond, hrun, hwindow, by rw [hsecond], fun c => ?_⟩
    rw [hsecond]
    simp [tableMap, Channel.endWindow]

/-! ### The pulse -/

theorem TimeBase.glitch_iff {t : TimeBase} :
    t.glitch = true ↔ t.present = true ∧ ∃ l, t.lastEdge = some l ∧ (t.runClock - l).toNat < 500 := by
  cases h : t.lastEdge with
  | none => simp [TimeBase.glitch, h]
  | some l => simp [TimeBase.glitch, h]

/-- An event has nothing to do with the time base but for the run clock in its notice. -/
theorem State.raise_withTb {b : TimeBase} (h : b.runClock = s.tb.runClock) (e : Event) (d : Word) :
    ({ s with tb := b } : State).raise e d = { s.raise e d with tb := b } := by
  unfold State.raise State.queueNotice
  dsimp only
  rw [h]
  split
  · rfl
  · split
    · split <;> rfl
    · rfl

/-- The state once an edge is accepted (R33, R35). -/
def State.edgeTaken (s : State) : State := { s with tb := { s.tb with
  lastEdge := some s.tb.runClock, lossExpiry := some (s.tb.runClock + 1500), present := true,
  snapshot := phaseError s.tb.todMs } }

theorem State.edge_accepted (hmode : s.tb.mode ≠ .off) (h : s.tb.glitch = false) :
    s.edge = s.edgeTaken.edgeByMode (phaseError s.tb.todMs) := by
  unfold State.edge
  rw [if_neg hmode, h]
  rfl

/-- Alignment, with the mode the port goes to (R36, R38). -/
def State.aligned (e : Int) (mode : PulseMode) (s : State) : State :=
  let u : State := { s with tb := { s.tb with
    todMs := 0, todSeconds := if e < 0 then s.tb.todSeconds + 1 else s.tb.todSeconds, mode := mode } }
  if e = 0 then u else u.raise .timeStep (BitVec.ofInt 32 e)

theorem State.align_eq (e : Int) (mode : PulseMode) (s : State) :
    { s.align e with tb := { (s.align e).tb with mode := mode } } = s.aligned e mode := by
  unfold State.align State.aligned
  dsimp only
  split
  · rfl
  · rw [State.raise_withTb (s := { s with tb := { s.tb with
        todMs := 0, todSeconds := if e < 0 then s.tb.todSeconds + 1 else s.tb.todSeconds } })
      (b := { s.tb with
        todMs := 0, todSeconds := if e < 0 then s.tb.todSeconds + 1 else s.tb.todSeconds, mode := mode }) rfl,
      State.raise_tb]

theorem State.align_same {mode : PulseMode} (h : s.tb.mode = mode) (e : Int) : s.align e = s.aligned e mode := by
  subst h
  rfl

/-- Settles O20, mode by mode. -/
theorem pulseEdgesAndTheirLoss : Obligations.PulseEdgesAndTheirLoss := by
  refine ⟨fun s hpow => ?edge, fun s e hpow hpresent hexpiry hreached => ?lost⟩
  case edge =>
    intro glitch e t aligned
    have hrun : exec .tpiEdge s = .next s.edge := live_powered hpow _
    have hglitch : s.tb.glitch = true ↔ glitch := TimeBase.glitch_iff
    have haccepted (hno : ¬ glitch) (hmode : s.tb.mode ≠ .off) : s.edge = t.edgeByMode e :=
      State.edge_accepted hmode (by simpa using mt hglitch.mp hno)
    have haligned (mode : PulseMode) : aligned mode = t.aligned e mode := rfl
    refine ⟨fun hoff => ?_, fun hmode hyes => ?_, fun hno => ⟨fun hmode => ?_, fun hmode => ?_, fun hmode => ?_⟩⟩
    · rw [hrun, State.edge, if_pos hoff]
    · rw [hrun, State.edge, if_neg hmode, if_pos (hglitch.mpr hyes)]
    · have hmode' : t.tb.mode = .monitor := hmode
      rw [hrun, haccepted hno (by rw [hmode]; decide), State.edgeByMode, hmode']
    · have hmode' : t.tb.mode = .continuous := hmode
      rw [hrun, haccepted hno (by rw [hmode]; decide), State.edgeByMode, hmode', haligned, ← State.align_same hmode']
    · have hmode' : t.tb.mode = .once := hmode
      rw [hrun, haccepted hno (by rw [hmode]; decide), State.edgeByMode, hmode', haligned, ← State.align_eq]
  case lost =>
    have hdue : s.pulseLossDue = true := by
      simp only [State.pulseLossDue, hpresent, hexpiry, Bool.true_and, reached, decide_eq_true_eq]
      exact hreached
    refine ⟨_, (live_powered hpow _).trans (congrArg _ (if_pos hdue)), rfl, ?_⟩
    have hstill (t : State) (hpow : t.powered = true) (hlost : t.tb.present = false) : exec .pulseLost t = .next t := by
      have hdue : ¬ t.pulseLossDue = true := by simp [State.pulseLossDue, hlost]
      exact (live_powered hpow _).trans (congrArg _ (if_neg hdue))
    exact hstill _ ((State.raise_powered _ _ _).trans hpow) (congrArg TimeBase.present (State.raise_tb _ _ _))

/-! ### The commands -/

theorem TimeBase.setMode_fields (t : TimeBase) (m : PulseMode) (w : Nat) :
    (t.setMode m w).mode = m ∧ (t.setMode m w).window = w ∧ (t.setMode m w).snapshot = t.snapshot := by
  unfold TimeBase.setMode
  split <;> exact ⟨rfl, rfl, rfl⟩

theorem byteOf_byte (b : Byte) : byteOf b.toNat = b := BitVec.ofNat_toNat ..

/-- Settles O21: each command's limits and what it sets. -/
theorem timeBaseCommands : Obligations.TimeBaseCommands := by
  refine ⟨fun tag args s => ⟨fun hlen haccepts => ⟨fun hlarge => ?_, fun hsmall => ?_⟩, fun htakes => ?_⟩,
    fun tag m w s haccepts => ⟨fun hbad => ?_, fun mode hmode hw => ?_⟩⟩
  · refine (haccepts.runs (by rw [hlen]; rfl)).trans ?_
    dsimp only
    rw [if_pos hlarge, State.takeFrame_answer]
  · refine (haccepts.runs (by rw [hlen]; rfl)).trans ?_
    dsimp only
    rw [if_neg (by omega)]
    rfl
  · refine (htakes.runs rfl).trans ?_
    cases hpresent : s.tb.present <;> simp only [State.takeFrame, hpresent] <;> rfl
  · refine (haccepts.runs rfl).trans ?_
    split
    next => rfl
    next mode hmode =>
      rw [PulseMode.ofCode?_eq_some_iff] at hmode
      have hcode := mode.code_lt
      have hm : natAt [m, w] 0 = m.toNat := rfl
      have hw : natAt [m, w] 1 = w.toNat := rfl
      rw [if_pos (by omega), State.takeFrame_answer]
  · intro tb
    have hset : s.tb.setMode mode w.toNat = tb := rfl
    refine (haccepts.runs rfl).trans ?_
    rw [PulseMode.ofCode?_eq_some_iff.mpr (show mode.code = natAt [m, w] 0 from hmode)]
    dsimp only
    rw [if_neg (show ¬ natAt [m, w] 1 > 250 from Nat.not_lt.mpr hw)]
    obtain ⟨hsetMode, hsetWindow, hsnapshot⟩ := s.tb.setMode_fields mode w.toNat
    have hreply (b : TimeBase) (hb : b = tb) : ({ s.takeFrame with tb := b } : State).answer tag 0x22#8 .ok
        ([byteOf b.mode.code, byteOf b.window, byteOf (pulseStatusCode b.present)] ++ signedBytes 2 b.snapshot) =
        ({ s with tb := tb } : State).replied tag 0x22#8 .ok
          ([m, w, if tb.present then 0#8 else 1#8] ++ signedBytes 2 s.tb.snapshot) := by
      subst hb
      have hstatus : byteOf (pulseStatusCode tb.present) = if tb.present then 0#8 else 1#8 := by
        cases tb.present <;> rfl
      rw [hstatus, ← hset, hsetMode, hsetWindow, hsnapshot, hmode, byteOf_byte, byteOf_byte]
      rfl
    exact congrArg _ (hreply _ rfl)

end Sys2Proof.Machine
end

section
/-! SUPPORT. Frames taken in turn, the walks' bucket reads and their completions (R63, R64, R80, R82 to R85). -/

namespace Sys2Proof.Machine

variable {s : State}

/-! ### FRAME_TAKE -/

theorem State.walkDone_eq_false : s.walkDone = false ↔
    ∀ (w : Fin 4) (k : Walk), s.cl.walks[w] = some k → k.outcome = none := by
  have hone (x : Option Walk) : (match x with | some k => k.outcome.isSome | none => false) = false
      ↔ ∀ k, x = some k → k.outcome = none := by
    cases x <;> simp
  unfold State.walkDone
  rw [List.any_eq_false]
  constructor
  · intro h w k hk
    have hmem : s.cl.walks[w] ∈ s.cl.walks.toList := by simp
    exact (hone _).mp (Bool.eq_false_iff.mpr (h _ hmem)) k hk
  · intro h x hx
    obtain ⟨i, hi, rfl⟩ := List.getElem_of_mem hx
    have hi' : i < 4 := by simpa using hi
    exact Bool.eq_false_iff.mp ((hone _).mpr fun k hk => h ⟨i, hi'⟩ k (by simpa using hk))

theorem State.classifierFree_iff : s.classifierFree = true ↔ s.cl.stalled = false ∧ s.rm.state ≠ .resuming
    ∧ ∀ (w : Fin 4) (k : Walk), s.cl.walks[w] = some k → k.outcome = none := by
  rw [State.classifierFree, Bool.and_eq_true, Bool.and_eq_true, Bool.not_eq_true', Bool.not_eq_true', bne_iff_ne,
    State.walkDone_eq_false, and_assoc]

/-- The first channel in turn that holds a record (R63). -/
theorem State.nextChannel_some {i : Fin 8} (hbefore : ∀ j : Fin 8, j < i → s.channels[s.cl.lastServed + 1 + j].slots = [])
    (hat : s.channels[s.cl.lastServed + 1 + i].slots ≠ []) : s.nextChannel = some (s.cl.lastServed + 1 + i) := by
  have hall : ∀ j : Fin 8, j ∈ eight := by decide
  have hrising : eight.Pairwise (· < ·) := by decide
  obtain ⟨pre, post, heq⟩ := List.append_of_mem (hall i)
  rw [heq] at hrising
  unfold State.nextChannel
  rw [List.find?_map, heq, List.find?_append, List.find?_eq_none.mpr, Option.none_or, List.find?_cons_of_pos]
  · rfl
  · simpa [-Fin.getElem_fin] using hat
  · intro j hj
    have hlt : j < i := (List.pairwise_append.mp hrising).2.2 j hj i (by simp)
    simp [hbefore j hlt, -Fin.getElem_fin]

theorem State.nextChannel_none (h : ∀ c : Fin 8, s.channels[c].slots = []) : s.nextChannel = none := by
  refine List.find?_eq_none.mpr fun c _ => ?_
  simp [h c, -Fin.getElem_fin]

theorem State.takeFrameRecord_held {fr : FrameRecord} (h : s.cl.held = some fr) :
    s.takeFrameRecord = ({ s with cl := { s.cl with held := none } } : State).classify fr := by
  simp only [State.takeFrameRecord, h]

theorem State.takeFrameRecord_stopped (h : s.cl.held = none) (hstop : s.cl.stopped = true) : s.takeFrameRecord = s := by
  simp only [State.takeFrameRecord, h, hstop, if_true]

theorem State.takeFrameRecord_next (h : s.cl.held = none) (hstop : s.cl.stopped = false) :
    s.takeFrameRecord = match s.nextChannel with | some c => s.takeFrom c | none => s := by
  unfold State.takeFrameRecord
  rw [h]
  exact if_neg (by rw [hstop]; simp)

theorem State.takeFrom_cons {c : Fin 8} {fr : FrameRecord} {rest : List FrameRecord} (h : s.channels[c].slots = fr :: rest) :
    s.takeFrom c = ({ s with
      channels := s.channels.set c { s.channels[c] with slots := rest }, cl := { s.cl with lastServed := c } } :
        State).classify fr := by
  simp only [State.takeFrom, h]

/-- Settles O34: the held frame, then the channels in turn. -/
theorem frameTakeServesTheChannelsInTurn : Obligations.FrameTakeServesTheChannelsInTurn := by
  intro s hpow free
  have hrun : exec .frameTake s = .next (if s.classifierFree then s.takeFrameRecord.pump else s) := live_powered hpow _
  have hfree : s.classifierFree = true ↔ free := State.classifierFree_iff
  refine ⟨fun hno => by rw [hrun, if_neg (mt hfree.mp hno)], fun hyes => ?_⟩
  rw [hrun, if_pos (hfree.mpr hyes)]
  refine ⟨fun fr hheld => by rw [State.takeFrameRecord_held hheld], fun hheld hnone => ?_,
    fun hheld hstop i fr rest hbefore hat => ?_⟩
  · cases hstop : s.cl.stopped with
    | true => rw [State.takeFrameRecord_stopped hheld hstop]
    | false =>
      have hempty := hnone.resolve_left (by simp [hstop])
      rw [State.takeFrameRecord_next hheld hstop, State.nextChannel_none hempty]
  · intro c
    rw [State.takeFrameRecord_next hheld hstop, State.nextChannel_some hbefore (by rw [hat]; simp)]
    exact congrArg (fun t : State => Host.Outcome.next t.pump) (State.takeFrom_cons hat)

/-! ### The bucket read of a walk -/

/-- Settles O36, by what the examination comes to. -/
theorem bucketReadMovesTheWalk : Obligations.BucketReadMovesTheWalk := by
  intro w k a len s hpow hk hport b x u t walk
  have hsettled : s.settled = s := hport.settled (by simp) (by simp) (by simp)
  have hreading : s.walkReading = some w := by simp only [State.walkReading, hport.inFlight]
  have ht : ({ s with port := s.port.freed } : State).countDamaged b x.2 true = t := State.countDamaged_event _ _ _
  have hcl : t.cl = s.cl := by rw [← ht, State.countDamaged_cl]
  have hwalk (k' : Walk) : t.setWalk w (some k') = walk k' := by rw [State.setWalk, hcl]
  have hexamined : ({ s with port := s.port.freed } : State).examineBucket k.meterId (probeBucket k.meterId k.bucketNo) true
      = (x.1, t) :=
    congrArg (Prod.mk x.1) ht
  show execBucketReadDone s = _
  rw [execBucketReadDone, live_powered hpow, hsettled, hreading]
  dsimp only
  rw [hport.endOp_read]
  have hentry : ({ s with port := s.port.freed } : State).cl.walks[w] = some k := hk
  congr 2
  unfold State.bucketDone
  simp only [hentry, hexamined]
  generalize x.1 = r
  rcases r with _ | r
  · dsimp only
    rw [hwalk, hwalk]
    rfl
  · cases r <;> exact hwalk _

/-! ### The completions -/

theorem freeBuffers_eq (pool : Vector (Option FrameRecord) 16) (bs : List (Fin 16)) :
    freeBuffers pool bs = Vector.ofFn (fun b => if b ∈ bs then none else pool[b]) := by
  induction bs generalizing pool with
  | nil => simp [freeBuffers]
  | cons a bs ih =>
    have hcons : freeBuffers pool (a :: bs) = freeBuffers (pool.set a none) bs := rfl
    rw [hcons, ih]
    congr 1
    funext b
    by_cases hb : b ∈ bs
    · simp [hb]
    · by_cases hab : a = b
      · subst hab
        simp
      · have hne : ¬ b ∈ a :: bs := by simp [hb, Ne.symm hab]
        rw [if_neg hb, if_neg hne]
        exact table_set_other pool none hab

theorem State.ended_eq {w : Fin 4} {k : Walk} {o : WalkOutcome} (hk : s.cl.walks[w] = some k) (ho : k.outcome = some o) :
    s.ended w = some (k, o) := by
  simp only [State.ended, hk, ho, Option.map_some]

theorem State.freeWalk_eq (w : Fin 4) (k : Walk) (t : State) : t.freeWalk w k = { t with cl := { t.cl with
    pool := Vector.ofFn (fun b => if b ∈ k.waiting then none else t.cl.pool[b]),
    walks := t.cl.walks.set w none, stalled := false } } := by
  rw [State.freeWalk, freeBuffers_eq]

/-- Settles O37, outcome by outcome. -/
theorem walkCompletionsHandTheFramesOn : Obligations.WalkCompletionsHandTheFramesOn := by
  intro w k s hpow hk frames freed
  have hfreed (t : State) : t.freeWalk w k = freed t := State.freeWalk_eq w k t
  refine ⟨fun r ho => ?_, fun ho => ?_, fun ho => ?_⟩
  · show execWalkCompleteFound w s = _
    rw [execWalkCompleteFound, live_powered hpow, State.ended_eq hk ho]
    dsimp only
    rw [hfreed]
    rfl
  · show execWalkCompleteNotFound w s = _
    rw [execWalkCompleteNotFound, live_powered hpow, State.ended_eq hk ho]
    dsimp only
    rw [hfreed]
    rfl
  · show execWalkCompleteFailed w s = _
    rw [execWalkCompleteFailed, live_powered hpow, State.ended_eq hk ho]
    dsimp only
    rw [hfreed]
    rfl

end Sys2Proof.Machine
end

section
/-! SUPPORT. The settings of classifier and merge unit, receptions, and the flush (R68, R73 to R77, R87, R90 to R96, R107,
R108). -/

namespace Sys2Proof.Machine

variable {s : State}

/-! ### The cache's commands -/

/-- Settles O39. -/
theorem cacheCommands : Obligations.CacheCommands := by
  refine ⟨fun tag s haccepts => haccepts.runs rfl, fun tag a s haccepts => ⟨fun hlarge => ?_, fun i hi => ?_⟩⟩
  · refine (haccepts.runs rfl).trans ?_
    rw [indexOf?_none (bs := [a]) (i := 0) hlarge, State.takeFrame_answer]
  · refine (haccepts.runs rfl).trans ?_
    rw [indexOf?_some (bs := [a]) (i := 0) hi]
    have hbytes : ∀ x : Option CacheEntry, cacheBytes x = match x with
        | none => [0#8]
        | some ⟨.route n a, id, age⟩ => [1#8, 0#8] ++ beBytes 4 id.toNat ++ [byteOf age] ++ beBytes 2 n
            ++ [byteOf a.family, byteOf a.utility, byteOf a.segment.val, byteOf a.cls.code, byteOf a.rule, byteOf a.digits]
            ++ beBytes 4 a.prior ++ beBytes 2 a.priorDay
        | some ⟨.foreign, id, age⟩ => [1#8, 1#8] ++ beBytes 4 id.toNat ++ [byteOf age] := by
      rintro (_ | ⟨_ | _, id, age⟩)
      · rfl
      · simp only [cacheBytes, attrBytes, List.append_assoc]
        rfl
      · rfl
    exact congrArg (fun bs => Host.Outcome.next (s.takeFrame.answer tag 0x41#8 .ok bs)) (hbytes s.cl.cache[i])

/-! ### The classifier's settings -/

theorem rangeArgs_eq_some_iff {args : List Byte} {r : RangeEntry} : rangeArgs args = some r ↔
    ∃ (mode : RangeMode) (cls : RoutingClass), mode.code = natAt args 6 ∧ cls.code = natAt args 8 ∧
      (6 ≤ natAt args 5 ∧ natAt args 5 ≤ 16 ∧ numAt args 1 4 % 2 ^ natAt args 5 = 0 ∧ natAt args 7 ≤ 15
        ∧ natAt args 9 ≤ 15 ∧ (natAt args 10 ≤ 7 ∨ natAt args 10 = 255)) ∧
      r = ⟨true, BitVec.ofNat 32 (numAt args 1 4), natAt args 5, mode, natAt args 7, cls, natAt args 9,
        if natAt args 10 = 255 then none else some (natAt args 10)⟩ := by
  unfold rangeArgs
  split
  next mode cls hmode hcls =>
    rw [RangeMode.ofCode?_eq_some_iff] at hmode
    rw [RoutingClass.ofCode?_eq_some_iff] at hcls
    dsimp only
    constructor
    · intro h
      obtain ⟨hrange, hr⟩ := Option.ite_none_right_eq_some.mp h
      exact ⟨mode, cls, hmode, hcls, hrange, (Option.some.inj hr).symm⟩
    · rintro ⟨mode', cls', hmode', hcls', hrange, rfl⟩
      have hm : mode' = mode := Option.some.inj
        ((RangeMode.ofCode?_eq_some_iff.mpr hmode').symm.trans (RangeMode.ofCode?_eq_some_iff.mpr hmode))
      have hc : cls' = cls := Option.some.inj
        ((RoutingClass.ofCode?_eq_some_iff.mpr hcls').symm.trans (RoutingClass.ofCode?_eq_some_iff.mpr hcls))
      subst hm hc
      exact if_pos hrange
  next hno =>
    refine ⟨fun h => absurd h (by simp), ?_⟩
    rintro ⟨mode, cls, hmode, hcls, -⟩
    exact absurd (RoutingClass.ofCode?_eq_some_iff.mpr hcls)
      (fun h => hno mode cls (RangeMode.ofCode?_eq_some_iff.mpr hmode) h)

theorem State.rangeClash_iff {n : Fin 8} {r : RangeEntry} : s.rangeClash n r = true ↔
    ∃ m : Fin 8, m ≠ n ∧ s.cl.ranges[m].valid = true
      ∧ (r.holds s.cl.ranges[m].base = true ∨ s.cl.ranges[m].holds r.base = true) := by
  have hall : ∀ m : Fin 8, m ∈ eight := by decide
  simp [State.rangeClash, RangeEntry.overlaps, hall, and_assoc, -Fin.getElem_fin]

theorem utilitySet_getLsbD (codes : List Byte) {n : Nat} (hn : n < 16) :
    (utilitySet codes).getLsbD n = codes.any (fun c => c.toNat == n) := by
  have hfold (u : BitVec 16) : (codes.foldl (fun acc c => acc ||| (1#16 <<< c.toNat)) u).getLsbD n
      = (u.getLsbD n || codes.any (fun c => c.toNat == n)) := by
    induction codes generalizing u with
    | nil => simp
    | cons c codes ih =>
      have hbit : (1#16 <<< c.toNat).getLsbD n = (c.toNat == n) := by
        rw [BitVec.getLsbD_shiftLeft]
        by_cases hlt : n < c.toNat
        · simp [hlt, Nat.ne_of_gt hlt]
        · have hone : (1#16).getLsbD (n - c.toNat) = (c.toNat == n) := by
            rw [BitVec.getLsbD_one]
            by_cases heq : c.toNat = n
            · simp [heq]
            · have : n - c.toNat ≠ 0 := by omega
              simp [heq, this]
          simp [hn, hlt, hone]
      rw [List.foldl_cons, ih, BitVec.getLsbD_or, hbit, List.any_cons, Bool.or_assoc]
  rw [utilitySet, hfold, BitVec.getLsbD_zero, Bool.false_or]

/-- Two bytes are the big-endian bytes of the number they make. -/
theorem beBytes_two (x y : Byte) : beBytes 2 (x.toNat * 256 + y.toNat) = [x, y] := by
  have hx := x.isLt
  have hy := y.isLt
  have hhigh : BitVec.ofNat 8 ((x.toNat * 256 + y.toNat) / 256 ^ 1) = x :=
    BitVec.eq_of_toNat_eq (by rw [BitVec.toNat_ofNat]; omega)
  have hlow : BitVec.ofNat 8 ((x.toNat * 256 + y.toNat) / 256 ^ 0) = y :=
    BitVec.eq_of_toNat_eq (by rw [BitVec.toNat_ofNat]; omega)
  rw [beBytes, beBytes, beBytes, hhigh, hlow]

/-- Settles O40, command by command. -/
theorem classifierAndMergeSettings : Obligations.ClassifierAndMergeSettings := by
  refine ⟨fun tag args s => ⟨fun hlen haccepts => ?rangeSet, fun hlen haccepts => ?rangeClear,
    fun hlen haccepts => ?policy, fun codes hargs hshort haccepts => ?utilities⟩, fun tag a b c d s haccepts => ?merge⟩
  case rangeSet =>
    intro base k fam bad
    refine ⟨fun hbad => ?_, fun n mode cls hgood hn hmode hcls => ?_⟩
    · refine (haccepts.runs (by rw [hlen]; rfl)).trans ?_
      split
      next n r hn hr =>
        rw [indexOf?_eq_some_iff] at hn
        obtain ⟨mode, cls, hmode, hcls, ⟨hklow, hkhigh, hbase, hutility, hrule, hfam⟩, -⟩ := rangeArgs_eq_some_iff.mp hr
        have hmodeLt := mode.code_lt
        have hclsLt := cls.code_lt
        have hnLt := n.isLt
        have hbad' : 7 < natAt args 0 ∨ natAt args 5 < 6 ∨ 16 < natAt args 5 ∨ numAt args 1 4 % 2 ^ natAt args 5 ≠ 0
          ∨ 1 < natAt args 6 ∨ 15 < natAt args 7 ∨ 3 < natAt args 8 ∨ 15 < natAt args 9
          ∨ (7 < natAt args 10 ∧ natAt args 10 < 255) := hbad
        generalize numAt args 1 4 % 2 ^ natAt args 5 = residue at hbase hbad'
        omega
      next => rw [State.takeFrame_answer]
    · intro r clash
      have hgood' : ¬ (7 < natAt args 0 ∨ natAt args 5 < 6 ∨ 16 < natAt args 5 ∨ numAt args 1 4 % 2 ^ natAt args 5 ≠ 0
          ∨ 1 < natAt args 6 ∨ 15 < natAt args 7 ∨ 3 < natAt args 8 ∨ 15 < natAt args 9
          ∨ (7 < natAt args 10 ∧ natAt args 10 < 255)) := hgood
      have hfamByte := natAt_lt args 10
      have hr : rangeArgs args = some r := by
        refine rangeArgs_eq_some_iff.mpr ⟨mode, cls, hmode, hcls, ?_, rfl⟩
        generalize numAt args 1 4 % 2 ^ natAt args 5 = residue at hgood' ⊢
        omega
      have hclash : s.takeFrame.rangeClash n r = true ↔ clash := State.rangeClash_iff
      refine ⟨fun hyes => ?_, fun hno => ?_⟩
      · refine (haccepts.runs (by rw [hlen]; rfl)).trans ?_
        rw [indexOf?_some hn, hr]
        dsimp only
        rw [if_pos (hclash.mpr hyes), State.takeFrame_answer]
      · refine (haccepts.runs (by rw [hlen]; rfl)).trans ?_
        rw [indexOf?_some hn, hr]
        dsimp only
        rw [if_neg (mt hclash.mp hno)]
        have hbase : (BitVec.ofNat 32 base).toNat = base := by
          rw [BitVec.toNat_ofNat]
          exact Nat.mod_eq_of_lt (numAt_lt args 1 4)
        have hfamily : familyCode (if fam = 255 then none else some fam) = fam := by
          split
          next h => exact h.symm
          next => rfl
        have hbytes : rangeBytes r = 1#8 :: beBytes 4 base
            ++ [byteOf k, byteOf mode.code, byteOf r.utility, byteOf cls.code, byteOf r.rule, byteOf fam] := by
          show 1#8 :: beBytes 4 (BitVec.ofNat 32 base).toNat ++ [byteOf k, byteOf mode.code, byteOf r.utility,
            byteOf cls.code, byteOf r.rule, byteOf (familyCode (if fam = 255 then none else some fam))] = _
          rw [hbase, hfamily]
        rw [hbytes]
        rfl
  case rangeClear =>
    refine ⟨fun hbad => ?_, fun n hn => ?_⟩
    · refine (haccepts.runs (by rw [hlen]; rfl)).trans ?_
      rw [indexOf?_none hbad]
      dsimp only
      rw [State.takeFrame_answer]
    · refine (haccepts.runs (by rw [hlen]; rfl)).trans ?_
      rw [indexOf?_some hn]
      rfl
  case policy =>
    refine ⟨fun hbad => ?_, fun p hp => ?_⟩
    · refine (haccepts.runs (by rw [hlen]; rfl)).trans ?_
      split
      next p hp =>
        rw [ForeignPolicy.ofCode?_eq_some_iff] at hp
        have hcode := p.code_lt
        omega
      next => rw [State.takeFrame_answer]
    · refine (haccepts.runs (by rw [hlen]; rfl)).trans ?_
      rw [ForeignPolicy.ofCode?_eq_some_iff.mpr hp]
      rfl
  case utilities =>
    intro bad held
    have hlen : (args.length == natAt args 0 + 1) = true := by
      have hcount : natAt args 0 = codes.length := by
        rw [hargs]
        exact byteOf_toNat _ hshort
      rw [hcount, hargs]
      simp
    have hcodes : args.drop 1 = codes := by rw [hargs]; rfl
    have hbad : (4 < codes.length ∨ codes.any (fun c => 15 < c.toNat) = true) ↔ bad := by
      simp [bad]
    refine ⟨fun hyes => ?_, fun hno hstate => ?_, fun hno hopened hresuming => ⟨utilitySet codes,
      fun n hn => utilitySet_getLsbD codes hn, ?_⟩⟩
    · refine (haccepts.runs hlen).trans ?_
      simp only [hcodes]
      rw [if_pos (hbad.mpr hyes), State.takeFrame_answer]
    · refine (haccepts.runs hlen).trans ?_
      simp only [hcodes]
      rw [if_neg (mt hbad.mp hno), if_pos (by exact hstate), State.takeFrame_answer]
    · refine (haccepts.runs hlen).trans ?_
      simp only [hcodes]
      rw [if_neg (mt hbad.mp hno), if_neg (by rintro (h | h); exacts [hopened h, hresuming h])]
      have hheld : utilityCodes (utilitySet codes) = held := by
        refine congrArg (List.map byteOf) (List.filter_congr fun n hn => ?_)
        exact utilitySet_getLsbD codes (List.mem_range.mp hn)
      rw [hheld]
      rfl
  case merge =>
    intro hold quiet
    have hhold : numAt [a, b, c, d] 0 2 = hold := beNat_append_two a b
    have hquiet : numAt [a, b, c, d] 2 2 = quiet := beNat_append_two c d
    refine ⟨fun hbad => ?_, fun hlow hhigh => ?_⟩
    · refine (haccepts.runs rfl).trans ?_
      simp only [hhold]
      rw [if_pos hbad, State.takeFrame_answer]
    · refine (haccepts.runs rfl).trans ?_
      simp only [hhold, hquiet]
      rw [if_neg (by omega)]
      rw [beBytes_two, beBytes_two]
      rfl

end Sys2Proof.Machine
end

section
/-! SUPPORT. Receptions and the flush of the merge table (R90 to R95, R107, R108). -/

namespace Sys2Proof.Machine

variable {s : State}

/-! ### Receptions -/

/-- With no tolerance the movement is a reversal exactly where the way back is the shorter one (R94). -/
theorem movement_reversal_iff {M upto frm : Nat} (hM : 0 < M) :
    movement M 0 upto frm = .reversal ↔ 0 < forwardBy M upto frm ∧ M - forwardBy M upto frm < forwardBy M upto frm := by
  have hlt : forwardBy M upto frm < M := Nat.mod_lt _ hM
  unfold movement
  generalize forwardBy M upto frm = F at *
  dsimp only [backwardBy]
  split
  · simp only [reduceCtorEq, false_iff]
    omega
  · rw [if_neg (by omega)]
    split
    · simp only [true_iff]
      omega
    · simp only [reduceCtorEq, false_iff]
      omega

theorem Source.modulus_pos (src : Source) : 0 < src.modulus := by
  cases src <;> exact Nat.pow_pos (by decide)

/-- The entry found for a meter is the first in use that has its ID. -/
theorem State.entryOf_first {id : Word} {i : Fin 32} {e : MergeEntry} (he : s.mc.table[i] = some e) (hid : e.meterId = id)
    (hfirst : ∀ j : Fin 32, j < i → ∀ e', s.mc.table[j] = some e' → e'.meterId ≠ id) : s.entryOf id = some i := by
  refine tableFind_eq_some_iff.mpr ⟨by simp [he, hid], fun j hj => ?_⟩
  cases hentry : s.mc.table[j] with
  | none => rfl
  | some e' => exact beq_eq_false_iff_ne.mpr (hfirst j hj e' hentry)

theorem State.entryOf_none {id : Word} (h : ∀ (j : Fin 32) (e : MergeEntry), s.mc.table[j] = some e → e.meterId ≠ id) :
    s.entryOf id = none := by
  refine tableFind_eq_none_iff.mpr fun j => ?_
  cases hentry : s.mc.table[j] with
  | none => rfl
  | some e => exact beq_eq_false_iff_ne.mpr (h j e hentry)

/-- The first free entry of the table. -/
theorem freeEntry_first {t : Vector (Option MergeEntry) 32} {i : Fin 32} (hfree : t[i] = none)
    (hfirst : ∀ j : Fin 32, j < i → t[j] ≠ none) : tableFind Option.isNone t = some i :=
  tableFind_eq_some_iff.mpr ⟨by simp [hfree], fun j hj => Option.isNone_eq_false_iff.mpr (Option.isSome_iff_ne_none.mpr (hfirst j hj))⟩

theorem freeEntry_none {t : Vector (Option MergeEntry) 32} (hfull : ∀ j : Fin 32, t[j] ≠ none) : tableFind Option.isNone t = none :=
  tableFind_eq_none_iff.mpr fun j => Option.isNone_eq_false_iff.mpr (Option.isSome_iff_ne_none.mpr (hfull j))

theorem State.createEntry_at {i : Fin 32} (h : tableFind Option.isNone s.mc.table = some i) (fr : FrameRecord) (src : Source)
    (noDir : Bool) : s.createEntry fr src noDir = s.setEntry i (s.newEntry fr src noDir) := by
  simp only [State.createEntry, h]

theorem State.forceCommit_of_free {i : Fin 32} (h : tableFind Option.isNone s.mc.table = some i) : s.forceCommit = s := by
  simp only [State.forceCommit, h]

theorem State.forceCommit_full {i : Fin 32} (hfull : tableFind Option.isNone s.mc.table = none)
    (hi : earliestEntry (fun _ => true) s.mc.table = some i) : s.forceCommit = ((s.commit i false).1).bump .forcedCommits := by
  simp only [State.forceCommit, hfull, hi]

theorem State.journalStage_tb (r : Reading) (offers flush : Bool) (s : State) :
    (s.journalStage r offers flush).1.tb = s.tb := by
  unfold State.journalStage
  repeat' split
  all_goals simp

theorem State.commitReading_tb (e : MergeEntry) (o : ScreenOut) (flush : Bool) (s : State) :
    (s.commitReading e o flush).1.tb = s.tb := by
  unfold State.commitReading
  cases s.statusOf e.source with
  | none => dsimp only; split <;> simp [State.journalStage_tb]
  | some st => dsimp only; split <;> simp [State.journalStage_tb]

/-- A commit leaves the time base alone. -/
theorem State.commit_tb (i : Fin 32) (flush : Bool) (s : State) : (s.commit i flush).1.tb = s.tb := by
  unfold State.commit
  split
  · rfl
  · dsimp only
    split
    · rfl
    · exact State.commitReading_tb _ _ _ _

/-- Settles O41: the entry of the meter, the first free entry, or the entry a forced commit frees. -/
theorem receptionsMergeOrMakeEntries : Obligations.ReceptionsMergeOrMakeEntries := by
  intro fr src noDir s t fresh
  refine ⟨fun i e he hid hfirst => ?_, fun hnone => ?_⟩
  · intro M F back
    have hentry : t.entryOf fr.meterId = some i := State.entryOf_first (s := t) he hid hfirst
    have hat : t.mc.table[i] = some e := he
    have hM : e.source.modulus = M := by
      simp only [M]
      cases e.source <;> rfl
    have hback : (movement e.source.modulus 0 fr.value e.kept = .reversal) ↔ back = true := by
      rw [movement_reversal_iff e.source.modulus_pos, hM]
      exact decide_eq_true_iff.symm
    have hbeq : (movement e.source.modulus 0 fr.value e.kept == Movement.reversal) = back := by
      rw [Bool.eq_iff_iff, beq_iff_eq, hback]
    have hreceive : s.receive fr src noDir = t.setEntry i (e.merge fr) := by
      simp only [State.receive, hentry, hat, t]
    have hmerge : e.merge fr = { e with
        count := min 255 (e.count + 1), channels := e.channels ||| (1#8 <<< fr.channel.val),
        families := e.families ||| (1#8 <<< fr.family.val), idClash := e.idClash || fr.family != e.firstFamily,
        best := min e.best fr.quality, indicators := e.indicators ||| fr.indicators,
        kept := if back then e.kept else fr.value, unsteady := e.unsteady || back } := by
      simp only [MergeEntry.merge, hback, hbeq]
      rfl
    rw [hreceive, hmerge]
    rfl
  · have hentry : t.entryOf fr.meterId = none := State.entryOf_none (s := t) hnone
    have hreceive : s.receive fr src noDir = t.forceCommit.createEntry fr src noDir := by
      simp only [State.receive, hentry, t]
    rw [hreceive]
    refine ⟨fun i hfree hfirst => ?_, fun hfull i hi => ?_⟩
    · have hfind : tableFind Option.isNone t.mc.table = some i := freeEntry_first hfree hfirst
      rw [State.forceCommit_of_free hfind, State.createEntry_at hfind]
      rfl
    · intro u
      obtain ⟨e, he, -⟩ := earliestEntry_accepted hi
      have hu : u.mc = { s.mc with table := s.mc.table.set i none } := State.commit_table (s := t) he false
      have htb : u.tb = s.tb := State.commit_tb i false t
      have hfind : tableFind Option.isNone u.mc.table = some i := by
        rw [hu]
        refine freeEntry_first (table_set_same _ _ _) fun j hj => ?_
        rw [table_set_other _ _ (Fin.ne_of_gt hj)]
        exact hfull j
      have hnew : u.newEntry fr src noDir = fresh := by
        simp only [State.newEntry, htb, hu, fresh]
      rw [State.forceCommit_full (s := t) (freeEntry_none hfull) hi, State.createEntry_at hfind, hnew, State.setEntry, hu]
      simp only [Vector.set_set]

/-! ### The flush -/

/-- Settles O44: the marking, a commit of the flush, and its end. -/
theorem flushCommitsTheMarkedEntries : Obligations.FlushCommitsTheMarkedEntries := by
  intro tag s
  refine ⟨fun haccepts => ?_, fun c r o p u hwork => ⟨fun i hi => ?_, fun hclear hqueue => ?_⟩⟩
  · refine ⟨_, haccepts.runs rfl, rfl, fun i => ?_⟩
    exact tableMap_getElem _ _ i
  · have hlong : ((s.commit i true).1).tl.longOp = some ⟨0x51#8, tag, .flush c r o p u, none⟩ :=
      (State.SameWork.commit i true s).longOp.trans hwork.2
    have hrun : exec .flushMergeCommit s = .next ((s.commit i true).1.setWork (.flush (c + 1)
        (r + (s.commit i true).2.repeated.toNat) (o + (s.commit i true).2.offered.toNat) p
        (u + (s.commit i true).2.unstored.toNat))).pump := by
      refine (live_powered hwork.1 _).trans ?_
      rw [show s.work = some (.flush c r o p u) from hwork.work, show s.flushNext = some i from hi]
    rw [hrun, State.setWork_eq hlong]
    rfl
  · have hnext : s.flushNext = none := earliestEntry_eq_none_iff.mpr hclear
    have hany : s.journal.queue.any (·.flush) = false := by simpa [List.any_eq_false] using hqueue
    refine (live_powered hwork.1 _).trans ?_
    rw [show s.work = some (.flush c r o p u) from hwork.work]
    dsimp only
    rw [hnext, hany, State.endLong_eq hwork.2]
    rfl

end Sys2Proof.Machine
end

section
/-! SUPPORT. Status, counters, events and reset (R183 to R186), and the characters of the link (R171 to R176). -/

namespace Sys2Proof.Machine

variable {s : State}

theorem maskArg_two (a b : Byte) : maskArg [a, b] = BitVec.ofNat 16 (a.toNat * 256 + b.toNat) :=
  congrArg (BitVec.ofNat 16) (beNat_append_two a b)

theorem maskArg_two_bytes (a b : Byte) : beBytes 2 (maskArg [a, b]).toNat = [a, b] := by
  have ha := a.isLt
  have hb := b.isLt
  rw [maskArg_two, BitVec.toNat_ofNat, Nat.mod_eq_of_lt (by omega), beBytes_two]

/-- Once a RESET is accepted no frame is taken (R186). -/
theorem State.canTake_of_resetArmed (h : s.tl.resetArmed = true) (f : CmdFrame) : s.canTake f = false := by
  simp [State.canTake, h]

theorem State.statusReport_eq (s : State) : s.statusReport =
    [0x01#8, 0xA2#8, 0x01#8, byteOf s.rm.state.code] ++ beBytes 2 s.rm.meterCount
      ++ [byteOf s.journal.state.code, boolByte s.storeFailed, byteOf s.ue.state.code]
      ++ (match s.tl.rate with | some r => beBytes 4 r | none => List.replicate 4 0xFF#8)
      ++ [boolByte s.tb.timeValid, if s.tb.present then 0#8 else 1#8]
      ++ beBytes 2 s.tl.flags.toNat ++ beBytes 2 s.tl.mask.toNat
      ++ [byteOf s.tl.inbound.length, byteOf s.tl.notices.length, byteOf s.tl.live.length]
      ++ (match s.tl.longOp with | some l => [1#8, l.code] | none => [0#8]) := by
  have hpulse : byteOf (pulseStatusCode s.tb.present) = if s.tb.present then 0#8 else 1#8 := by
    cases s.tb.present <;> rfl
  simp only [State.statusReport, hpulse]
  rfl

/-- Settles O60, command by command, and an event by its flag, its mask bit and the room of the notice queue. -/
theorem statusCountersAndEvents : Obligations.StatusCountersAndEvents := by
  intro tag s
  refine ⟨fun htakes => ?_, fun htakes => htakes.runs rfl, fun haccepts => haccepts.runs rfl,
    fun a b => ⟨fun htakes => ?_, fun haccepts => ?_⟩, fun haccepts => ?_,
    fun e detail => ⟨fun hset => State.raise_again hset detail, fun hclear =>
      ⟨fun hmask => State.raise_masked hclear hmask detail, fun hmask hroom => ?_, fun hmask hfull => ?_⟩⟩⟩
  · refine (htakes.runs rfl).trans ?_
    rw [State.statusReport_eq, State.takeFrame_answer]
    rfl
  · refine (htakes.runs rfl).trans ?_
    rw [maskArg_two]
    rfl
  · refine (haccepts.runs rfl).trans ?_
    rw [maskArg_two_bytes, maskArg_two]
    rfl
  · exact ⟨_, haccepts.runs rfl, rfl, State.canTake_of_resetArmed rfl⟩
  · rw [State.raise_notice hclear hmask]
    exact State.queueNotice_room (s := s.flagged e) hroom _
  · rw [State.raise_notice hclear hmask]
    exact State.queueNotice_full (s := s.flagged e) hfull _

/-! ### Frame assembly -/

theorem badLength_iff (bs : List Byte) :
    badLength bs = true ↔ bs.length = 2 ∧ (numAt bs 0 2 = 0 ∨ 1024 < numAt bs 0 2) := by
  simp only [badLength, Bool.and_eq_true, Bool.or_eq_true, beq_iff_eq, decide_eq_true_eq]
  exact Iff.rfl

theorem frameComplete_iff (bs : List Byte) : frameComplete bs = true ↔ 2 ≤ bs.length ∧ bs.length = numAt bs 0 2 + 6 := by
  simp [frameComplete]

theorem State.takeByte_idle (h : s.tl.rx = none) (b : Byte) :
    s.takeByte b = if b = 0xA5#8 then { s with tl := { s.tl with rx := some [] } } else s := by
  simp only [State.takeByte, h]
  rfl

theorem State.takeByte_bad {bs : List Byte} (h : s.tl.rx = some bs) {b : Byte} (hbad : badLength (bs ++ [b]) = true) :
    s.takeByte b = ({ s with tl := { s.tl with rx := none } }).bump .linkDiscard := by
  simp only [State.takeByte, h, hbad, if_true]
  rfl

theorem State.takeByte_partial {bs : List Byte} (h : s.tl.rx = some bs) {b : Byte} (hbad : badLength (bs ++ [b]) = false)
    (hpart : frameComplete (bs ++ [b]) = false) : s.takeByte b = { s with tl := { s.tl with rx := some (bs ++ [b]) } } := by
  simp only [State.takeByte, h, hbad, hpart, Bool.false_eq_true, if_false]
  rfl

theorem State.takeByte_complete {bs : List Byte} (h : s.tl.rx = some bs) {b : Byte} (hbad : badLength (bs ++ [b]) = false)
    (hall : frameComplete (bs ++ [b]) = true) :
    s.takeByte b = ({ s with tl := { s.tl with rx := none } }).endFrame (bs ++ [b]) := by
  simp only [State.takeByte, h, hbad, hall, Bool.false_eq_true, if_false, if_true]
  rfl

theorem State.frameDue_complete {bs : List Byte} (hrate : s.tl.rate ≠ none) (h : s.tl.rx = some bs) {b : Byte}
    (hbad : badLength (bs ++ [b]) = false) (hall : frameComplete (bs ++ [b]) = true) : s.frameDue b = true := by
  simp [State.frameDue, h, hbad, hall, Option.isSome_iff_ne_none.mpr hrate]

/-- One command for each row of the command index, in its order. -/
def commandsOfIndex : List Instr :=
  [.portSet 0 [], .mapSet 0 [], .familySet 0 [], .channelSet 0 [], .checkRead 0 [], .timeSet 0 [], .timeRead 0 [],
   .pulseMode 0 [], .routeClear 0 [], .routeLoad 0 [], .routeFinish 0 [], .routeDigest 0 [], .routeOpen 0 [],
   .routeClose 0 [], .routeQuery 0 [], .segmentRead 0 [], .unreadList 0 [], .cacheFlush 0 [], .cacheProbe 0 [],
   .rangeSet 0 [], .rangeClear 0 [], .foreignPolicy 0 [], .utilitySet 0 [], .mergeSet 0 [], .flushMerge 0 [],
   .ruleSet 0 [], .ruleRead 0 [], .configSave 0 [], .journalStatus 0 [], .journalErase 0 [], .uploadStart 0 [],
   .uploadStop 0 [], .uploadAck 0 [], .status 0 [], .countersRead 0 [], .countersClear 0 [], .eventsClear 0 [],
   .eventMask 0 [], .reset 0 []]

theorem commandsOfIndex_codes : commandsOfIndex.filterMap (fun i => i.form?.map (·.code)) = commandCodes := rfl

theorem exists_form_of_mem_commandCodes {code : Byte} (h : code ∈ commandCodes) :
    ∃ (i : Instr) (f : CommandForm), i.form? = some f ∧ f.code = code := by
  rw [← commandsOfIndex_codes] at h
  obtain ⟨i, -, hi⟩ := List.mem_filterMap.mp h
  obtain ⟨f, hf, hcode⟩ := Option.map_eq_some_iff.mp hi
  exact ⟨i, f, hf, hcode⟩

/-- Settles O58: the tuning, the bytes of a frame one by one, and a code of no command. -/
theorem linkTakesCharacters : Obligations.LinkTakesCharacters := by
  intro s hpow rxd
  refine ⟨fun rate => ⟨fun hnone hlow hhigh => ?_, fun hno => ?_⟩, fun hnone => ⟨?_, fun b => ?_⟩,
    fun hrate => ⟨?_, fun b => ?_⟩, fun tag code args htakes hcodes => ?_⟩
  · refine (live_powered hpow _).trans ?_
    rw [if_pos (by simp [hnone, hlow, hhigh])]
    rfl
  · refine (live_powered hpow _).trans ?_
    rw [if_neg]
    simp only [Bool.and_eq_true, Option.isNone_iff_eq_none, decide_eq_true_eq]
    rintro ⟨⟨hrate, hlow⟩, hhigh⟩
    rcases hno with h | h | h
    · exact h hrate
    · omega
    · omega
  · refine (live_powered hpow _).trans ?_
    rw [hnone]
    rfl
  · refine (live_powered hpow _).trans ?_
    rw [hnone]
    rfl
  · refine (live_powered hpow _).trans ?_
    rw [if_pos (Option.isSome_iff_ne_none.mpr hrate)]
    rfl
  · intro row
    have hrow : row = .next (s.takeByte b) := by
      refine (live_powered hpow _).trans ?_
      rw [if_pos (Option.isSome_iff_ne_none.mpr hrate)]
    refine ⟨fun hidle => by rw [hrow, State.takeByte_idle hidle], fun bs hbs => ?_⟩
    intro all n bad
    have hbad : badLength all = true ↔ bad := badLength_iff all
    refine ⟨fun hyes => by rw [hrow, State.takeByte_bad hbs (hbad.mpr hyes)], fun hno hpart => ?_, fun hlen hall => ?_⟩
    · have hpartial : frameComplete all = false := Bool.eq_false_iff.mpr fun h => by
        obtain ⟨h2, heq⟩ := (frameComplete_iff all).mp h
        rcases hpart with h | h
        · omega
        · exact h heq
      rw [hrow, State.takeByte_partial hbs (Bool.eq_false_iff.mpr (mt hbad.mp hno)) hpartial]
    · intro frame good
      have hnot : badLength all = false := Bool.eq_false_iff.mpr fun h => by
        obtain ⟨h2, -⟩ := (badLength_iff all).mp h
        omega
      have hcomplete : frameComplete all = true := (frameComplete_iff all).mpr ⟨hlen, hall⟩
      have hend : row = .next ((rxd none).endFrame all) := by rw [hrow, State.takeByte_complete hbs hnot hcomplete]
      have hgood : (frameCrcOk all && all.getD 2 0#8 == 0x01#8) = true ↔ good := by
        simp only [frameCrcOk, Bool.and_eq_true, beq_iff_eq]
        exact Iff.rfl
      refine ⟨?_, fun hbadframe => ?_, fun hok hfull => ?_, fun hok hroom => ?_⟩
      · rw [hrow]
        refine (live_powered hpow _).trans ?_
        rw [if_pos (State.frameDue_complete hrate hbs hnot hcomplete)]
      · rw [hend, State.endFrame, if_neg (mt hgood.mp hbadframe)]
      · rw [hend, State.endFrame, if_pos (hgood.mpr hok)]
        exact congrArg Host.Outcome.next (if_neg (Nat.not_lt.mpr hfull))
      · rw [hend, State.endFrame, if_pos (hgood.mpr hok)]
        exact congrArg Host.Outcome.next (if_pos hroom)
  · have hunknown : commandCodes.contains code = false := by
      refine Bool.eq_false_iff.mpr fun h => ?_
      obtain ⟨i, f, hf, hcode⟩ := exists_form_of_mem_commandCodes (List.contains_iff_mem.mp h)
      exact hcodes i f hf hcode
    refine (live_powered htakes.1 _).trans ?_
    rw [if_pos (by rw [htakes.2, hunknown]; rfl)]
    rfl

end Sys2Proof.Machine
end

section
/-! SUPPORT. The upload commands (R157, R162, R163, R167) and the outbound scheduler (R168, R172, R177 to R180). -/

namespace Sys2Proof.Machine

variable {s : State}

/-! ### The highest serial of a frame -/

/-- A running maximum of serials starts from what it is given. -/
theorem foldl_serial_max (f : List UploadRecord) (m : Nat) : f.foldl (fun m r => max m r.serial) m = max m (frameTop f) := by
  induction f generalizing m with
  | nil => exact (Nat.max_zero m).symm
  | cons r rest ih =>
    have htop : frameTop (r :: rest) = max r.serial (frameTop rest) := by
      rw [frameTop, List.foldl_cons, Nat.zero_max, ih]
    rw [List.foldl_cons, ih, htop, Nat.max_assoc]

/-- A frame reaches above a serial exactly where one of its records does. -/
theorem lt_frameTop_iff (f : List UploadRecord) (n : Nat) : n < frameTop f ↔ ∃ r ∈ f, n < r.serial := by
  induction f with
  | nil => simp [frameTop]
  | cons r rest ih =>
    rw [frameTop, List.foldl_cons, Nat.zero_max, foldl_serial_max, lt_max_iff, ih]
    simp

/-! ### Start, stop and acknowledgment -/

/-- The gathering given up: its records put back, and the read dropped (R159). -/
theorem State.stopGathering_fields (s : State) : s.stopGathering = { s with
    port := s.dropUploadRead.port,
    ue := { s.ue with
      gathered := []
      sector := (match s.ue.gathered with | r :: _ => (r.sector, r.slot) | [] => (s.ue.sector, s.ue.slot)).1
      slot := (match s.ue.gathered with | r :: _ => (r.sector, r.slot) | [] => (s.ue.sector, s.ue.slot)).2 } } := by
  unfold State.stopGathering State.putBack
  cases hg : s.ue.gathered with
  | nil =>
    dsimp only
    rw [← hg]
    rfl
  | cons r rest => rfl

/-- With nothing gathered the gathering does not close; the engine waits at the end of the stream (R159). -/
theorem State.closeGathering_empty (h : s.ue.gathered = []) :
    s.closeGathering = { s with ue := { s.ue with waiting := s.uploadAtEnd } } := by
  unfold State.closeGathering
  dsimp only
  rw [if_neg (by simp [h])]
  rfl

theorem State.startUpload_eq (s : State) : s.startUpload = { s with
    port := s.dropUploadRead.port,
    ue := { s.ue with state := .streaming, sector := s.journal.tail, slot := 1, ready := none, window := [],
                      expiry := none, streak := 0, gathered := [],
                      waiting := decide (s.journal.tail = s.journal.head ∧ s.journal.headNext ≤ 1) },
    tl := { s.tl with tx := s.tl.tx.map Transmission.disown } } := by
  unfold State.startUpload
  rw [State.stopGathering_fields, State.closeGathering_empty rfl]
  have hend : (s.journal.tail == s.journal.head && decide (s.journal.headNext ≤ 1))
      = decide (s.journal.tail = s.journal.head ∧ s.journal.headNext ≤ 1) := by
    rw [Bool.decide_and]
    rfl
  rw [← hend]
  rfl

/-- Settles O57, command by command. -/
theorem uploadCommands : Obligations.UploadCommands := by
  intro tag s j u serials disowned
  refine ⟨fun haccepts => ?_, fun htakes => ?_, fun args hlen htakes => ?_⟩
  · intro row held broken
    refine ⟨fun hheld => ?_, fun hheld hbroken => ?_, fun hheld hbroken => ?_⟩
    · exact (haccepts.runs rfl).trans (congrArg Host.Outcome.next (if_pos hheld))
    · exact (haccepts.runs rfl).trans (congrArg Host.Outcome.next ((if_neg hheld).trans (if_pos hbroken)))
    · refine (haccepts.runs rfl).trans ((congrArg Host.Outcome.next ((if_neg hheld).trans (if_neg hbroken))).trans ?_)
      rw [State.startUpload_eq]
      rfl
  · intro p
    refine (htakes.runs rfl).trans ?_
    rw [State.stopUpload, State.stopGathering_fields]
    rfl
  · intro n row report
    have hlength : (args.length == 4) = true := by simp [hlen]
    refine ⟨fun hstale => ?_, fun hlow hhigh => ?_, fun hlow hhigh => ?_⟩
    · exact (htakes.runs hlength).trans (congrArg Host.Outcome.next (if_pos hstale))
    · exact (htakes.runs hlength).trans
        (congrArg Host.Outcome.next ((if_neg (Nat.not_lt.mpr hlow)).trans (if_pos hhigh)))
    · intro left v k
      have hleft : s.ue.window.filter (fun f => n < frameTop f) = left := by
        refine List.filter_congr fun f _ => ?_
        rw [Bool.eq_iff_iff, decide_eq_true_iff, lt_frameTop_iff, List.any_eq_true]
        simp only [decide_eq_true_eq]
      have hexpiry : (if left.length < s.ue.window.length then
          (if left = [] then none else some (s.tb.runClock + BitVec.ofNat 32 uploadTimeout)) else s.ue.expiry)
          = v.expiry := by
        have hle : left.length ≤ s.ue.window.length := List.length_filter_le _ _
        by_cases hall : left.length = s.ue.window.length
        · rw [if_neg (by omega)]
          exact (if_pos hall).symm
        · rw [if_pos (by omega)]
          exact (if_neg hall).symm
      have hack : s.acknowledge n = { s with ue := v, journal := k } := by
        simp only [State.acknowledge, hleft, hexpiry]
        rfl
      have htaken : s.takeFrame.acknowledge n = ({ s with ue := v, journal := k } : State).takeFrame := by
        rw [← hack]
        rfl
      refine (htakes.runs hlength).trans ((congrArg Host.Outcome.next
        ((if_neg (Nat.not_lt.mpr hlow)).trans (if_neg (Nat.not_lt.mpr hhigh)))).trans ?_)
      rw [htaken]
      rfl

/-! ### A link break -/

/-- The close of a gathering has nothing to do with the arbiter. -/
theorem State.closeGathering_withPort (p : StorePort) (s : State) :
    ({ s with port := p } : State).closeGathering = { s.closeGathering with port := p } := by
  have hend : ({ s with port := p } : State).uploadAtEnd = s.uploadAtEnd := rfl
  unfold State.closeGathering
  dsimp only
  rw [hend]
  split <;> rfl

/-- The rewind of the pointer has nothing to do with the arbiter. -/
theorem State.rewindPointer_withPort (p : StorePort) (s : State) :
    ({ s with port := p } : State).rewindPointer = { s.rewindPointer with port := p } := by
  unfold State.rewindPointer
  cases s.ue.rewindPos with
  | none => exact State.closeGathering_withPort p (s.giveUpReady.setUpload { s.giveUpReady.ue with window := [], expiry := none })
  | some q =>
    exact State.closeGathering_withPort p ((s.movePointer q).giveUpReady.setUpload
      { (s.movePointer q).giveUpReady.ue with window := [], expiry := none })

theorem State.breakUpload_ue (s : State) : s.breakUpload.ue = s.rewindUpload.ue := by
  have hbreak : s.breakUpload = { s.putBack.rewindPointer with port := s.putBack.leaveUploadRead.port } :=
    State.rewindPointer_withPort _ _
  have hrewind : s.rewindUpload = { s.putBack.rewindPointer with port := s.putBack.dropUploadRead.port } :=
    State.rewindPointer_withPort _ _
  rw [hbreak, hrewind]

theorem State.breakUpload_port (s : State) : s.breakUpload.port = s.leaveUploadRead.port := by
  have hbreak : s.breakUpload = { s.putBack.rewindPointer with port := s.putBack.leaveUploadRead.port } :=
    State.rewindPointer_withPort _ _
  rw [hbreak]
  simp only [State.leaveUploadRead, State.putBack_port]

/-- An event has nothing to do with the rate of the link and the frame being received. -/
theorem State.raise_untied (e : Event) (d : Word) (s : State) :
    ({ s.raise e d with tl := { (s.raise e d).tl with rate := none, rx := none } } : State)
      = ({ s with tl := { s.tl with rate := none, rx := none } } : State).raise e d := by
  unfold State.raise State.queueNotice
  dsimp only
  split
  · rfl
  · split
    · split <;> rfl
    · rfl

/-- The rate untied, and both frames on the line given up (R172). -/
def State.cutOff (s : State) : State := { s with tl := { s.tl with rate := none, rx := none, tx := none } }

/-- What a break makes of the frame in transmission (R172, R179). -/
theorem State.abandonTx_untied (s : State) :
    s.abandonTx.setTrunk { s.abandonTx.tl with rate := none, rx := none }
      = match s.tl.tx with | some x => s.cutOff.abandon x.kind | none => s.cutOff := by
  unfold State.abandonTx
  cases htx : s.tl.tx with
  | none =>
    have htl : ({ s.tl with rate := none, rx := none } : Trunk) = { s.tl with rate := none, rx := none, tx := none } :=
      congrArg (fun x => ({ s.tl with rate := none, rx := none, tx := x } : Trunk)) htx
    exact congrArg (fun l => ({ s with tl := l } : State)) htl
  | some x =>
    dsimp only
    cases x.kind with
    | reply b => rfl
    | notice => rfl
    | reading id => exact State.raise_untied _ _ _
    | upload f owned => rfl

theorem State.break_eq {r : State} (hr : (s.bump .linkBreaks).breakUpload = r) :
    s.break = if s.resetReplySending
      then (match r.tl.tx with | some x => r.cutOff.abandon x.kind | none => r.cutOff).commandReset
      else match r.tl.tx with | some x => r.cutOff.abandon x.kind | none => r.cutOff := by
  subst hr
  rw [← State.abandonTx_untied]
  rfl

/-! ### The scheduler -/

theorem State.uploadSent_eq (f : List UploadRecord) (owned : Bool) (s : State) :
    s.uploadSent f owned = ((({ s with ue := if owned then { s.ue with
        ceiling := f.foldl (fun m r => max m r.serial) s.ue.ceiling, ready := none, window := s.ue.window ++ [f],
        expiry := if s.ue.window = [] then some (s.tb.runClock + 4000) else s.ue.expiry }
      else { s.ue with ceiling := f.foldl (fun m r => max m r.serial) s.ue.ceiling } } : State).bump
        .uploadFrames).bump .uploadRecords f.length) := by
  rw [foldl_serial_max]
  cases owned <;> rfl

theorem State.transmitBegin (hpow : s.powered = true) (hrate : s.tl.rate ≠ none) (htx : s.tl.tx = none) :
    exec .transmitBegin s = .next (match s.nextFrame with
      | some (x, t) => s.setTrunk { t with tx := some x }
      | none => s) := by
  refine (live_powered hpow _).trans (congrArg Host.Outcome.next (if_pos ?_))
  simp [htx, Option.isSome_iff_ne_none.mpr hrate]

/-- Settles O59: the order of the scheduler, the end of a transmission, and a break by what was on the line. -/
theorem schedulerSendsInOrder : Obligations.SchedulerSendsInOrder := by
  intro s hpow
  refine ⟨fun code tag w body hlong hreply => ?_, fun hrate htx => ?_, fun k bytes htx => ?_, fun hrate => ?_⟩
  · refine (live_powered hpow _).trans ?_
    rw [hlong, hreply]
    rfl
  · intro sends
    have hbegin := State.transmitBegin hpow hrate htx
    refine ⟨fun r hreply => ?_, fun hreply => ⟨fun n rest hnotices => ?_, fun hnotices => ⟨fun f rest hlive => ?_,
      fun hlive => ⟨fun rs hready => ?_, fun hready => ?_⟩⟩⟩⟩
    · refine hbegin.trans ?_
      simp only [State.nextFrame, hreply]
      rfl
    · refine hbegin.trans ?_
      simp only [State.nextFrame, hreply, hnotices]
      cases n <;> rfl
    · refine hbegin.trans ?_
      simp only [State.nextFrame, hreply, hnotices, hlive]
      rfl
    · refine hbegin.trans ?_
      simp only [State.nextFrame, hreply, hnotices, hlive, hready, Option.map_some]
      rfl
    · refine hbegin.trans ?_
      simp only [State.nextFrame, hreply, hnotices, hlive, hready, Option.map_none]
  · intro sent
    have hend : exec .transmitEnd s = .next (sent.endTx k) := by
      refine (live_powered hpow _).trans ?_
      rw [htx]
      rfl
    refine ⟨fun hk => ?_, fun f owned hk => ?_⟩
    · rw [hend]
      rcases hk with rfl | rfl | ⟨id, rfl⟩ <;> rfl
    · subst hk
      rw [hend]
      exact congrArg (fun t : State => Host.Outcome.next t.pump) (State.uploadSent_eq f owned sent)
  · intro r cut row
    have hr : r = { s.bump .linkBreaks with
        ue := r.ue, port := r.port, tl := { s.tl with tx := s.tl.tx.map Transmission.disown } } :=
      State.breakUpload_eq (s.bump .linkBreaks)
    have hport : r.port = s.leaveUploadRead.port := State.breakUpload_port (s.bump .linkBreaks)
    have htx : r.tl.tx = s.tl.tx.map Transmission.disown := by rw [hr]
    have hrow : row = .next s.break.pump := by
      refine (live_powered hpow _).trans (congrArg Host.Outcome.next (if_pos ?_))
      exact Option.isSome_iff_ne_none.mpr hrate
    have hbreak := State.break_eq (s := s) (r := r) rfl
    refine ⟨⟨hr, fun k bytes => ?_, ?_, ?_, ?_, ?_, ?_, ?_, ?_, ?_⟩, fun hnone => ?_, fun k bytes hsome => ?_⟩
    · cases k <;> rfl
    · exact (State.breakUpload_ue _).trans (State.rewindUpload_ue_congr rfl rfl rfl)
    · rw [hr]
      rfl
    · rw [hr]
      rfl
    · rw [hr]
      rfl
    · rw [hport]
      simp only [State.leaveUploadRead, List.map_map]
      exact List.map_congr_left fun q _ => by simp only [Function.comp]; split <;> rfl
    · rw [hport]
      simp only [State.leaveUploadRead, Option.map_map]
      exact congrArg (fun f => s.port.active.map f) (funext fun a => by simp only [Function.comp]; split <;> rfl)
    · rw [hport]
      rfl
    · rw [hport]
      rfl
    · have hreset : s.resetReplySending = false := by simp only [State.resetReplySending, hnone]
      rw [hrow, hbreak, htx, hreset, hnone]
      rfl
    · have hreset : s.resetReplySending = (k == .reply true) := by simp only [State.resetReplySending, hsome]
      rw [htx, hsome, hreset] at hbreak
      refine ⟨?_, ?_, ?_, ?_, ?_⟩
      · rintro rfl
        rw [hrow, hbreak]
        rfl
      · rintro rfl
        rw [hrow, hbreak]
        rfl
      · rintro rfl
        rw [hrow, hbreak]
        rfl
      · rintro id rfl
        rw [hrow, hbreak]
        rfl
      · rintro f owned rfl
        rw [hrow, hbreak]
        rfl

end Sys2Proof.Machine
end

section
/-! SUPPORT. The upload engine's reads, the close of the gathering, the rewind, and its timeout (R143, R158, R159, R164,
R166). -/

namespace Sys2Proof.Machine

variable {s : State}

/-- A JOURNAL ERASE is at its work exactly where it holds the command unit with its reply not yet ready (R154). -/
theorem State.erasing_iff : s.erasing = true ↔ ∃ (tag : Byte) (w : Work), s.tl.longOp = some ⟨0x72#8, tag, w, none⟩ := by
  unfold State.erasing
  rcases s.tl.longOp with _ | ⟨code, tag, w, reply⟩
  · simp
  · cases reply with
    | none =>
      simp only [Option.isNone_none, Bool.and_true, beq_iff_eq]
      exact ⟨fun h => ⟨tag, w, by rw [h]⟩, fun ⟨_, _, h⟩ => by cases h; rfl⟩
    | some r => simp

theorem State.erasing_eq_false_iff :
    s.erasing = false ↔ ¬ ∃ (tag : Byte) (w : Work), s.tl.longOp = some ⟨0x72#8, tag, w, none⟩ := by
  rw [← State.erasing_iff, Bool.not_eq_true]

/-- The end of the stream in numbers (R158). -/
theorem State.uploadAtEnd_eq (s : State) :
    s.uploadAtEnd = decide (s.ue.sector = s.journal.head ∧ s.journal.headNext ≤ s.ue.slot) := by
  rw [Bool.decide_and]
  rfl

/-! ### The rewind -/

/-- Where the gathering goes back to (R159). -/
def UploadEngine.gatheredFrom (u : UploadEngine) : Nat × Nat :=
  match u.gathered with
  | r :: _ => (r.sector, r.slot)
  | [] => (u.sector, u.slot)

/-- The rewind in one record: window, ready frame, expiry and gathering given up, and the pointer at the rewind position
(R164). -/
theorem State.rewindUpload_eq (s : State) : ∃ waits : Bool, s.rewindUpload = { s with
    port := s.dropUploadRead.port,
    ue := { s.ue with
      sector := (s.ue.rewindPos.getD s.ue.gatheredFrom).1, slot := (s.ue.rewindPos.getD s.ue.gatheredFrom).2,
      window := [], ready := none, expiry := none, gathered := [], waiting := waits },
    tl := { s.tl with tx := s.tl.tx.map Transmission.disown } } := by
  have hstop : s.stopGathering = { s with
      port := s.dropUploadRead.port,
      ue := { s.ue with gathered := [], sector := s.ue.gatheredFrom.1, slot := s.ue.gatheredFrom.2 } } :=
    s.stopGathering_fields
  have hpos : s.stopGathering.ue.rewindPos = s.ue.rewindPos := by
    rw [hstop]
    rfl
  unfold State.rewindUpload State.rewindPointer
  rw [hpos, hstop]
  cases s.ue.rewindPos with
  | none => exact ⟨_, State.closeGathering_empty rfl⟩
  | some q => exact ⟨_, State.closeGathering_empty rfl⟩

theorem UploadEngine.rewindPos_some {u : UploadEngine} {pre post : List UploadRecord} {r : UploadRecord}
    (htaken : u.window.flatten ++ u.ready.getD [] = pre ++ r :: post) (habove : u.lastAck < r.serial)
    (hpre : ∀ q ∈ pre, q.serial ≤ u.lastAck) : u.rewindPos = some (r.sector, r.slot) := by
  have hfind : (u.window.flatten ++ u.ready.getD []).find? (fun r => u.lastAck < r.serial) = some r := by
    refine List.find?_eq_some_iff_append.mpr ⟨decide_eq_true habove, pre, post, htaken, fun q hq => ?_⟩
    simpa using hpre q hq
  rw [UploadEngine.rewindPos, hfind]
  rfl

theorem UploadEngine.rewindPos_none {u : UploadEngine}
    (h : ∀ q ∈ u.window.flatten ++ u.ready.getD [], q.serial ≤ u.lastAck) : u.rewindPos = none := by
  have hfind : (u.window.flatten ++ u.ready.getD []).find? (fun r => u.lastAck < r.serial) = none :=
    List.find?_eq_none.mpr fun q hq => by simpa using h q hq
  rw [UploadEngine.rewindPos, hfind]
  rfl

/-! ### The rows -/

theorem State.inPort.exec_uploadReadDone (hpow : s.powered = true) {a len : Nat} (hport : s.inPort .upload (.read a len)) :
    exec .uploadReadDone s = .next ((({ s with port := s.port.freed } : State).uploadAct
      ({ s with port := s.port.freed } : State).uploadAnswer).pump) := by
  have hsettled : s.settled = s := hport.settled (by simp) (by simp) (by simp)
  show execUploadReadDone s = _
  rw [execUploadReadDone, live_powered hpow, hsettled, hport.inFlight]
  dsimp only
  rw [hport.endOp_read]

theorem State.uploadAnswer_outside (h : s.journal.outside s.ue.sector s.ue.slot = true) : s.uploadAnswer = .outside :=
  if_pos h

theorem State.uploadAnswer_hole (h : s.journal.outside s.ue.sector s.ue.slot = false) (hhole : s.isHole s.ue.sector = true) :
    s.uploadAnswer = .hole := by
  simp only [State.uploadAnswer, h, hhole, Bool.false_eq_true, if_false, if_true]

theorem State.uploadAnswer_record (h : s.journal.outside s.ue.sector s.ue.slot = false) (hhole : s.isHole s.ue.sector = false)
    {bs : List Byte} (hjudged : judgeJournal (s.store.slot s.ue.sector s.ue.slot) = .valid bs) : s.uploadAnswer = .record bs := by
  simp only [State.uploadAnswer, h, hhole, hjudged, Bool.false_eq_true, if_false]

theorem State.uploadAnswer_other (h : s.journal.outside s.ue.sector s.ue.slot = false) (hhole : s.isHole s.ue.sector = false)
    (hjudged : ∀ bs, judgeJournal (s.store.slot s.ue.sector s.ue.slot) ≠ .valid bs) : s.uploadAnswer = .tornOrErased := by
  unfold State.uploadAnswer
  rw [h, hhole]
  rw [if_neg (by simp), if_neg (by simp)]
  split
  next bs hbs => exact absurd hbs (hjudged bs)
  next => rfl

theorem State.eligible_iff (bs : List Byte) : s.eligible bs = true ↔ uploaded bs = false ∧ s.ue.lastAck < recSerial bs := by
  simp [State.eligible]

/-- Settles O56: the next read, its answers, the close of the gathering, the rewind and the timeout. -/
theorem uploadReadsAndTimeouts : Obligations.UploadReadsAndTimeouts := by
  intro s hpow j u freed pointAt
  refine ⟨?reads, fun a len hport => ?answers, fun a len hport => ?gone, fun hown hother => ?none, ?close, ?rewind,
    fun e hstate hwindow hexpiry hreached => ?timeout⟩
  case reads =>
    intro reads
    have hreads : (s.ue.state = .streaming ∧ s.tl.rate.isSome = true ∧ s.ue.ready = none ∧ s.ue.window.length < windowRoom
        ∧ s.erasing = false ∧ s.ue.waiting = false ∧ s.port.outstanding .upload = false) ↔ reads := by
      rw [State.erasing_eq_false_iff, Option.isSome_iff_ne_none]
      exact Iff.rfl
    refine ⟨fun hno => if_neg (mt hreads.mp hno), fun hyes hstore => ?_, fun hyes hstore => ?_⟩
    · exact (if_pos (hreads.mpr hyes)).trans (if_neg (by rw [hstore]; simp))
    · exact (if_pos (hreads.mpr hyes)).trans (if_pos hstore)
  case answers =>
    intro row judged on
    have hrow : row = .next ((freed.uploadAct freed.uploadAnswer).pump) := hport.exec_uploadReadDone hpow
    refine ⟨fun hout => ?_, fun hin hhole => ?_, fun hin hhole => ⟨fun hjudged => ?_, fun bs hjudged => ⟨fun hnot => ?_,
      fun hmark habove => ?_⟩⟩⟩
    · rw [hrow, State.uploadAnswer_outside (s := freed) hout]
      have hend : freed.uploadAtEnd = true ↔ s.ue.sector = s.journal.head ∧ s.journal.headNext ≤ s.ue.slot := by
        rw [State.uploadAtEnd_eq, decide_eq_true_iff]
      exact congrArg (fun t : State => Host.Outcome.next t.closeGathering.pump) (if_congr hend rfl rfl)
    · rw [hrow, State.uploadAnswer_hole (s := freed) hin hhole]
      rfl
    · rw [hrow, State.uploadAnswer_other (s := freed) hin hhole hjudged]
      rfl
    · have hno : freed.eligible bs = false := Bool.eq_false_iff.mpr fun h => by
        obtain ⟨hmark, habove⟩ := (State.eligible_iff bs).mp h
        rcases hnot with h' | h'
        · rw [hmark] at h'
          cases h'
        · exact absurd habove (Nat.not_lt.mpr h')
      rw [hrow, State.uploadAnswer_record (s := freed) hin hhole hjudged, State.uploadAct, hno]
      rfl
    · have hyes : freed.eligible bs = true := (State.eligible_iff bs).mpr ⟨hmark, habove⟩
      rw [hrow, State.uploadAnswer_record (s := freed) hin hhole hjudged, State.uploadAct, hyes]
      rfl
  case gone =>
    have hsettled : s.settled = s := hport.settled (by simp) (by simp) (by simp)
    show execUploadReadDone s = _
    rw [execUploadReadDone, live_powered hpow, hsettled, hport.inFlight]
    dsimp only
    rw [hport.endOp_read]
  case none =>
    show execUploadReadDone s = _
    rw [execUploadReadDone, live_powered hpow, hown.settled]
    cases hact : s.port.active with
    | none => simp only [State.inFlight, hact, Option.map_none]
    | some a =>
      obtain ⟨hread, hgone⟩ := hother a hact
      simp only [State.inFlight, hact, Option.map_some]
      split
      next h => exact absurd (Option.some.inj h) hread
      next h => exact absurd (Option.some.inj h) hgone
      next => rfl
  case close =>
    intro atEnd
    have hend : s.uploadAtEnd = atEnd := s.uploadAtEnd_eq
    unfold State.closeGathering
    rw [hend]
    refine ⟨fun h => if_pos h, fun hfew hmore => if_neg ?_⟩
    rintro (h | ⟨h, hsome⟩)
    · exact absurd h (Nat.not_le.mpr hfew)
    · rcases hmore with h' | h'
      · rw [h'] at h
        cases h
      · exact hsome h'
  case rewind =>
    intro t taken
    obtain ⟨waits, ht⟩ := s.rewindUpload_eq
    change t = _ at ht
    rw [ht]
    refine ⟨rfl, rfl, rfl, rfl, rfl, rfl, rfl, rfl, rfl, fun pre post r htaken habove hpre => ?_, fun hall =>
      ⟨fun r rest hgathered => ?_, fun hgathered => ?_⟩⟩
    · rw [UploadEngine.rewindPos_some htaken habove hpre]
      exact ⟨rfl, rfl⟩
    · rw [UploadEngine.rewindPos_none hall, Option.getD_none, UploadEngine.gatheredFrom, show s.ue.gathered = r :: rest from hgathered]
      exact ⟨rfl, rfl⟩
    · rw [UploadEngine.rewindPos_none hall, Option.getD_none, UploadEngine.gatheredFrom, show s.ue.gathered = [] from hgathered]
      exact ⟨rfl, rfl⟩
  case timeout =>
    intro r t
    have hdue : s.uploadTimeoutDue = true := by
      have hover : reached s.tb.runClock e = true := decide_eq_true hreached
      simp [State.uploadTimeoutDue, show s.ue.state = .streaming from hstate, show s.ue.window ≠ [] from hwindow,
        show s.ue.expiry = some e from hexpiry, hover]
    refine (live_powered hpow _).trans ?_
    rw [if_pos hdue]
    obtain ⟨waits, hrewind⟩ := s.rewindUpload_eq
    have hstreak : r.ue.streak = s.ue.streak := by
      show s.rewindUpload.ue.streak = _
      rw [hrewind]
    have ht : r.setUpload { r.ue with streak := r.ue.streak + 1 } = t := by
      rw [hstreak]
      rfl
    have hthree : 3 ≤ t.ue.streak ↔ 2 ≤ u.streak := by
      show 3 ≤ u.streak + 1 ↔ _
      omega
    have hrun : s.timeoutRewind = if 3 ≤ t.ue.streak then t.stallUpload 0#32 else t := by
      rw [← ht]
      rfl
    rw [hrun, if_congr hthree rfl rfl]
    rfl

end Sys2Proof.Machine
end

section
/-! SUPPORT. The mark walk and its cursor (R145), and the appends, openings and reclaims of the journal (R140 to R142, R146,
R148). -/

namespace Sys2Proof.Machine

variable {s : State}

/-! ### Requests -/

/-- A request to a store that has not failed joins the waiting ones (R130). -/
theorem State.request_waits (h : s.storeFailed = false) (c : Client) (op : StoreOp) :
    s.request c op = { s with port := { s.port with waiting := s.port.waiting ++ [⟨c, op⟩] } } :=
  if_neg (by rw [h]; simp)

theorem State.inPort.markInFlight (h : s.inPort .mark op) (program : Bool) :
    s.markInFlight program = (op.isProgram == program) := by
  obtain ⟨⟨since, spent, hact⟩, -⟩ := h
  simp only [State.markInFlight, hact, beq_self_eq_true, Bool.true_and]

/-! ### The cursor past holes -/

theorem State.skipHoles_stop {p : Nat × Nat} (h : p.1 = s.journal.head ∨ s.isHole p.1 = false) (n : Nat) :
    s.skipHoles n p = p := by
  cases n with
  | zero => rfl
  | succ n =>
    refine if_neg ?_
    rintro ⟨hhead, hhole⟩
    rcases h with h | h
    · exact hhead h
    · rw [h] at hhole
      cases hhole

/-- The sector of the ring `k` after a sector (R138). -/
def ringSector (sec k : Nat) : Nat := (sec - 18 + k) % 494 + 18

theorem nextSector_ringSector (sec k : Nat) : nextSector (ringSector sec k) = ringSector sec (k + 1) := by
  show (if (sec - 18 + k) % 494 + 18 = 511 then 18 else (sec - 18 + k) % 494 + 18 + 1) = (sec - 18 + (k + 1)) % 494 + 18
  split <;> omega

theorem ringSector_zero {sec : Nat} (hlow : 18 ≤ sec) (hhigh : sec ≤ 511) : ringSector sec 0 = sec := by
  unfold ringSector
  omega

/-- Holes are passed whole, sector after sector, up to the first that is none (R145). -/
theorem State.skipHoles_ring {sec k : Nat} (hstop : ringSector sec k = s.journal.head ∨ s.isHole (ringSector sec k) = false)
    {d n i x : Nat} (hd : i + (d + 1) = k) (hn : d + 1 ≤ n)
    (hholes : ∀ m, i ≤ m → m < k → ringSector sec m ≠ s.journal.head ∧ s.isHole (ringSector sec m) = true) :
    s.skipHoles n (ringSector sec i, x) = (ringSector sec k, 1) := by
  induction d generalizing n i x with
  | zero =>
    obtain ⟨n, rfl⟩ : ∃ n', n = n' + 1 := ⟨n - 1, by omega⟩
    subst hd
    refine (if_pos (hholes i (Nat.le_refl i) (by omega))).trans ?_
    rw [nextSector_ringSector]
    exact State.skipHoles_stop hstop n
  | succ d ih =>
    obtain ⟨n, rfl⟩ : ∃ n', n = n' + 1 := ⟨n - 1, by omega⟩
    refine (if_pos (hholes i (Nat.le_refl i) (by omega))).trans ?_
    rw [nextSector_ringSector]
    exact ih (by omega) (by omega) fun m hm hk => hholes m (by omega) hk

theorem Journal.after_inside {j : Journal} {sec slot : Nat} (h : slot < 2047) : j.after sec slot = (sec, slot + 1) := if_pos h

theorem Journal.after_head {j : Journal} {sec slot : Nat} (h : 2047 ≤ slot) (hhead : sec = j.head) :
    j.after sec slot = (sec, 2048) := (if_neg (Nat.not_lt.mpr h)).trans (if_pos hhead)

theorem Journal.after_last {j : Journal} {sec slot : Nat} (h : 2047 ≤ slot) (hhead : sec ≠ j.head) :
    j.after sec slot = (nextSector sec, 1) := (if_neg (Nat.not_lt.mpr h)).trans (if_neg hhead)

theorem State.moveCursor_to {p q : Nat × Nat} (hafter : s.journal.after s.journal.cursorSector s.journal.cursorSlot = p)
    (hskip : s.skipHoles 494 p = q) : s.moveCursor =
      ({ s with journal := { s.journal with cursorSector := q.1, cursorSlot := q.2 } } : State).testReclaim := by
  subst hafter hskip
  rfl

/-! ### The mark walk -/

theorem State.markFound_valid {bs : List Byte} (h : judgeJournal s.cursorSlotBytes = .valid bs) :
    s.markFound = if s.journal.markTarget < recSerial bs then s.setJournal { s.journal with markBlocked := true }
      else if uploaded bs then s.markTo (recSerial bs)
      else (s.setJournal { s.journal with marking := some (recSerial bs) }).request .mark (.program s.markAddr [0#8]) := by
  simp only [State.markFound, h]

theorem State.markFound_other (h : ∀ bs, judgeJournal s.cursorSlotBytes ≠ .valid bs) : s.markFound = s.moveCursor := by
  unfold State.markFound
  split
  next bs hbs => exact absurd hbs (h bs)
  next => rfl

/-- Settles O53: the row of the read, the row of the program, the next read, and the cursor's move. -/
theorem markWalkFollowsTheTarget : Obligations.MarkWalkFollowsTheTarget := by
  intro s hpow j freed
  refine ⟨fun a len hport => ?read, fun a n bs hport hmarking => ?program, ?walks, ?cursor⟩
  case read =>
    have hsettled : s.settled = s := hport.settled (by simp) (by simp) (by simp)
    have hflight : s.markInFlight false = true := hport.markInFlight false
    have hrow : exec .markSlotReadDone s = .next freed.markFound.pump := by
      show execMarkSlotReadDone s = _
      rw [execMarkSlotReadDone, live_powered hpow, hsettled, hflight, if_pos rfl, hport.endOp_read]
    refine ⟨fun bs hjudged => ?_, fun hjudged => by rw [hrow, State.markFound_other (s := freed) hjudged]⟩
    rw [hrow, State.markFound_valid (s := freed) hjudged]
    refine ⟨fun habove => ?_, fun hbelow hmark => ?_, fun hbelow hmark => ?_⟩
    · exact congrArg (fun t : State => Host.Outcome.next t.pump) (if_pos habove)
    · exact congrArg (fun t : State => Host.Outcome.next t.pump)
        ((if_neg (Nat.not_lt.mpr hbelow)).trans (if_pos hmark))
    · exact congrArg (fun t : State => Host.Outcome.next t.pump)
        ((if_neg (Nat.not_lt.mpr hbelow)).trans (if_neg (by rw [hmark]; simp)))
  case program =>
    have hsettled : s.settled = s := hport.settled (by simp) (by simp) (by simp)
    have hflight : s.markInFlight true = true := hport.markInFlight true
    show execMarkProgramDone s = _
    rw [execMarkProgramDone, live_powered hpow, hsettled, hflight, if_pos rfl, hport.endOp]
    have hserial : s.journal.marking.getD s.journal.markDone = n := by rw [show s.journal.marking = some n from hmarking]; rfl
    rw [← hserial]
    rfl
  case walks =>
    intro walks
    have hwalks : (s.storeFailed = false ∧ s.erasing = false ∧ (s.journal.state = .ready ∨ s.journal.state = .full)
        ∧ s.port.outstanding .mark = false ∧ s.journal.markBlocked = false
        ∧ ¬ (s.journal.cursorSector = s.journal.head ∧ s.journal.cursorSlot = s.journal.headNext)) ↔ walks := by
      rw [State.erasing_eq_false_iff]
    refine ⟨fun hno => if_neg (mt hwalks.mp hno), fun hyes => ?_⟩
    exact (if_pos (hwalks.mpr hyes)).trans (State.request_waits hyes.1 _ _)
  case cursor =>
    intro cursorTo next
    refine ⟨fun hslot hstay => ?_, fun hslot hhead => ?_, fun hslot hhead hstay => ?_, ?_⟩
    · exact State.moveCursor_to (Journal.after_inside hslot) (State.skipHoles_stop hstay _)
    · exact State.moveCursor_to (Journal.after_head hslot hhead) (State.skipHoles_stop (.inl hhead) _)
    · exact State.moveCursor_to (Journal.after_last hslot hhead) (State.skipHoles_stop hstay _)
    · intro ring first k hlow hhigh hhead hk hbound hholes hstop
      by_cases hslot : j.cursorSlot < 2047
      · have hfirst : first = 0 := if_pos hslot
        have hskip : s.skipHoles 494 (ringSector j.cursorSector 0, j.cursorSlot + 1) = (ring k, 1) :=
          State.skipHoles_ring (d := k - 1) hstop (by omega) (by omega) fun m hm hmk => hholes m (by omega) hmk
        rw [ringSector_zero hlow hhigh] at hskip
        exact State.moveCursor_to (Journal.after_inside hslot) hskip
      · have hfirst : first = 1 := if_neg hslot
        have hlast : 2047 ≤ j.cursorSlot := Nat.not_lt.mp hslot
        have hafter : j.after j.cursorSector j.cursorSlot = (ringSector j.cursorSector 1, 1) := by
          rw [Journal.after_last hlast (hhead hlast), ← nextSector_ringSector, ringSector_zero hlow hhigh]
        refine State.moveCursor_to (q := (ring k, 1)) hafter ?_
        obtain rfl | hmore : k = 1 ∨ 1 < k := by omega
        · exact State.skipHoles_stop hstop _
        · exact State.skipHoles_ring (d := k - 2) hstop (by omega) (by omega) fun m hm hmk => hholes m (by omega) hmk

/-! ### Appends, openings and reclaims -/

theorem State.headSequence_of_valid {q f : Nat} (h : judgeHeader (s.store.slot s.journal.head 0) = .valid q f) :
    s.headSequence = q := by
  simp only [State.headSequence, h]

/-- The end of an operation of an opening that has no row of its own (log 2). -/
theorem State.step_opening (hpow : s.powered = true) (hpending : s.pending = []) {t : State} (h : s.advance? = some t) :
    step s = .next t := by
  unfold step
  rw [hpending]
  dsimp only
  rw [State.idle, if_pos hpow, h]
  rfl

theorem State.inPort.step_openingRead (h : s.inPort .opening (.read a len)) (hpow : s.powered = true)
    (hpending : s.pending = []) :
    step s = .next (if s.endOp.erasing then s.endOp else s.endOp.request .opening s.endOp.afterOpenRead).pump := by
  obtain ⟨⟨since, spent, hact⟩, -⟩ := h
  exact State.step_opening hpow hpending (by simp only [State.advance?, hact])

theorem State.inPort.step_openingErase (h : s.inPort .opening (.erase sec)) (hpow : s.powered = true)
    (hpending : s.pending = []) :
    step s = .next (if s.endOp.erasing then s.endOp else s.endOp.request .opening s.endOp.openProgram).pump := by
  obtain ⟨⟨since, spent, hact⟩, -⟩ := h
  exact State.step_opening hpow hpending (by simp only [State.advance?, hact])

/-- The link once a flush has counted a record of its own that was programmed (R108). -/
def Trunk.countFlushed (l : Trunk) (q : QueuedRecord) : Trunk :=
  if q.flush then (match l.longOp with
    | some ⟨code, tag, .flush c r o p u, reply⟩ => { l with longOp := some ⟨code, tag, .flush c r o (p + 1) u, reply⟩ }
    | _ => l) else l

theorem State.countFlushed_eq (q : QueuedRecord) (s : State) :
    s.countFlushed q = { s with tl := s.tl.countFlushed q } := by
  unfold State.countFlushed Trunk.countFlushed State.work State.setWork
  rcases hlong : s.tl.longOp with _ | ⟨code, tag, w, reply⟩
  · simp
  · cases hflush : q.flush <;> cases w <;> simp

/-- The record programmed has left the queue (R140). -/
def State.appended (q : QueuedRecord) (rest : List QueuedRecord) (s : State) : State :=
  ({ s with tl := s.tl.countFlushed q, journal := { s.journal with queue := rest, headNext := s.journal.headNext + 1 },
            ue := { s.ue with waiting := false } } : State).bump .journalAppends

theorem State.appendDone_eq {q : QueuedRecord} {rest : List QueuedRecord} (h : s.journal.queue = q :: rest) :
    s.appendDone = if 2048 ≤ s.journal.headNext + 1 ∧ s.journal.ahead = 0 then (s.appended q rest).journalFull
      else s.appended q rest := by
  unfold State.appendDone
  rw [h]
  dsimp only
  rw [State.countFlushed_eq]
  rfl

theorem State.sectorOpened_eq (s : State) : s.sectorOpened = { s with
    journal := { s.journal with
      head := nextSector s.journal.head, headNext := 1, ahead := s.journal.ahead - 1,
      cursorSector := if s.journal.cursorSector = s.journal.head ∧ s.journal.cursorSlot = 2048
        then nextSector s.journal.head else s.journal.cursorSector,
      cursorSlot := if s.journal.cursorSector = s.journal.head ∧ s.journal.cursorSlot = 2048
        then 1 else s.journal.cursorSlot },
    ue := { s.ue with
      sector := if s.ue.sector = s.journal.head ∧ s.ue.slot = 2048 then nextSector s.journal.head else s.ue.sector,
      slot := if s.ue.sector = s.journal.head ∧ s.ue.slot = 2048 then 1 else s.ue.slot,
      waiting := false } } := by
  unfold State.sectorOpened
  simp only [apply_ite Prod.fst, apply_ite Prod.snd]

theorem State.tailMarked_iff :
    s.tailMarked = true ↔ s.journal.cursorSector ≠ s.journal.tail ∨ s.isHole s.journal.tail = true := by
  simp [State.tailMarked]

/-- Settles O52: what the queue asks for, the steps of an opening, the three rows, and the two tests. -/
theorem appendsOpeningsAndReclaims : Obligations.AppendsOpeningsAndReclaims := by
  intro s hpow j next held asks
  have herasing : s.erasing = false ↔ ¬ held := State.erasing_eq_false_iff
  refine ⟨fun hno => ?_, fun hready hstore hheld q rest hqueue => ?wants,
    fun hpending => ⟨fun a len q f hport hjudged => ?opensRead, fun sec q f hport => ?opensErase⟩,
    fun a bs q rest hport hqueue => ?append, fun a bs hport => ?opened, fun sec hport => ?reclaim, ?_, ?_⟩
  · unfold State.wantAppend
    split
    next h =>
      obtain ⟨hready, hstore, hnot⟩ := h
      have hempty : s.journal.queue = [] := by
        rcases hno with h | h | h | h
        · exact absurd hready h
        · rw [hstore] at h
          cases h
        · exact absurd h (herasing.mp hnot)
        · exact h
      rw [hempty]
    next => rfl
  case wants =>
    have hwant : s.wantAppend = if s.journal.headNext ≤ 2047 then
        if s.port.outstanding .append then s
        else s.request .append (.program (slotAddr s.journal.head s.journal.headNext) (recordBytes q.reading 0xFF#8))
      else if 0 < s.journal.ahead ∧ s.port.outstanding .opening = false then s.request .opening s.openRead
      else s := by
      unfold State.wantAppend
      rw [if_pos ⟨hready, hstore, herasing.mpr hheld⟩, show s.journal.queue = q :: rest from hqueue]
    rw [State.request_waits hstore, State.request_waits hstore] at hwant
    exact ⟨fun hroom => hwant.trans (if_pos hroom), fun hfull => hwant.trans (if_neg (Nat.not_le.mpr hfull))⟩
  case opensRead =>
    intro freed
    have hstep := hport.step_openingRead hpow hpending
    rw [hport.endOp_read] at hstep
    refine ⟨fun hheld => ?_, fun hheld => ?_⟩
    · exact hstep.trans (congrArg (fun t : State => Host.Outcome.next t.pump) (if_pos (State.erasing_iff.mpr hheld)))
    · have hnot : ¬ freed.erasing = true := mt State.erasing_iff.mp hheld
      refine hstep.trans (congrArg (fun t : State => Host.Outcome.next t.pump) ((if_neg hnot).trans ?_))
      have hprogram : freed.openProgram = .program (next j.head * 65536) (sectorHeaderBytes (q + 1) j.openSerial) := by
        unfold State.openProgram
        rw [State.headSequence_of_valid (s := freed) hjudged]
        rfl
      refine congrArg (freed.request .opening) ?_
      unfold State.afterOpenRead
      rw [hprogram]
      rfl
  case opensErase =>
    intro t hjudged
    have hstep := hport.step_openingErase hpow hpending
    rw [hport.endOp] at hstep
    refine ⟨fun hheld => ?_, fun hheld => ?_⟩
    · exact hstep.trans (congrArg (fun t : State => Host.Outcome.next t.pump) (if_pos (State.erasing_iff.mpr hheld)))
    · have hnot : ¬ t.erasing = true := mt State.erasing_iff.mp hheld
      refine hstep.trans (congrArg (fun t : State => Host.Outcome.next t.pump) ((if_neg hnot).trans ?_))
      have hprogram : t.openProgram = .program (next j.head * 65536) (sectorHeaderBytes (q + 1) j.openSerial) := by
        unfold State.openProgram
        rw [State.headSequence_of_valid (s := t) hjudged]
        rfl
      exact congrArg (t.request .opening) hprogram
  case append =>
    intro tl t
    have hsettled : s.settled = s := hport.settled (by simp) (by simp) (by simp)
    have hrow : exec .appendProgramDone s = .next (if 2048 ≤ j.headNext + 1 ∧ j.ahead = 0 then t.journalFull else t).pump := by
      show execAppendProgramDone s = _
      rw [execAppendProgramDone, live_powered hpow, hsettled, hport.inFlight, if_pos rfl, hport.endOp,
        State.appendDone_eq (s := { s with store := _, port := s.port.freed }) hqueue]
      rfl
    refine ⟨fun hmore => ?_, fun hslots hahead => ?_⟩
    · rw [hrow, if_neg (by omega)]
    · intro full dropped
      rw [hrow, if_pos ⟨hslots, hahead⟩]
      have hdropped : full.discardQueue = dropped := by
        cases rest with
        | nil => exact State.discardQueue_none rfl
        | cons r rs => rfl
      show Host.Outcome.next ((full.discardQueue.raise .journalFull (BitVec.ofNat 32 j.head)).pump) = _
      rw [hdropped]
  case opened =>
    intro h t
    have hsettled : s.settled = s := hport.settled_opening
    have hprogram : s.openingProgram = true := by
      obtain ⟨⟨since, spent, hact⟩, -⟩ := hport
      simp only [State.openingProgram, hact]
      rfl
    show execJournalSectorOpened s = _
    rw [execJournalSectorOpened, live_powered hpow, hsettled, hprogram, if_pos rfl, hport.endOp]
    have ht : ({ s with store := (StoreOp.program a bs).apply s.store, port := s.port.freed } : State).sectorOpened = t :=
      State.sectorOpened_eq _
    unfold State.openingDone
    rw [ht]
  case reclaim =>
    have hsettled : s.settled = s := hport.settled (by simp) (by simp) (by simp)
    show execReclaimEraseDone s = _
    rw [execReclaimEraseDone, live_powered hpow, hsettled, hport.inFlight, if_pos rfl, hport.endOp]
    rfl
  · exact if_congr (and_congr_right' (and_congr_right' (and_congr_left' State.tailMarked_iff))) rfl rfl
  · have hmarked : s.tailMarked = false ↔ s.journal.cursorSector = s.journal.tail ∧ s.isHole s.journal.tail = false := by
      simp [State.tailMarked]
    exact if_congr (and_congr_right' hmarked) rfl rfl

end Sys2Proof.Machine
end

section
/-! SUPPORT. CONFIG SAVE, JOURNAL STATUS and JOURNAL ERASE (R136, R153, R154). -/

namespace Sys2Proof.Machine

variable {s : State} {code tag : Byte} {w : Work}

/-- Every record is uploaded, in the words of R154. -/
theorem State.allUploaded_iff : s.allUploaded = true ↔ s.journal.cursorSector = s.journal.head
    ∧ s.journal.cursorSlot = s.journal.headNext ∧ ¬ ∃ (a spent : Nat) (bs : List Byte) (since : Word),
      s.port.active = some ⟨.mark, .program a bs, since, spent⟩ := by
  have hmark : s.markInFlight true = true ↔ ∃ (a spent : Nat) (bs : List Byte) (since : Word),
      s.port.active = some ⟨.mark, .program a bs, since, spent⟩ := by
    unfold State.markInFlight
    rcases s.port.active with _ | ⟨client, op, since, spent⟩
    · simp
    · cases op <;> simp [StoreOp.isProgram]
  rw [← hmark]
  simp [State.allUploaded, and_assoc]

/-- The link of a long operation that stays at its work. -/
theorem State.working.workOn (h : s.working code tag w) : s.tl.workOn code tag w = s.tl := by
  unfold Trunk.workOn
  rw [← h.2]

/-- The work moved on, with the rest of the state moved on too. -/
theorem State.working.setWork (h : s.working code tag w) {t : State} (ht : t.tl = s.tl) (w' : Work) :
    t.setWork w' = { t with tl := s.tl.workOn code tag w' } := by
  rw [State.setWork_eq (s := t) (by rw [ht]; exact h.2), ht]
  rfl

theorem State.journalReport_eq (s : State) : s.journalReport =
    [byteOf s.journal.state.code, boolByte s.storeFailed] ++ beBytes 2 s.journal.tail ++ beBytes 2 s.journal.head
      ++ beBytes 2 s.journal.headNext ++ beBytes 2 s.journal.ahead ++ beBytes 2 (s.journal.span.countP s.isHole)
      ++ beBytes 4 s.journal.nextSerial ++ beBytes 4 s.journal.markDone ++ beBytes 4 s.journal.markTarget
      ++ beBytes 2 s.journal.cursorSector ++ beBytes 2 s.journal.cursorSlot
      ++ [byteOf s.journal.queue.length, boolByte (s.port.outstanding .reclaim), boolByte s.port.suspended.isSome]
      ++ beBytes 4 s.journal.torn ++ beBytes 4 s.journal.uncertain ++ beBytes 4 s.journal.discarded
      ++ (match s.journal.discardedRange with
        | some (low, high) => beBytes 4 low ++ beBytes 4 high
        | none => List.replicate 8 0xFF#8) := by
  have hrange : s.journal.discardedBytes = match s.journal.discardedRange with
      | some (low, high) => beBytes 4 low ++ beBytes 4 high
      | none => List.replicate 8 0xFF#8 := by
    unfold Journal.discardedBytes
    cases s.journal.discardedRange <;> rfl
  rw [← hrange]
  simp only [State.journalReport, State.holes, serialBytes, List.append_assoc, List.cons_append, List.nil_append]

theorem Client.heldByErase_eq (c : Client) : (!c.heldByErase) = (c != Client.append && c != Client.opening && c != Client.mark
    && c != Client.reclaim && c != Client.uploadGone) := by
  cases c <;> rfl

/-- Settles O55: the three commands, the operations in the middle of their work, and its ends. -/
theorem saveAndJournalCommands : Obligations.SaveAndJournalCommands := by
  intro tag s j freed told marked
  have hmarked : s.allUploaded = true ↔ marked := State.allUploaded_iff
  refine ⟨fun haccepts => haccepts.runs rfl, fun image a bs hwork hport => ?saved, fun image page hwork hfail => ?saveFailed,
    fun haccepts => ?status, fun haccepts => ?erase, ?middle, fun n old sec hwork hport => ?erased,
    fun w herases hwork hfail => ?eraseFailed⟩
  case saved =>
    have hsettled : s.settled = s := hport.settled_longOp hwork.2 rfl
    have hlong : s.longFailed = false := hport.longFailed
    have hflight : s.longInFlight = true := hport.longInFlight
    show execConfigSaveDone s = _
    rw [execConfigSaveDone, live_powered hwork.1, hsettled, hwork.work]
    dsimp only
    rw [hlong, hflight, hport.endOp]
    have hend : ({ s with store := (StoreOp.program a bs).apply s.store, port := s.port.freed } : State).endLong .ok
        (beBytes 2 imageLength ++ slice image 375 4) = { freed with
          store := (StoreOp.program a bs).apply s.store,
          tl := s.tl.ended 0x70#8 tag .ok ([0x01#8, 0x7B#8] ++ slice image 375 4) } :=
      (State.endLong_eq (s := { s with store := (StoreOp.program a bs).apply s.store, port := s.port.freed })
        hwork.2 _ _).trans rfl
    rw [← hend]
    rfl
  case saveFailed =>
    have hlong : s.longFailed = true := hfail.longFailed
    show execConfigSaveDone s = _
    rw [execConfigSaveDone, live_powered hwork.1, hfail.settled, hwork.work]
    dsimp only
    rw [hlong, if_pos rfl, State.failLong, State.endLong_eq (s := s.takeFailed .longOp) hwork.2]
    rfl
  case status =>
    exact (haccepts.runs rfl).trans
      (congrArg (fun bs => Host.Outcome.next (s.replied tag 0x71#8 .ok bs)) s.journalReport_eq)
  case erase =>
    intro open_ broken
    refine ⟨fun hopen => ?_, fun hopen hbroken => ?_, fun hopen hbroken hnot => ?_, fun hopen hbroken hall => ?_⟩
    · exact (haccepts.runs rfl).trans (congrArg Host.Outcome.next (if_pos hopen))
    · exact (haccepts.runs rfl).trans (congrArg Host.Outcome.next ((if_neg hopen).trans (if_pos hbroken)))
    · have hno : (!s.takeFrame.allUploaded) = true := by
        rw [Bool.not_eq_true', ← Bool.not_eq_true]
        exact mt hmarked.mp hnot
      exact (haccepts.runs rfl).trans
        (congrArg Host.Outcome.next ((if_neg hopen).trans ((if_neg hbroken).trans (if_pos hno))))
    · have hyes : ¬ (!s.takeFrame.allUploaded) = true := by
        rw [show s.takeFrame.allUploaded = true from hmarked.mpr hall]
        simp
      intro u
      refine (haccepts.runs rfl).trans
        ((congrArg Host.Outcome.next ((if_neg hopen).trans ((if_neg hbroken).trans (if_neg hyes)))).trans ?_)
      have hu : u = _ := s.stopGathering_fields
      unfold State.startErase
      rw [State.stopGathering_fields, hu]
      simp only [Client.heldByErase_eq]
      rfl
  case middle =>
    intro next on erased programmed first header
    have hopens (t : State) (hjournal : t.journal = s.journal) {q f : Nat}
        (hjudged : judgeHeader (t.store.slot j.head 0) = .valid q f) : t.openProgram = header q := by
      have hsequence : t.headSequence = q := State.headSequence_of_valid (by rw [hjournal]; exact hjudged)
      unfold State.openProgram
      rw [hsequence, hjournal]
      rfl
    refine ⟨fun hwork => ?begins, fun hpending => ⟨fun image page hwork => ⟨fun sec hport => ?_, fun a bs hpage hport => ?_⟩,
      fun n sec hwork hport => ?_, fun n hwork => ⟨fun a len q f hport hjudged => ?_, fun sec q f hport hjudged => ?_,
      fun a bs hport => ?_⟩⟩⟩
    case begins =>
      intro waits
      have hquiet : (s.port.outstanding .append = false ∧ s.port.outstanding .reclaim = false
          ∧ s.port.outstanding .opening = false) ↔ ¬ waits := by
        simp [waits, not_or]
      have hbegin : s.beginErase = if ¬ waits then
          (if s.allUploaded = false then s.endLong .notUploaded []
          else if s.journal.tail = s.journal.head then on s (.eraseOpen 0) 0x72#8 (.read (next j.head * 65536) 65536)
          else on s (.eraseSpan 0) 0x72#8 (.erase j.tail)) else s := by
        unfold State.beginErase
        rw [hwork.2]
        exact if_congr ((and_iff_right rfl).trans hquiet) rfl rfl
      refine ⟨fun hwaits => hbegin.trans (if_neg (not_not.mpr hwaits)), fun hno hnot => ?_, fun hno hall => ?_⟩
      · have hnot' : s.allUploaded = false := Bool.eq_false_iff.mpr (mt hmarked.mp hnot)
        exact hbegin.trans ((if_pos hno).trans ((if_pos hnot').trans (State.endLong_eq hwork.2 _ _)))
      · have hall' : ¬ s.allUploaded = false := by
          rw [hmarked.mpr hall]
          simp
        exact hbegin.trans ((if_pos hno).trans (if_neg hall'))
    · refine hport.step_longOp hwork.1 hpending hwork.2 ?_
      show some ((s.endOp.setWork (.save image 0)).request .longOp (.program 0 (image.take 256))) = _
      have hended : s.endOp = erased sec := hport.endOp
      rw [hended, hwork.setWork (t := erased sec) rfl]
    · subst hpage
      refine hport.step_longOp hwork.1 hpending hwork.2 ?_
      show some ((s.endOp.setWork (.save image 1)).request .longOp (.program 256 (image.drop 256))) = _
      rw [hport.endOp, hwork.setWork (t := programmed a bs) rfl]
    · intro t
      refine hport.step_longOp hwork.1 hpending hwork.2 ?_
      have hafter : s.afterLongOp (.eraseSpan n) (.erase sec) = if t.journal.tail = t.journal.head then
          some ((t.setWork (.eraseOpen (n + 1))).request .longOp t.openRead)
        else some ((t.setWork (.eraseSpan (n + 1))).request .longOp (.erase t.journal.tail)) := by
        unfold State.afterLongOp
        dsimp only
        rw [hport.endOp]
        rfl
      rw [hafter, hwork.setWork (t := t) rfl, hwork.setWork (t := t) rfl, ← apply_ite some]
      rfl
    · refine hport.step_longOp hwork.1 hpending hwork.2 ?_
      show some (s.endOp.request .longOp s.endOp.afterOpenRead) = _
      have hop : freed.afterOpenRead
          = if s.store.blank (next j.head * 65536) 65536 then header q else .erase (next j.head) := by
        unfold State.afterOpenRead
        rw [hopens freed rfl hjudged]
        rfl
      rw [hport.endOp_read]
      show some (freed.request .longOp freed.afterOpenRead) = some (State.request _ _ { freed with tl := s.tl.workOn _ _ _ })
      rw [hop, hwork.workOn]
    · refine hport.step_longOp hwork.1 hpending hwork.2 ?_
      show some (s.endOp.request .longOp s.endOp.openProgram) = _
      rw [hport.endOp]
      show some ((erased sec).request .longOp (erased sec).openProgram)
        = some (State.request _ _ { erased sec with tl := s.tl.workOn _ _ _ })
      rw [hopens (erased sec) rfl hjudged, hwork.workOn]
    · refine hport.step_longOp hwork.1 hpending hwork.2 ?_
      show some ((s.endOp.sectorOpened.setWork (.eraseOld n s.endOp.journal.head)).request .longOp
        (.erase s.endOp.journal.head)) = _
      rw [hport.endOp, hwork.setWork (t := (programmed a bs).sectorOpened) rfl]
  case erased =>
    have hsettled : s.settled = s := hport.settled_longOp hwork.2 rfl
    have hlong : s.longFailed = false := hport.longFailed
    have hflight : s.longInFlight = true := hport.longInFlight
    show execJournalEraseDone s = _
    rw [execJournalEraseDone, live_powered hwork.1, hsettled, hwork.work]
    dsimp only
    rw [hlong, hflight, hport.endOp]
    have hend : (({ s with store := (StoreOp.erase sec).apply s.store, port := s.port.freed } : State).eraseFinished).endLong
        .ok (beBytes 2 j.head ++ beBytes 4 j.nextSerial ++ beBytes 2 (n + 1)) = _ :=
      State.endLong_eq (s := ({ s with store := (StoreOp.erase sec).apply s.store, port := s.port.freed } : State).eraseFinished)
        hwork.2 _ _
    exact congrArg (fun t : State => Host.Outcome.next t.pump) hend
  case eraseFailed =>
    have hlong : s.longFailed = true := hfail.longFailed
    show execJournalEraseDone s = _
    rw [execJournalEraseDone, live_powered hwork.1, hfail.settled, hwork.work]
    dsimp only
    rw [hlong, herases, Bool.and_self, if_pos rfl, State.failLong, State.endLong_eq (s := s.takeFailed .longOp) hwork.2]
    rfl

end Sys2Proof.Machine
end

section
/-! SUPPORT. The start-up path up to the journal scan (R133, R135). -/

namespace Sys2Proof.Machine

variable {s : State}

/-! ### The framers placed at the handover -/

theorem State.placeFramer_fresh (c d : Fin 8) (s : State) : (s.placeFramer c).freshFramer d = s.freshFramer d := by
  by_cases h : c = d
  · subst h
    have hch := State.placeFramer_channel c s
    simp only [State.freshFramer, State.framerRuns, State.effective, hch]
    rfl
  · exact State.freshFramer_congr (State.placeFramer_other h s) rfl rfl

/-- Framers placed one after the other: of the state only the framers named change, each to what R14 gives it. -/
theorem State.foldl_placeFramer (l : List (Fin 8)) (s : State) :
    l.foldl (fun t c => t.placeFramer c) s = { s with channels := (l.foldl (fun t c => t.placeFramer c) s).channels } ∧
    ∀ c : Fin 8, (l.foldl (fun t c => t.placeFramer c) s).channels[c]
      = if c ∈ l then { s.channels[c] with framer := s.freshFramer c } else s.channels[c] := by
  induction l generalizing s with
  | nil => exact ⟨rfl, fun c => (if_neg (List.not_mem_nil)).symm⟩
  | cons a l ih =>
    obtain ⟨hframe, hchannels⟩ := ih (s.placeFramer a)
    rw [List.foldl_cons]
    refine ⟨hframe, fun c => ?_⟩
    rw [hchannels, State.placeFramer_fresh]
    by_cases hca : c = a
    · subst hca
      rw [State.placeFramer_channel, if_pos List.mem_cons_self]
      split <;> rfl
    · rw [State.placeFramer_other (Ne.symm hca), if_congr (List.mem_cons.trans (or_iff_right hca)).symm rfl rfl]

theorem State.placeFramers_eq (s : State) : s.placeFramers = { s with channels := s.placeFramers.channels } :=
  (State.foldl_placeFramer eight s).1

theorem State.placeFramers_channel (c : Fin 8) (s : State) :
    s.placeFramers.channels[c] = { s.channels[c] with framer := s.freshFramer c } :=
  ((State.foldl_placeFramer eight s).2 c).trans (if_pos (List.mem_finRange c))

theorem State.placeFramers_fresh (c : Fin 8) (s : State) : s.placeFramers.freshFramer c = s.freshFramer c := by
  have hfold (l : List (Fin 8)) (t : State) : (l.foldl (fun t c => t.placeFramer c) t).freshFramer c = t.freshFramer c := by
    induction l generalizing t with
    | nil => rfl
    | cons a l ih => exact (ih (t.placeFramer a)).trans (State.placeFramer_fresh a c t)
  exact hfold eight s

/-! ### The handover -/

/-- A table filled from a list of settings holds that list. -/
theorem toList_map_ofFn {α β γ : Type} {n : Nat} (f : Nat → α) (g : Fin n → α → β) (h : β → γ) (d : Fin n → α)
    (k : α → γ) (hk : ∀ i x, h (g i x) = k x) :
    (Vector.ofFn (fun i : Fin n => g i (((List.range n).map f).getD i.val (d i)))).toList.map h
      = (List.range n).map (fun i => k (f i)) := by
  refine List.ext_getElem (by simp) fun i hi hj => ?_
  simp [hk]

theorem toList_ofFn {α : Type} {n : Nat} (f : Nat → α) (d : Fin n → α) :
    (Vector.ofFn (fun i : Fin n => ((List.range n).map f).getD i.val (d i))).toList = (List.range n).map f := by
  have h := toList_map_ofFn f (fun _ x => x) id d id fun _ _ => rfl
  rwa [List.map_id] at h

theorem Port.take_settings (x : Port) (set : PortSettings) : (x.take set).settings = set := by
  rw [Port.take, Port.startChecker_eq]

theorem TimeBase.setMode_clocks (t : TimeBase) (m : PulseMode) (w : Nat) :
    (t.setMode m w).todSeconds = t.todSeconds ∧ (t.setMode m w).runClock = t.runClock := by
  unfold TimeBase.setMode
  split <;> exact ⟨rfl, rfl⟩

theorem State.handOver_settings (bs : List Byte) (s : State) : (s.handOver (settingsOf bs)).settings = settingsOf bs := by
  obtain ⟨hmode, hwindow, -⟩ := s.tb.setMode_fields (settingsOf bs).pulse (settingsOf bs).window
  have hports : (s.handOver (settingsOf bs)).settings.ports = (settingsOf bs).ports :=
    toList_map_ofFn (fun n => portOf bs (4 + 7 * n)) (fun n set => (s.ports[n]).take set) (·.settings) (fun _ => .default) id
      fun n set => Port.take_settings _ set
  have hchannels : (s.handOver (settingsOf bs)).settings.channels = (settingsOf bs).channels :=
    toList_map_ofFn (fun n => channelOf bs (60 + 3 * n)) (fun n set => (s.channels[n]).take set)
      (fun c : Channel => (⟨c.source, c.mask, c.threshold⟩ : ChannelSettings)) (fun n => ⟨some n, 0#8, 16⟩) id fun _ _ => rfl
  have hfamilies : (s.handOver (settingsOf bs)).settings.families = (settingsOf bs).families :=
    toList_ofFn (fun n => familyOf bs (84 + 16 * n)) fun _ => .invalid
  have hranges : (s.handOver (settingsOf bs)).settings.ranges = (settingsOf bs).ranges :=
    toList_ofFn (fun n => rangeOf bs (214 + 11 * n)) fun _ => .invalid
  have hrules : (s.handOver (settingsOf bs)).settings.rules = (settingsOf bs).rules :=
    toList_ofFn (fun n => ruleOf bs (302 + 4 * n)) fun _ => ⟨0, 0, 0⟩
  have hpulse : (s.handOver (settingsOf bs)).settings.pulse = (settingsOf bs).pulse := hmode
  have hwide : (s.handOver (settingsOf bs)).settings.window = (settingsOf bs).window := hwindow
  generalize hx : (s.handOver (settingsOf bs)).settings = x at *
  have hrest : x = { x with
      policy := (settingsOf bs).policy, hold := (settingsOf bs).hold, quiet := (settingsOf bs).quiet,
      utilities := (settingsOf bs).utilities, mask := (settingsOf bs).mask } := by
    subst hx
    rfl
  rw [hrest, hports, hchannels, hfamilies, hpulse, hwide, hranges, hrules]

theorem State.placeFramers_settings (s : State) : s.placeFramers.settings = s.settings := by
  have hchannels : s.placeFramers.channels.toList.map (fun c => (⟨c.source, c.mask, c.threshold⟩ : ChannelSettings))
      = s.channels.toList.map (fun c => ⟨c.source, c.mask, c.threshold⟩) := by
    refine List.ext_getElem (by simp) fun i hi hj => ?_
    have hlt : i < 8 := by simpa using hj
    have hone := State.placeFramers_channel ⟨i, hlt⟩ s
    simp only [Fin.getElem_fin] at hone
    simp [hone]
  rw [State.placeFramers_eq]
  unfold State.settings
  dsimp only
  rw [hchannels]

/-! ### The rows -/

theorem State.startsAt.configLoadFailed (h : s.startsAt .configLoad) (hfail : s.unanswered .startup) :
    exec .configLoadDone s
      = .next (({ s with port := s.port.told .startup } : State).raise .configDefaulted 2#32).beginScan.pump := by
  have hfailed : s.startFailed = true := hfail.startFailed
  show execConfigLoadDone s = _
  rw [execConfigLoadDone, live_powered h.1, hfail.settled]
  exact congrArg Host.Outcome.next ((if_pos h.2).trans (if_pos hfailed))

theorem State.startsAt.configLoaded (h : s.startsAt .configLoad) {a len : Nat} (hport : s.inPort .startup (.read a len)) :
    exec .configLoadDone s = .next ({ s with port := s.port.freed } : State).imageRead.beginScan.pump := by
  have hafter : s.afterStartup (.read a len) = none := by
    unfold State.afterStartup
    rw [h.2]
  have hfailed : s.startFailed = false := hport.startFailed
  have hflight : s.startInFlight = true := hport.startInFlight
  show execConfigLoadDone s = _
  rw [execConfigLoadDone, live_powered h.1, hport.settled_startup hafter]
  rw [hfailed, hflight, hport.endOp_read]
  exact congrArg Host.Outcome.next (if_pos h.2)

/-- Settles O48: the ready wait, its end by time, and the load by what the image is. -/
theorem startUpLoadsTheImage : Obligations.StartUpLoadsTheImage := by
  intro s loading scanning
  refine ⟨fun hwait => ⟨?_, fun hearly => ?_, fun hlate => ?late⟩, fun hload => ⟨fun hfail => hload.configLoadFailed hfail,
    fun a len hport => ?image⟩⟩
  · exact (live_powered hwait.1 _).trans (congrArg Host.Outcome.next (if_pos hwait.2))
  · refine (live_powered hwait.1 _).trans (congrArg Host.Outcome.next (if_neg ?_))
    simp only [State.readyOverdue, Bool.and_eq_true, decide_eq_true_eq]
    exact fun h => absurd h.2 (Nat.not_le.mpr hearly)
  case late =>
    have hdue : s.readyOverdue = true := by
      rw [State.readyOverdue, hwait.2, beq_self_eq_true, Bool.true_and]
      exact decide_eq_true hlate
    have hcut := State.cutOps_eq false s.port.finishing (s.raise .storeFault 2#32)
    generalize hu : (s.raise .storeFault 2#32).cutOps false s.port.finishing = u at hcut
    have htl : u.tl = (s.raise .storeFault 2#32).tl := by rw [hcut]
    have hport : u.port = s.port := by
      rw [hcut]
      exact State.raise_port _ _ _
    refine ⟨{ u with storeFailed := true, port := { u.port with finishing := [] } }, ?_, ?_, ?_,
      fun hclear hmask hroom => ?_, fun a huntouched => ?_⟩
    · refine (live_powered hwait.1 _).trans ((congrArg Host.Outcome.next (if_pos hdue)).trans ?_)
      rw [hu]
      rfl
    · rw [hport]
      exact congrArg (fun v : State => { v with
        storeFailed := true, port := { s.port with finishing := [] }, store := u.store, freeIndex := u.freeIndex }) hcut
    · show u.tl.flags.getLsbD 6 = true
      rw [htl]
      exact State.raise_flag .storeFault 2#32 s
    · show u.tl.notices = s.tl.notices ++ [.event 6 2#32 u.tl.flags s.tb.runClock]
      rw [htl, State.raise_notice hclear hmask, State.queueNotice_room (s := s.flagged .storeFault) hroom]
      rfl
    · show u.store.read a = s.store.read a
      rw [← hu, State.cutOps_untouched false _ _ huntouched, State.raise_store]
  case image =>
    intro freed image good
    have hgood : goodImage image = true ↔ good := goodImage_iff image
    refine ⟨fun hbad => ?_, fun hyes => ⟨(freed.handOver (settingsOf image)).placeFramers, ?_, ?_, fun c hoff => ?_,
      fun c => ?_, fun p => ?_, ?_, ?_, ?_, ?_, ?_, ?_, ?_, ?_⟩⟩
    · refine (hload.configLoaded hport).trans ?_
      exact congrArg (fun t : State => Host.Outcome.next t.beginScan.pump) (if_neg (mt hgood.mp hbad))
    · refine (hload.configLoaded hport).trans ?_
      exact congrArg (fun t : State => Host.Outcome.next t.beginScan.pump) (if_pos (hgood.mpr hyes))
    · rw [State.placeFramers_settings, State.handOver_settings]
    · rw [State.placeFramers_channel, State.placeFramers_fresh]
    · rw [State.placeFramers_channel]
      simp [State.handOver, Channel.take, freed]
    · have hp : (freed.handOver (settingsOf image)).placeFramers.ports[p]
          = (s.ports[p]).take (settingAt (settingsOf image).ports p .default) := by
        rw [State.placeFramers_eq]
        simp [State.handOver, freed]
      rw [hp, Port.take, Port.startChecker_eq]
      refine ⟨rfl, rfl, fun hmode => ?_⟩
      dsimp only at hmode ⊢
      rw [if_pos hmode]
      exact ⟨rfl, rfl, rfl⟩
    all_goals rw [State.placeFramers_eq]
    · exact (TimeBase.setMode_clocks _ _ _).1
    · exact (TimeBase.setMode_clocks _ _ _).2
    all_goals rfl

end Sys2Proof.Machine
end

section
/-! SUPPORT. What one operation cut by a loss of power leaves (R40, R42, R44, R132, R134, R137, R141, R145, R147). -/

namespace Sys2Proof.Machine

variable {s : State} {m : Memory}

/-! ### Bytes replaced, read back in parts -/

theorem slice_length_of_le {bs : List Byte} {k n : Nat} (h : k + n ≤ bs.length) : (slice bs k n).length = n := by
  simp only [slice, List.length_take, List.length_drop]
  omega

theorem getElem_slice {bs : List Byte} {k n i : Nat} (hi : i < (slice bs k n).length) (h : k + i < bs.length) :
    (slice bs k n)[i] = bs[k + i] := by
  simp [slice]

/-- A part of the bytes just replaced is read back. -/
theorem Memory.bytes_put_slice (hm : m.wf) (a : Nat) {bs : List Byte} {k n : Nat} (h : k + n ≤ bs.length) :
    (m.put a bs).bytes (a + k) n = slice bs k n := by
  rw [Memory.bytes_eq _ _ _ (Memory.wf_put m a bs hm)]
  refine List.ext_getElem (by simp [slice_length_of_le h]) fun i hi hi' => ?_
  have hin : i < n := by simpa using hi
  rw [List.getElem_map, List.getElem_range, Nat.add_assoc, Memory.read_put_inside _ _ _ _ (by omega),
    getElem_slice hi' (by omega)]

/-- A byte flipped before it is put is flipped in what is read back. -/
theorem Memory.bytes_put_flip (hm : m.wf) (a i n : Nat) (bs : List Byte) (hi : i < bs.length) :
    (m.put a (flipAt i bs)).bytes 0 n = flipAt (a + i) ((m.put a bs).bytes 0 n) := by
  rw [Memory.bytes_eq _ _ _ (Memory.wf_put m a _ hm), Memory.bytes_eq _ _ _ (Memory.wf_put m a _ hm)]
  refine List.ext_getElem (by simp) fun x hx hx' => ?_
  have hxn : x < n := by simpa using hx
  simp only [List.getElem_map, List.getElem_range, Nat.zero_add, flipAt, List.getElem_set]
  by_cases hin : a ≤ x ∧ x < a + bs.length
  · obtain ⟨k, rfl⟩ : ∃ k, x = a + k := ⟨x - a, by omega⟩
    have hk : k < bs.length := by omega
    rw [Memory.read_put_inside _ _ _ _ (by simpa using hk), Memory.read_put_inside _ _ _ _ hk, List.getElem_set]
    by_cases hik : i = k
    · subst hik
      have hbyte : (List.map (fun x => (m.put a bs).read x) (List.range n)).getD (a + i) 0#8 = bs[i] := by
        rw [List.getD_eq_getElem?_getD, List.getElem?_map, List.getElem?_range hxn, Option.map_some, Option.getD_some,
          Memory.read_put_inside _ _ _ _ hk]
      rw [if_pos rfl, if_pos rfl, hbyte, List.getD_eq_getElem _ _ hk]
    · rw [if_neg hik, if_neg (by omega)]
  · rw [Memory.read_put_outside _ _ _ _ (by simp; omega), Memory.read_put_outside _ _ _ _ (by omega), if_neg (by omega)]

/-! ### A sector slot by slot -/

/-- A slot of a sector limited slot by slot. -/
theorem limitSlots_slice {f : Nat → List Byte → List Byte} (hf : ∀ i x, (f i x).length = x.length) {bs : List Byte}
    (hbs : bs.length = 65536) {i : Nat} (hi : i < 2048) :
    slice (limitSlots f bs) (32 * i) 32 = f i (slice bs (32 * i) 32) := by
  have hlen : ∀ x ∈ List.range 2048, (f x (slice bs (32 * x) 32)).length = 32 := fun x hx => by
    have hlt := List.mem_range.mp hx
    rw [hf, slice_length_of_le (by omega)]
  have hslice := flatMap_slice (List.range 2048) (fun x => f x (slice bs (32 * x) 32)) 32 i hlen (by simpa using hi) []
  rw [List.append_nil, List.getElem_range] at hslice
  exact hslice

/-- What a rule over a sector leaves of one of its slots. -/
theorem StoreOp.damage_erase_slot (hm : m.wf) (idx sec : Nat) {r : CutRule} {f : Nat → List Byte → List Byte}
    (hf : ∀ i x, (f i x).length = x.length) (hr : ∀ bs, r.limit m (sec * 65536) bs = limitSlots f bs) {slot : Nat}
    (hslot : slot < 2048) : ∃ free : List Byte, free.length = 32 ∧
      ((StoreOp.erase sec).damage idx r m).slot sec slot = f slot free := by
  have hfree : ((StoreOp.erase sec).freeBytes idx).length = 65536 := StoreOp.freeBytes_erase_length _ _
  have hlimit : (limitSlots f ((StoreOp.erase sec).freeBytes idx)).length = 65536 := limitSlots_length f hf _ hfree
  refine ⟨slice ((StoreOp.erase sec).freeBytes idx) (32 * slot) 32, slice_length_of_le (by omega), ?_⟩
  show (m.put (sec * 65536) (r.limit m (sec * 65536) _)).bytes (sec * 65536 + slot * 32) 32 = _
  rw [hr, Nat.mul_comm slot, Memory.bytes_put_slice hm _ (by omega), limitSlots_slice hf hfree hslot]

/-! ### Records -/

theorem judgeJournal_torn {bs : List Byte} (hcrc : crcAgrees bs 29 = false) (herased : erasedBytes bs = false) :
    judgeJournal bs = .torn := by
  simp [judgeJournal, hcrc, herased]

theorem crcAgrees_of_judgeHeader {bs : List Byte} {q f : Nat} (h : judgeHeader bs = .valid q f) : crcAgrees bs 30 = true := by
  unfold judgeHeader at h
  split at h
  · cases h
  · split at h
    next hcrc => exact hcrc
    next => cases h

theorem judgeJournal_valid_iff {bs rec : List Byte} :
    judgeJournal bs = .valid rec ↔ erasedBytes bs = false ∧ crcAgrees bs 29 = true ∧ rec = bs := by
  unfold judgeJournal
  split
  next h => simp [h]
  next h =>
    split
    next hcrc => simp [h, hcrc, eq_comm]
    next hcrc => simp [hcrc]

/-- No erased slot is a valid record (R137). -/
theorem erasedBytes_of_crcAgrees {bs : List Byte} (hlen : bs.length = 32) (hcrc : crcAgrees bs 29 = true) :
    erasedBytes bs = false := by
  refine Bool.eq_false_iff.mpr fun herased => ?_
  rw [erasedBytes_eq bs hlen herased] at hcrc
  revert hcrc
  decide +kernel

/-- Thirty-two bytes left by the rule are a valid record only where they are the one there before but for its mark
(R147). -/
theorem leftValid_covered {n : Nat} (hn : n ≤ 30) {old bs : List Byte} (hlen : bs.length = 32) (hold : old.length = 32)
    (h : crcAgrees (leftValid n old bs) n = true) : leftValid n old bs = bs ∧ bs.take n = old.take n ∧ slice bs 30 2 = slice old 30 2 := by
  unfold leftValid at h ⊢
  split at h
  next hsame =>
    have hboth : bs.take n ++ slice bs 30 2 = old.take n ++ slice old 30 2 := beq_iff_eq.mp hsame
    obtain ⟨htake, hcrc⟩ := List.append_inj hboth (by simp [hlen, hold])
    exact ⟨if_pos hsame, htake, hcrc⟩
  next =>
    rw [unsealed_not_valid n bs hn hlen] at h
    cases h

/-! ### The configuration image -/

theorem xor_one_ne (b : Byte) : b ^^^ 1#8 ≠ b := by
  revert b
  decide

/-- A good image with a bit of its part code flipped is not good (R134). -/
theorem goodImage_flip_first {bs : List Byte} (hlen : bs.length = 379) (h : goodImage bs = true) :
    goodImage (flipAt 0 bs) = false := by
  obtain ⟨x, y, rest, rfl⟩ : ∃ x y rest, bs = x :: y :: rest := by
    match bs, hlen with
    | x :: y :: rest, _ => exact ⟨x, y, rest, rfl⟩
  obtain ⟨hcode, -, -⟩ := (goodImage_iff _).mp h
  refine Bool.eq_false_iff.mpr fun hflipped => ?_
  obtain ⟨hcode', -, -⟩ := (goodImage_iff _).mp hflipped
  have hbefore : x.toNat * 256 + y.toNat = 418 := (beNat_append_two x y).symm.trans hcode
  have hafter : (x ^^^ 1#8).toNat * 256 + y.toNat = 418 := (beNat_append_two _ y).symm.trans hcode'
  exact xor_one_ne x (BitVec.eq_of_toNat_eq (by omega))

/-- A good image with a bit of its CRC flipped is not good (R134). -/
theorem goodImage_flip_last {bs : List Byte} (hlen : bs.length = 379) (h : goodImage bs = true) :
    goodImage (flipAt 378 bs) = false := by
  obtain ⟨a, b, c, d, hcrc⟩ : ∃ a b c d, bs.drop 375 = [a, b, c, d] := by
    match hd : bs.drop 375, (show (bs.drop 375).length = 4 by simp [hlen]) with
    | [a, b, c, d], _ => exact ⟨a, b, c, d, rfl⟩
  have hlast : bs.getD 378 0#8 = d := by
    have hget : (bs.drop 375)[3]? = some d := by rw [hcrc]; rfl
    rw [List.getElem?_drop] at hget
    rw [List.getD_eq_getElem?_getD, hget]
    rfl
  have htake : (flipAt 378 bs).take 375 = bs.take 375 := List.take_set_of_le (by decide)
  have hdrop : (flipAt 378 bs).drop 375 = [a, b, c, d ^^^ 1#8] := by
    rw [flipAt, List.drop_set, if_neg (by decide), hcrc, hlast]
    rfl
  obtain ⟨-, -, hbefore⟩ := (goodImage_iff _).mp h
  refine Bool.eq_false_iff.mpr fun hflipped => ?_
  obtain ⟨-, -, hafter⟩ := (goodImage_iff _).mp hflipped
  rw [htake, ← hbefore, numAt, numAt, slice, slice, hdrop, hcrc] at hafter
  have hsame : ((((0 * 256 + a.toNat) * 256 + b.toNat) * 256 + c.toNat) * 256 + (d ^^^ 1#8).toNat)
      = ((((0 * 256 + a.toNat) * 256 + b.toNat) * 256 + c.toNat) * 256 + d.toNat) := hafter
  exact xor_one_ne d (BitVec.eq_of_toNat_eq (by omega))

/-- Cut short at the beginning or the end of the image, the image is not good (R134, R136). -/
theorem goodImage_cut (hm : m.wf) {a : Nat} {bs : List Byte} (hpos : a = 0 ∧ 0 < bs.length ∨ a ≠ 0 ∧ a + (bs.length - 1) = 378
    ∧ 0 < bs.length) : goodImage ((m.put a (CutRule.image.limit m a bs)).bytes 0 379) = false := by
  have hlen (x : List Byte) : ((m.put a x).bytes 0 379).length = 379 := Memory.bytes_length _ _ _ (Memory.wf_put m a x hm)
  by_cases hgood : goodImage ((m.put a bs).bytes 0 379) = true
  · have hlimit : CutRule.image.limit m a bs = flipAt (if a = 0 then 0 else bs.length - 1) bs := if_pos hgood
    rw [hlimit, Memory.bytes_put_flip hm _ _ _ _ (by split <;> omega)]
    rcases hpos with ⟨rfl, -⟩ | ⟨ha, hend, -⟩
    · exact goodImage_flip_first (hlen bs) hgood
    · rw [if_neg ha, hend]
      exact goodImage_flip_last (hlen bs) hgood
  · have hlimit : CutRule.image.limit m a bs = bs := if_neg hgood
    rw [hlimit]
    simpa using hgood

/-! ### One operation cut -/

theorem State.cutOp_store (op : StoreOp) (s : State) :
    (s.cutOp true op).store = op.damage s.freeIndex (s.cutRule true op) s.store := rfl

/-- The rule for a program of thirty-two bytes cut by a loss of power (log 8). -/
theorem State.cutRule_power {sec slot : Nat} (hslot : slot < 2048) {bs : List Byte} (hbs : bs.length = 32) (hsec : 1 ≤ sec)
    (s : State) : s.cutRule true (.program (sec * 65536 + slot * 32) bs)
      = if sec ≤ 17 then .damaged 30 else if slot = 0 then .unsealed else .damaged 29 := by
  have hdiv : (sec * 65536 + slot * 32) / 65536 = sec := by omega
  have hmod : (sec * 65536 + slot * 32) % 65536 = slot * 32 := by omega
  have hrecord : ¬ (sec * 65536 + slot * 32 < 65536) := by omega
  simp only [State.cutRule, sectorSize, hrecord, hbs, hdiv, hmod, headerSector, journalFirst, slotSize, if_false, if_true,
    OfNat.ofNat_ne_one]
  by_cases hdir : sec ≤ 17
  · rw [if_pos hdir]
    by_cases hone : sec = 1
    · rw [if_pos hone]
    · rw [if_neg hone, if_pos (by omega)]
  · rw [if_neg hdir, if_neg (by omega), if_neg (by omega)]
    by_cases hzero : slot = 0
    · rw [if_pos hzero, if_pos (by omega)]
    · rw [if_neg hzero, if_neg (by omega)]

/-- The slot of a record whose program is cut by a loss of power. -/
theorem State.cutOp_slot (hwf : s.store.wf) {sec slot : Nat} (hslot : slot < 2048) {bs : List Byte} (hbs : bs.length = 32)
    (hsec : 1 ≤ sec) : ∃ left : List Byte, left.length = 32 ∧
      (s.cutOp true (.program (sec * 65536 + slot * 32) bs)).store.slot sec slot
        = if sec ≤ 17 then damagedSlot 30 left else if slot = 0 then unsealed 30 left else damagedSlot 29 left := by
  have hrule := State.cutRule_power hslot hbs hsec s
  have hbytes := StoreOp.damage_program_bytes hwf s.freeIndex (r := s.cutRule true (.program (sec * 65536 + slot * 32) bs))
    (by rw [hrule]; split; · exact ⟨by simp, by simp⟩
        · split <;> exact ⟨by simp, by simp⟩) (sec * 65536 + slot * 32) bs
  rw [hbs] at hbytes
  refine ⟨(StoreOp.program (sec * 65536 + slot * 32) bs).freeBytes s.freeIndex,
    (StoreOp.freeBytes_program_length _ _ _).trans hbs, hbytes.trans ?_⟩
  rw [hrule]
  split
  · rfl
  · split <;> rfl

/-- A mark cut is uncertain (R145). -/
theorem State.cutOp_mark (hwf : s.store.wf) {a : Nat} (ha : 65536 ≤ a) (b : Byte) :
    (s.cutOp true (.program a [b])).store.read a ≠ 0#8 ∧ (s.cutOp true (.program a [b])).store.read a ≠ 0xFF#8 := by
  have hrule : s.cutRule true (.program a [b]) = .mark := by
    simp only [State.cutRule, sectorSize, if_neg (Nat.not_lt.mpr ha), List.length_singleton, if_true]
  have hbytes := StoreOp.damage_program_bytes hwf s.freeIndex (r := s.cutRule true (.program a [b]))
    (by rw [hrule]; exact ⟨by simp, by simp⟩) a [b]
  have hwf' : (s.cutOp true (.program a [b])).store.wf := State.wf_cutOps true [.program a [b]] s hwf
  rw [← State.cutOp_store, hrule, List.length_singleton, Memory.bytes_eq _ _ _ hwf'] at hbytes
  have hread : (s.cutOp true (.program a [b])).store.read a = (uncertain [Config.freeByte s.freeIndex a]).getD 0 0#8 :=
    congrArg (fun l : List Byte => l.getD 0 0#8) hbytes
  rw [hread]
  exact uncertain_mark _

/-- The image cut is not good (R134, R136). -/
theorem State.cutOp_image (hwf : s.store.wf) {op : StoreOp} (hop : op = .erase 0 ∨ (∃ bs, op = .program 0 bs ∧ bs.length = 256)
    ∨ ∃ bs, op = .program 256 bs ∧ bs.length = 123) : goodImage ((s.cutOp true op).store.bytes 0 379) = false := by
  rcases hop with rfl | ⟨bs, rfl, hbs⟩ | ⟨bs, rfl, hbs⟩
  · exact goodImage_cut hwf (.inl ⟨rfl, by rw [StoreOp.freeBytes_erase_length]; decide⟩)
  · exact goodImage_cut hwf (.inl ⟨rfl, by rw [StoreOp.freeBytes_program_length]; omega⟩)
  · exact goodImage_cut hwf (.inr ⟨(by decide : 256 ≠ 0), by rw [StoreOp.freeBytes_program_length]; show 256 + _ = 378; omega,
      by rw [StoreOp.freeBytes_program_length]; omega⟩)

/-- The first erase of a ROUTE CLEAR cut leaves no header (R44). -/
theorem State.cutOp_clear (hwf : s.store.wf) (hclear : s.clearing = true) :
    (s.cutOp true (.erase 1)).store.latestHeader = none := by
  have hrule : s.cutRule true (.erase 1) = .noHeaders := by
    simp only [State.cutRule, hclear]
    rfl
  refine Memory.latestHeader_none (State.wf_cutOps true [.erase 1] s hwf) fun i hi => ?_
  obtain ⟨free, hfree, hslot⟩ := StoreOp.damage_erase_slot hwf s.freeIndex 1 (r := s.cutRule true (.erase 1))
    (f := fun _ => Machine.unsealed 30) (fun _ _ => unsealed_length _ _) (fun bs => by rw [hrule]; rfl) hi
  have hbytes : (s.cutOp true (.erase 1)).store.headerBytesAt i = unsealed 30 free := by
    rw [← hslot, ← Memory.slot_header]
    rfl
  rw [hbytes, headerOf?, unsealed_not_valid 30 free (Nat.le_refl _) hfree]
  rfl

/-- What the rule leaves of the slots of a journal sector whose erase is cut (R141, R147). -/
theorem State.cutOp_sector (hwf : s.store.wf) {sec slot : Nat} (hlow : 18 ≤ sec) (hslot : slot < 2048) :
    ∃ free : List Byte, free.length = 32 ∧ (s.cutOp true (.erase sec)).store.slot sec slot =
      if slot = 0 then if s.journal.state != .scanning && !s.journal.inSpan sec then unsealed 30 free
        else leftValid 30 (s.store.slot sec 0) free
      else leftValid 29 (s.store.slot sec slot) free := by
  have hrule : s.cutRule true (.erase sec) = .sector (s.journal.state != .scanning && !s.journal.inSpan sec) := by
    have hzero : ¬ sec = 0 := by omega
    have hheader : ¬ sec = headerSector := fun h => absurd (hlow.trans_eq h) (by decide)
    have hdir : ¬ sec < journalFirst := Nat.not_lt.mpr hlow
    simp only [State.cutRule, Bool.not_true, Bool.false_eq_true, if_false, hzero, hheader, hdir]
  obtain ⟨free, hfree, hleft⟩ := StoreOp.damage_erase_slot hwf s.freeIndex sec (r := s.cutRule true (.erase sec))
    (f := fun i x =>
      if i = 0 then if s.journal.state != .scanning && !s.journal.inSpan sec then unsealed 30 x
        else leftValid 30 (s.store.bytes (sec * 65536) 32) x
      else leftValid 29 (s.store.bytes (sec * 65536 + 32 * i) 32) x)
    (fun i x => by split <;> [split; skip] <;> simp) (fun bs => by rw [hrule]; rfl) hslot
  refine ⟨free, hfree, hleft.trans ?_⟩
  simp only [Memory.slot_bytes, Nat.mul_comm slot, Nat.zero_mul, Nat.add_zero]

/-- What one operation cut by a loss of power leaves. -/
theorem State.cutLeaves_cutOp (hwf : s.store.wf) (op : StoreOp) : s.cutLeaves op (s.cutOp true op).store := by
  refine ⟨fun sec slot bs hslot hbs hop => ?record, fun a b ha hop => ?_, fun hop => State.cutOp_image hwf hop,
    fun code tag n reply hop hlong => ?_, fun sec hlow hhigh hop => ⟨fun slot hone hslot bs hvalid => ?slots, fun q f hvalid => ?head⟩⟩
  case record =>
    subst hop
    have hleaves (hsec : 1 ≤ sec) := State.cutOp_slot hwf hslot hbs hsec
    refine ⟨fun hlow hhigh => ?_, fun hlow hone => ?_, fun hlow hzero q f hvalid => ?_⟩
    · obtain ⟨left, hleft, hbytes⟩ := hleaves hlow
      obtain ⟨hcrc, herased⟩ := damagedSlot_damaged 30 left (.inr rfl) hleft
      rw [hbytes, if_pos hhigh]
      exact judgeDir_damaged herased hcrc
    · obtain ⟨left, hleft, hbytes⟩ := hleaves (by omega)
      obtain ⟨hcrc, herased⟩ := damagedSlot_damaged 29 left (.inl rfl) hleft
      rw [hbytes, if_neg (by omega), if_neg (by omega)]
      exact judgeJournal_torn hcrc herased
    · obtain ⟨left, hleft, hbytes⟩ := hleaves (by omega)
      rw [hbytes, if_neg (by omega), if_pos hzero] at hvalid
      have hcrc := crcAgrees_of_judgeHeader hvalid
      rw [unsealed_not_valid 30 left (Nat.le_refl _) hleft] at hcrc
      cases hcrc
  · subst hop
    exact State.cutOp_mark hwf ha b
  · subst hop
    exact State.cutOp_clear hwf (by simp only [State.clearing, hlong])
  case slots =>
    subst hop
    obtain ⟨free, hfree, hbytes⟩ := State.cutOp_sector hwf hlow hslot
    have hold : (s.store.slot sec slot).length = 32 := Memory.bytes_length _ _ _ hwf
    rw [hbytes, if_neg (by omega)] at hvalid
    obtain ⟨-, hcrc, rfl⟩ := judgeJournal_valid_iff.mp hvalid
    obtain ⟨hsame, htake, hslice⟩ := leftValid_covered (by decide) hfree hold hcrc
    rw [hsame] at hcrc ⊢
    have holdCrc : crcAgrees (s.store.slot sec slot) 29 = true := by
      rw [crcAgrees, ← htake, ← hslice]
      exact hcrc
    exact ⟨_, judgeJournal_valid_iff.mpr ⟨erasedBytes_of_crcAgrees hold holdCrc, holdCrc, rfl⟩, htake⟩
  case head =>
    subst hop
    obtain ⟨free, hfree, hbytes⟩ := State.cutOp_sector hwf hlow (show 0 < 2048 by decide)
    have hold : (s.store.slot sec 0).length = 32 := Memory.bytes_length _ _ _ hwf
    rw [hbytes, if_pos rfl] at hvalid
    have hcrc := crcAgrees_of_judgeHeader hvalid
    by_cases hahead : (s.journal.state != .scanning && !s.journal.inSpan sec) = true
    · rw [if_pos hahead, unsealed_not_valid 30 free (Nat.le_refl _) hfree] at hcrc
      cases hcrc
    · rw [if_neg hahead] at hcrc hvalid
      obtain ⟨hsame, htake, hslice⟩ := leftValid_covered (Nat.le_refl _) hfree hold hcrc
      have hdrop (bs : List Byte) (hlen : bs.length = 32) : slice bs 30 2 = bs.drop 30 :=
        List.take_of_length_le (by simp [hlen])
      have hall : free = s.store.slot sec 0 := by
        rw [← List.take_append_drop 30 free, ← List.take_append_drop 30 (s.store.slot sec 0), htake, ← hdrop free hfree,
          ← hdrop _ hold, hslice]
      rw [hsame, hall] at hvalid
      refine ⟨?_, hvalid⟩
      simpa [imp_iff_not_or] using hahead

end Sys2Proof.Machine
end

section
/-! SUPPORT. The resets and the loss of power (R133, R186, R187). -/

namespace Sys2Proof.Machine

variable {s : State}

/-- Unpowered, the part answers to nothing but POWER_ON_RESET (log 9). -/
theorem exec_unpowered (hpow : s.powered = false) {c : Instr} (hc : c ≠ .powerOnReset) : exec c s = .next s := by
  cases c with
  | powerOnReset => exact absurd rfl hc
  | _ => exact live_unpowered hpow _

/-- Every port at its reset value, but for the level of its carrier. -/
theorem State.afresh_port (p : Fin 8) (s : State) : s.afresh.ports[p] = { Port.reset with carrier := s.ports[p].carrier } :=
  tableMap_getElem _ s.ports p

/-- Every block of a reset part is at its reset value, with the counts of the last scan, the rate of the link, and the
start-up path and the store's port as they may be. -/
theorem State.blocksReset_afresh {j : Journal} (hstate : j.state = .scanning) (hqueue : j.queue = []) (hdiscarded : j.discarded = 0)
    (hrange : j.discardedRange = none) (rate : Option Nat) (p : StorePort) (ph : StartPhase) (failed : Bool) (s : State) :
    ({ s.afresh with journal := j, tl := { Trunk.reset with rate := rate }, port := p, startup := ph,
                     storeFailed := failed } : State).blocksReset := by
  refine ⟨fun x => ?_, fun c => ?_, fun f => congrArg Family.valid (Vector.getElem_replicate _), rfl, rfl, rfl, rfl, rfl,
    fun g => Vector.getElem_replicate _, rfl, rfl, rfl, rfl, fun i => Vector.getElem_replicate _,
    fun r => congrArg RangeEntry.valid (Vector.getElem_replicate _), fun w => Vector.getElem_replicate _,
    fun b => Vector.getElem_replicate _, rfl, rfl, fun e => Vector.getElem_replicate _, rfl, rfl,
    fun r => Vector.getElem_replicate _, hstate, hqueue, hdiscarded, hrange, rfl, rfl, rfl, rfl, rfl, rfl, rfl, rfl, rfl, rfl,
    rfl, rfl, rfl, rfl, rfl, rfl, rfl, rfl, rfl, rfl, rfl, rfl, fun i => Vector.getElem_replicate _⟩
  · have hport := s.afresh_port x
    show s.afresh.ports[x].settings = _ ∧ s.afresh.ports[x].heldHalf = _ ∧ s.afresh.ports[x].checker.phase = _
      ∧ s.afresh.ports[x].checker.errors = _ ∧ s.afresh.ports[x].checker.bits = _
    rw [hport]
    exact ⟨rfl, rfl, rfl, rfl, rfl⟩
  · fin_cases c <;> rfl

/-- The state a command reset leaves (R133, R186). -/
theorem State.commandReset_eq (s : State) : s.commandReset = { s.afresh with
    journal := s.journal.rescan, tl := { Trunk.reset with rate := s.tl.rate },
    port := { StorePort.idle with
      finishing := s.port.unfinished, failed := if s.storeFailed then [.startup] else [] },
    startup := if s.storeFailed then .configLoad else .readyWait, storeFailed := s.storeFailed } := by
  unfold State.commandReset
  cases hfailed : s.storeFailed <;> rfl

theorem State.afresh_carrier (p : Fin 8) (s : State) : s.afresh.ports[p].carrier = s.ports[p].carrier := by
  rw [State.afresh_port]

/-- Settles O47: the reset of power, the unpowered part, the other two resets, and the loss of power. -/
theorem resetsAndPower : Obligations.ResetsAndPower := by
  intro s keeps untouched carrying counts
  have hcut := State.cutOps_eq true s.port.begun s
  have huntouched (t : State) (ht : t.store = (s.cutOps true s.port.begun).store) : untouched t := by
    refine ⟨fun a ha => ?_, fun op hop hwf => ?_⟩
    · rw [ht, State.cutOps_untouched true _ _ ha]
    · rw [ht, hop]
      exact State.cutLeaves_cutOp hwf op
  have hpower : s.cutPower = { s with
      powered := false, port := .idle, store := (s.cutOps true s.port.begun).store,
      freeIndex := (s.cutOps true s.port.begun).freeIndex } :=
    congrArg (fun t : State => { t with powered := false, port := .idle }) hcut
  refine ⟨⟨s.cutPower.afresh, rfl, ?_, ⟨?_, fun p => ?_⟩, huntouched _ rfl, rfl, rfl, rfl, rfl, rfl, rfl, rfl⟩,
    fun hpow c hc => exec_unpowered hpow hc, fun hpow => ⟨?line, fun bytes htx => ?command, ?loss⟩⟩
  · exact State.blocksReset_afresh rfl rfl rfl rfl _ _ _ _ _
  · rw [hpower]
    rfl
  · rw [State.afresh_carrier, hpower]
  case line =>
    exact ⟨s.lineReset, live_powered hpow _, State.blocksReset_afresh rfl rfl rfl rfl _ _ _ _ _,
      ⟨rfl, fun p => State.afresh_carrier p s⟩, ⟨rfl, rfl⟩, rfl, rfl, rfl, rfl, rfl, rfl⟩
  case command =>
    have hsending : s.resetReplySending = true := by
      simp only [State.resetReplySending, htx]
      rfl
    have hreset := s.commandReset_eq
    refine ⟨s.commandReset, ?_, ?_, ?_, ⟨?_, fun p => ?_⟩, ⟨?_, ?_⟩, ?_, ?_, ?_, ?_, fun hok => ?_, fun hfailed => ?_⟩
    · exact (live_powered hpow _).trans (congrArg Host.Outcome.next (if_pos hsending))
    · refine (live_powered hpow _).trans ?_
      rw [htx]
      exact congrArg Host.Outcome.next
        ((State.commandReset_eq (s.setTrunk { s.tl with tx := none })).trans s.commandReset_eq.symm)
    · rw [hreset]
      exact State.blocksReset_afresh rfl rfl rfl rfl _ _ _ _ _
    · rw [hreset]
      rfl
    · rw [hreset]
      exact State.afresh_carrier p s
    · rw [hreset]
      rfl
    · rw [hreset]
      rfl
    · rw [hreset]
      rfl
    · rw [hreset]
      rfl
    · rw [hreset]
    · rw [hreset]
    · rw [hreset, hok]
      exact ⟨rfl, rfl⟩
    · rw [hreset, hfailed]
      exact ⟨rfl, rfl⟩
  case loss =>
    refine ⟨s.cutPower, live_powered hpow _, huntouched _ rfl, ?_⟩
    nth_rewrite 1 [hpower]
    rfl

end Sys2Proof.Machine
end
